-- ==== Sys2Proof/Word.lean ====
section
/-! DEFINITION. The word types of the controller (R6, R7, R75, R78). -/

namespace Sys2Proof

/-- One byte of memory (R6). -/
abbrev Byte := BitVec 8
/-- A 16-bit word: Quill data word, control operand (R7, R75). -/
abbrev Half := BitVec 16
/-- A 32-bit register or instruction word (R6, R75). -/
abbrev Word := BitVec 32
/-- A Quill accumulator (R7, R78). -/
abbrev Acc := BitVec 40
/-- A 48-bit 32.16 position (R7). -/
abbrev Pos48 := BitVec 48

end Sys2Proof
end

