-- ==== Sys2Proof/Syntax.lean ====
section
/-! DEFINITION. The commands the block takes: one constructor per row of the opcode table, with operand types.

A command stands for one event of the table: an instruction of a Quill engine, a bus access of a master, a frame
that arrives, an instant that is reached. Operands carry only what comes from outside the block: the master and the
value of an access, the bytes of a frame, pin levels, sensor readings. -/

namespace Sys2Proof

/-- A bus master (R532): 0 PCIe, 1 LBUS, 2 to 17 Scribe cores, 18 Steward, 19 Warden, 20 JTAG. -/
abbrev Master := Fin 21

/-- An error that triggers the retry of a Quill instruction (R111). -/
inductive DetErr where
  /-- A double-bit error in the program word. -/
  | progEcc
  /-- A double-bit error in a data word. -/
  | dataEcc
  /-- A dual-rail disagreement in the engine's control. -/
  | dualRail
  /-- The attempt has not completed 100 ns after it started (R113). -/
  | timeout
deriving DecidableEq, Repr

/-- What the error detectors say of one attempt of a Quill instruction: the single-bit errors corrected in line in the
words it reads and fetches (R110), and the error that discards the attempt (R111). -/
structure Detect where
  fixed : Nat
  err : Option DetErr
deriving DecidableEq, Repr

/-- An attempt without any error. -/
def Detect.clean : Detect := { fixed := 0, err := none }

/-- A move field of a P-format instruction with EN = 1 (R94). -/
structure QMove where
  /-- 1: store Dd to memory, 0: load Dd from memory. -/
  store : Bool
  d : Fin 8
  p : Fin 4
  mod : Fin 4
deriving DecidableEq, Repr

/-- What the check of a memory finds at an access: nothing, a single-bit error in one word or in both words of an access
that spans two X or Y words, a detected error whose retry succeeds, or one whose retry fails (R13, R110, R243, R503). -/
inductive MemDet where
  | clean
  | fixed (two : Bool)
  | retried | failed
deriving DecidableEq, Repr

/-- A step in debug mode: the word written to QE_CTL, and what the detectors say of the attempts of the stepped
instruction (R110, R111, R118). -/
structure DebugStep where
  v : Word
  det : Detect
  retry : Detect
deriving DecidableEq, Repr

/-- The fields of a P-format instruction (R93); a move field that is absent has EN = 0. -/
structure PFmt where
  an : Fin 4
  s1 : Fin 8
  s2 : Fin 8
  xm : Option QMove
  ym : Option QMove
deriving DecidableEq, Repr

/-- Memory operand of LD, ST, LDL and STL (R95). -/
inductive QAddr where
  | ptr (p : Fin 4) (mod : Fin 4)
  | abs (a : BitVec 14)
deriving DecidableEq, Repr

/-- Count operand of REP (R95). -/
inductive QCount where
  | imm (c : BitVec 13)
  | reg (d : Fin 8)
deriving DecidableEq, Repr

/-- P-format operations in the order of their opcodes 0x00 to 0x0F (R98). -/
inductive POp where
  | move | mpy | mac | msu | add | sub | adda | suba | lda | clr | neg | abs | ash | sat | clmp | cmp
deriving DecidableEq, Repr

/-- An instruction of a Quill engine (R93 to R98). -/
inductive QInstr where
  | par (op : POp) (f : PFmt)
  | ld (reg : Fin 32) (y : Bool) (a : QAddr)
  | st (reg : Fin 32) (y : Bool) (a : QAddr)
  | ldi (reg : Fin 32) (imm : Half)
  | movr (dst src : Fin 32)
  | movs (reg : Fin 32) (toSpecial : Bool) (spec : Fin 14)
  | ldl (an : Fin 4) (y : Bool) (a : QAddr)
  | stl (an : Fin 4) (y : Bool) (a : QAddr)
  | addi (an : Fin 4) (imm : Half)
  | perr (an : Fin 4) (p q : Fin 4) (inc : Bool)
  | glu (dd ds : Fin 8) (gb : Fin 4)
  | rot (inverse : Bool) (hiPair : Bool) (da db dth : Fin 8)
  | jmp (cond : Fin 13) (target : BitVec 12)
  | call (cond : Fin 13) (target : BitVec 12)
  | ret (cond : Fin 13)
  | rep (c : QCount) (last : BitVec 12)
  | fin
deriving DecidableEq, Repr

/-- Words 1 to 7 of a Ductus command record (R175). -/
structure DctParams where
  w1 : Word
  w2 : Word
  w3 : Word
  w4 : Word
  w5 : Word
  w6 : Word
  w7 : Word
deriving DecidableEq, Repr

/-- A frame as it arrives at a port: its bytes, whether a code violation or a foreign control code group stood inside it
(R286), and the code violations and disparity errors of the port since the frame before it, in the frame or ahead of it
(R316). -/
structure RxFrame where
  bytes : List Byte
  viol : Bool
  codes : Nat := 0
deriving DecidableEq, Repr

/-- Where an accepted queue entry stands, and what it says (R545 to R547). -/
structure QEntry where
  idx : BitVec 8
  tag : Half
  p1 : Word
  p2 : Word
  p3 : Word
  p4 : Word
  p5 : Word
  p6 : Word
  p7 : Word
  p8 : Word
deriving DecidableEq, Repr

/-- The size and placement of a bus access (R526, R531): byte enables of the aligned 32-bit word, or an
access that is not one aligned word. -/
inductive Lanes where
  /-- An aligned 32-bit access with every byte enabled. -/
  | all
  /-- An access with some byte enables of the aligned word. -/
  | some (be : BitVec 4)
deriving DecidableEq, Repr

/-- How a master accesses a register or a memory: the byte lanes, and what the detectors of a memory say. -/
structure Access where
  lanes : Lanes
  det : MemDet
deriving DecidableEq, Repr

/-- A 16-bit LBUS access: a read, or the half that is written, and what the detectors of a memory say (R529). -/
structure LbusHalf where
  write : Option Half
  det : MemDet
deriving DecidableEq, Repr

/-- The engine whose fetched word is illegal, and what its detectors say of the fetch (R107, R110). -/
structure EngineFetch where
  engine : Fin 16
  det : Detect
deriving DecidableEq, Repr

/-- The bank whose image a load writes next, and whether a single-bit error was corrected there (R144, R110). -/
structure ImageWord where
  bank : Bool
  fixed : Bool
deriving DecidableEq, Repr

/-- The controller whose frame was sent, and the protocol clocks of 12.5 ns since the sample point of its start-of-frame
bit (R446). -/
structure SentFrame where
  ctrl : Fin 4
  sof : Word
deriving DecidableEq, Repr

/-- A CAN frame (R446): identifier, flags, DLC and data bytes. -/
structure CanFrame where
  ide : Bool
  rtr : Bool
  fdf : Bool
  id : BitVec 29
  brs : Bool
  esi : Bool
  dlc : BitVec 4
  data : List Byte
  /-- The res bit of a CAN FD frame was recessive (R440). -/
  res : Bool
  /-- Protocol clocks of 12.5 ns since the sample point of the start-of-frame bit (R446). -/
  sof : Word
deriving DecidableEq, Repr

/-- The kinds of a service-bus error, as ERR_LAST and ERR_DATA code them (R460). Of ISO 11898-1 beside them: a bit error in
the controller's own error or overload flag, and a further run of eight dominant bits after such a flag (R453). -/
inductive CanError where
  | bitDominant | bitRecessive | stuff | crc | form | ack | flagBit | dominantRun
deriving DecidableEq, Repr

/-- The two channels of the safety island (R461). -/
inductive SafeChannel where
  | warden
  | seal
deriving DecidableEq, Repr

/-- Levels that each channel samples at a tick (R463): the 8 A inputs, the 8 B inputs, the readbacks, whether VIO is
in range (R561), and whether the rails of Margin's safe-stop line are in the same state (R475). -/
structure SafeLevels where
  siA : BitVec 8
  siB : BitVec 8
  sob : BitVec 8
  vioOk : Bool
  sameRails : Bool
deriving DecidableEq, Repr

/-- A heartbeat as it arrives at the receiving channel (R480). -/
structure Heartbeat where
  seq : Half
  pairs : BitVec 8
  cmds : BitVec 8
  crc : Word
deriving DecidableEq, Repr

/-- The commands: one constructor per row of spec/opcode_table.json. -/
inductive Instr where
  -- The stroke and its marks.
  | sendMark (pacePs : Half)
  | nodeInstant
  | freezeMark
  | viewPublish
  | releaseMark
  | axisDispatch (e : Fin 16)
  -- Quill instructions: engine, detection, fields.
  | move (e : Fin 16) (det : Detect) (f : PFmt)
  | mpy (e : Fin 16) (det : Detect) (f : PFmt)
  | mac (e : Fin 16) (det : Detect) (f : PFmt)
  | msu (e : Fin 16) (det : Detect) (f : PFmt)
  | add (e : Fin 16) (det : Detect) (f : PFmt)
  | sub (e : Fin 16) (det : Detect) (f : PFmt)
  | adda (e : Fin 16) (det : Detect) (f : PFmt)
  | suba (e : Fin 16) (det : Detect) (f : PFmt)
  | lda (e : Fin 16) (det : Detect) (f : PFmt)
  | clr (e : Fin 16) (det : Detect) (f : PFmt)
  | neg (e : Fin 16) (det : Detect) (f : PFmt)
  | abs (e : Fin 16) (det : Detect) (f : PFmt)
  | ash (e : Fin 16) (det : Detect) (f : PFmt)
  | sat (e : Fin 16) (det : Detect) (f : PFmt)
  | clmp (e : Fin 16) (det : Detect) (f : PFmt)
  | cmp (e : Fin 16) (det : Detect) (f : PFmt)
  | ld (e : Fin 16) (det : Detect) (reg : Fin 32) (y : Bool) (a : QAddr)
  | st (e : Fin 16) (det : Detect) (reg : Fin 32) (y : Bool) (a : QAddr)
  | ldi (e : Fin 16) (det : Detect) (reg : Fin 32) (imm : Half)
  | movr (e : Fin 16) (det : Detect) (dst src : Fin 32)
  | movs (e : Fin 16) (det : Detect) (reg : Fin 32) (toSpecial : Bool) (spec : Fin 14)
  | ldl (e : Fin 16) (det : Detect) (an : Fin 4) (y : Bool) (a : QAddr)
  | stl (e : Fin 16) (det : Detect) (an : Fin 4) (y : Bool) (a : QAddr)
  | addi (e : Fin 16) (det : Detect) (an : Fin 4) (imm : Half)
  | perr (e : Fin 16) (det : Detect) (an : Fin 4) (p q : Fin 4) (inc : Bool)
  | glu (e : Fin 16) (det : Detect) (dd ds : Fin 8) (gb : Fin 4)
  | rot (e : Fin 16) (det : Detect) (inverse hiPair : Bool) (da db dth : Fin 8)
  | jmp (e : Fin 16) (det : Detect) (cond : Fin 13) (target : BitVec 12)
  | call (e : Fin 16) (det : Detect) (cond : Fin 13) (target : BitVec 12)
  | ret (e : Fin 16) (det : Detect) (cond : Fin 13)
  | rep (e : Fin 16) (det : Detect) (c : QCount) (last : BitVec 12)
  | fin (e : Fin 16) (det : Detect)
  | instructionIllegal (f : EngineFetch)
  | handshakeTimeout (e : Fin 16)
  | qeStep (m : Master) (e : Fin 16) (k : DebugStep)
  | qeMode (m : Master) (e : Fin 16) (v : Word)
  | modeChangeEffect (e : Fin 16)
  -- Coefficient banks.
  | inkBankGo (m : Master) (g : Fin 32) (v : Word)
  | bankImageWrite (n : Fin 256) (w : ImageWord)
  -- Inkwell and Scribe cores.
  | inkTset (m : Master) (t : Fin 512) (v : Word)
  | queuePlacement
  | inkTake (m : Master) (c : Fin 16)
  | done (m : Master) (c : Fin 16)
  | fail (m : Master) (c : Fin 16)
  | inkLigRingRd (m : Master) (l : Fin 64) (v : Word)
  | slackClear (m : Master) (v : Word)
  | scRun (m : Master) (c : Fin 16) (v : Word)
  | scLastingFault (c : Fin 16) (cause : BitVec 4) (addr : Half)
  | machineTimerInterrupt (c : Fin 16)
  -- Ductus records, taken by slot n.
  | moveAbs (n : Fin 256) (r : DctParams)
  | moveRel (n : Fin 256) (r : DctParams)
  | velocity (n : Fin 256) (r : DctParams)
  | setLimits (n : Fin 256) (r : DctParams)
  | abort (n : Fin 256) (r : DctParams)
  | gearIn (n : Fin 256) (r : DctParams)
  | gearRatio (n : Fin 256) (r : DctParams)
  | phase (n : Fin 256) (r : DctParams)
  | trim (n : Fin 256) (r : DctParams)
  | camIn (n : Fin 256) (r : DctParams)
  | camSwitch (n : Fin 256) (r : DctParams)
  | disengage (n : Fin 256) (r : DctParams)
  | stepdir (n : Fin 256) (r : DctParams)
  | dctPortCommit (m : Master) (c : Fin 16) (v : Word)
  | stepTmo (n : Fin 256)
  | camArm (m : Master) (t : Fin 64) (v : Word)
  | camDisarm (m : Master) (t : Fin 64) (v : Word)
  | camCheckDone (t : Fin 64)
  | camCrcCheck (t : Fin 64)
  -- The Codex and bring-up.
  | load (m : Master) (v : Word)
  | transition (m : Master) (v : Word)
  | restart (m : Master) (v : Word)
  | stwDraftJog (m : Master) (v : Word)
  | bootFlashRead (dir slotA slotB : List Byte)
  | loading (ok : Bool)
  | transitionRequest
  | reactEffect
  -- The Plenil link.
  | uplink (ch : Fin 2) (f : RxFrame)
  | driftLoss (n : Fin 256)
  | reference (ch : Fin 2) (f : RxFrame)
  | coldstart (ch : Fin 2) (f : RxFrame)
  | joinReq (ch : Fin 2) (f : RxFrame)
  | acycRsp (ch : Fin 2) (f : RxFrame)
  | setpointReturn (ch : Fin 2) (f : RxFrame)
  | frameForward (p : Fin 4) (f : RxFrame) (residence : BitVec 32)
  | delayRequest (p : Fin 4) (seq : Byte)
  | delayResponse (p : Fin 4) (seq : Byte) (elapsed : BitVec 32)
  | laneSync (p : Fin 4) (lanes : BitVec 4) (aligned : Bool)
  | portUp (p : Fin 4)
  | portDown (p : Fin 4)
  | wrapLeave (ch : Fin 2)
  | acycResend (n : Fin 256)
  | acycBusyResend (n : Fin 256)
  | plnAcqWr (m : Master) (q : Fin 4) (v : Word)
  | plnSwGo (m : Master) (v : Word)
  | resume (m : Master) (v : Word)
  | remove (m : Master) (v : Word)
  | joinFail (n : Fin 256)
  | coldStartListen
  | coldStartWait
  | leadershipEnd
  | activeDomainChange
  | holdover
  | withdraw (m : Master) (v : Word)
  | rejoin (m : Master) (v : Word)
  -- Baseline and timed pulses.
  | inc (m : Master) (domB : Bool) (v : Word)
  | bslSetGo (m : Master) (v : Word)
  | servo
  | tpGo (m : Master) (n : Fin 16) (v : Word)
  | tpStop (m : Master) (n : Fin 16) (v : Word)
  | leadingEdge (n : Fin 16)
  | trailingEdge (n : Fin 16)
  -- Local feedback and captures.
  | quadratureTransition (n : Fin 8) (a b : Bool)
  | hallTransition (n : Fin 8) (code : BitVec 3)
  | indexEvent (n : Fin 8)
  | ssiFrame (n : Fin 8) (startLow : Bool) (raw : Word) (errBit : Bool)
  | stepEdge (n : Fin 8) (level : Bool) (b : Bool)
  | lfClr (m : Master) (v : Word)
  | capture (n : Fin 16) (level : Bool)
  -- Folio.
  | folArm (m : Master) (v : Word)
  | folStop (m : Master) (v : Word)
  | folForce (m : Master) (v : Word)
  | traceEntryWrite
  -- The service bus.
  | sbMode (m : Master) (k : Fin 4) (v : Word)
  | push (m : Master) (k : Fin 4) (v : Word)
  | urgReq (m : Master) (k : Fin 4) (v : Word)
  | cancelHead (m : Master) (k : Fin 4) (v : Word)
  | cancelUrg (m : Master) (k : Fin 4) (v : Word)
  | flush (m : Master) (k : Fin 4) (v : Word)
  | recover (m : Master) (k : Fin 4) (v : Word)
  | recoveryEnd (k : Fin 4)
  | frameSent (f : SentFrame)
  | arbitrationLost (k : Fin 4)
  | busError (k : Fin 4) (err : CanError) (dataPhase transmitter primary : Bool)
  | frameReceived (k : Fin 4) (f : CanFrame)
  | sbRxacq (m : Master) (k : Fin 4) (v : Word)
  | sbRxrel (m : Master) (k : Fin 4) (v : Word)
  -- The safety island.
  | sealTick (l : SafeLevels)
  | wardenCycle
  | discrepancyFault (p : Fin 8)
  | offDelayExpiry (o : Fin 8)
  | readbackFault (o : Fin 8)
  | offPulseTest (o : Fin 8)
  | offPulseFault (o : Fin 8)
  /-- Without an operand the heartbeat is as its sender forms it; with one it arrives otherwise. -/
  | heartbeat (sender : SafeChannel) (h : Option Heartbeat)
  | heartbeatMissing (seenBy : SafeChannel)
  | tickLoss
  | srstNPress (lowMs : Half)
  | auth (m : Master) (tag : Half)
  | commit (m : Master) (tag : Half)
  | setPwd (m : Master) (tag : Half)
  | deauth (m : Master) (tag : Half)
  | authorisationExpiry
  | authRefusalEnd
  | nodeStoFeedback (n : Fin 256)
  | marginSafeStop
  | vsafePowerOn
  | ledgerCheck
  | ledgerQueueWrite
  | vsafeFault
  -- Margin.
  | sourceAssertion (src : Fin 512) (detail : Word)
  | graceEnd (c : Fin 64)
  | escalation (c : Fin 64)
  | wiringFault (pair : Fin 512)
  | mgnAck (m : Master) (hi : Bool) (v : Word)
  | mgnClr (m : Master) (hi : Bool) (v : Word)
  | rearm (m : Master) (v : Word)
  | mgnInjGo (m : Master) (v : Word)
  | stewardGroupStop (g : Fin 32)
  -- Host interfaces.
  | functionLevelReset
  | hstMbSel (m : Master) (v : Word)
  | mailboxRelease (m : Master)
  | hstIndData (m : Master) (write : Option Word) (vfuse : Bool)
  | fuseProgramDone (m : Master)
  | hstQWr (m : Master) (q : Fin 8) (v : Word)
  | queueEntryTake (q : Fin 8)
  | nop (q : Fin 8) (en : QEntry)
  | ductus (q : Fin 8) (en : QEntry)
  | bankLoad (q : Fin 8) (en : QEntry)
  | bankSwap (q : Fin 8) (en : QEntry)
  | switch (q : Fin 8) (en : QEntry)
  | queueReset (m : Master) (q : Fin 8) (v : Word)
  | hstDoorbell (m : Master) (v : Word)
  | hstHdb (m : Master) (v : Word)
  | bitAliasWrite (m : Master) (addr : Word) (v : Word)
  | bitAliasRead (m : Master) (addr : Word)
  | lbusHalfAccess (addr : Word) (k : LbusHalf)
  | registerWrite (m : Master) (addr : Word) (k : Access) (v : Word)
  -- Power, clocks and reset.
  | powerOnReset (vioInRange : Bool)
  | porRelease (testEn bootHost : Bool)
  | nrstPress
  | nrstResetEnd (testEn bootHost : Bool)
  | nrstArmed
  | nrstStuck
  | pePerstN (level : Bool)
  | brownOutWarningRise
  | brownOutWarningFall
  | refclkLost
  | refclkRestored
  | sdrefLost
  | tempHi (above : Bool)
  | pdOff (m : Master) (v : Word)
  | pdOn (m : Master) (v : Word)
  | pdCycle (m : Master) (v : Word)
  | pdSwitchDone
  | tmaxClr (m : Master) (v : Word)
  | vminClr (m : Master) (v : Word)
  | registerRead (m : Master) (addr : Word) (k : Access)
  | mailboxValid (m : Master)
  | sdrefRestored
  | vsafeOkChange (ok : Bool)
  | offPulseEnd (o : Fin 8)
  | arbitrationOpportunity (k : Fin 4)
  | arbitrationWon (k : Fin 4)
  | filteredLineChange (lfLine : Bool) (idx : Fin 24) (level : Bool)
  | pwrTempUpdate (quarterDeg : Half)
  | pwrVcoreSample (mv : Half)
deriving DecidableEq, Repr

end Sys2Proof
end

