-- ==== Sys2Proof/Decode.lean ====
section
/-! DEFINITION. The command that a word spells. No row of the opcode table gives bits: the block takes commands, and the
instruction words of its Quill engines are decoded in Machine/QuillCode.lean. -/

namespace Sys2Proof

/-- The command that a word of the opcode table's bits spells: none, since the table gives no row bits. -/
def decodeTableWord (_nbits _w : Nat) : Option Instr := none

end Sys2Proof
end

