-- ==== Sys2Proof/Machine/Tab.lean ====
section
/-! DEFINITION. Tables of a fixed number of like things, and their update. -/

namespace Sys2Proof.Machine

/-- `n` like things, numbered from 0. -/
abbrev Tab (n : Nat) (α : Type) := Vector α n

/-- The table with entry `i` replaced by `f` of it. -/
def Tab.upd {n : Nat} {α : Type} (t : Tab n α) (i : Fin n) (f : α → α) : Tab n α := t.set i.val (f t[i])

/-- The table with entry `i` set to `x`. -/
def Tab.put {n : Nat} {α : Type} (t : Tab n α) (i : Fin n) (x : α) : Tab n α := t.set i.val x

/-- The entries with their numbers, ascending. -/
def Tab.toPairs {n : Nat} {α : Type} (t : Tab n α) : List (Fin n × α) := (List.finRange n).map (fun i => (i, t[i]))

end Sys2Proof.Machine
end

