-- ==== Sys2Proof/Machine/Parts.lean ====
section
/-! DEFINITION. The parts of the state that no register shows, one structure per block; registers stand in the register
file of State. -/

namespace Sys2Proof.Machine

/-! ## Baseline -/

/-- A time value: seconds, nanoseconds, fraction of a nanosecond (R379). -/
structure BTime where
  sec : BitVec 48
  ns : BitVec 30
  frac : BitVec 24
deriving DecidableEq, Repr

/-- A value for each of the time domains A and B, or of the channels A and B. -/
structure AB (α : Type) where
  a : α
  b : α
deriving DecidableEq, Repr

/-- Baseline (R379 to R391). Instants are counted in units of 2^-24 ns. -/
structure Base where
  /-- Present time of the domains (R379). -/
  dom : AB BTime
  /-- Time of the next send mark in the active domain (R388). -/
  next : BTime
  /-- Baseline tick and active-domain time of the last send mark (R386, R388). -/
  sendTick : Nat
  sendTime : BTime
  /-- Times of both domains latched at the last send mark (R386). -/
  latch : AB BTime
  /-- ERR of the strokes since the last servo run, oldest first; none is a stroke with MISS (R383). -/
  errs : AB (List (Option Int))
  /-- A master copy was measured in the present stroke (R382). -/
  seen : AB Bool
  /-- The servo's r_x (R383). -/
  rate : AB Rat
  /-- Consecutive strokes within 10 ns without MISS, at most 64 (R384). -/
  lockRun : AB Nat
  /-- Offset table of a change of active domain: none pending (R387). -/
  chg : Bool
  /-- PERIOD code in effect: BSL_STROKE_CFG.PERIOD shows the period of a settled transition before its boundary (R50,
  R268). -/
  period : Nat
deriving DecidableEq, Repr

/-! ## Quill engines -/

/-- A repeat level: first and last instruction of the body, and iterations left with the present one (R104 to R106). -/
structure RepLevel where
  first : BitVec 12
  last : BitVec 12
  left : BitVec 13
deriving DecidableEq, Repr

/-- QE_STAT.STATE (R118). -/
inductive QRun where
  | idle | running | retrying | stopped | debug
deriving DecidableEq, Repr

/-- A read of engine memory that waits for the engine to be idle: master and address, single-bit errors that its service
corrects, and whether the check then finds it lastingly wrong (R77, R110). -/
structure HeldRead where
  m : Master
  addr : Nat
  fixed : Nat
  failed : Bool
deriving DecidableEq, Repr

/-- A Quill engine's registers and run state (R78, R104, R108, R111, R119). -/
structure QEng where
  a : Tab 4 Acc
  d : Tab 8 Half
  x : Tab 4 (BitVec 14)
  y : Tab 4 (BitVec 14)
  m : Tab 4 Half
  k : Tab 4 Half
  gb : Tab 4 (BitVec 14)
  /-- S, O, W, N, Z in bits 4 to 0 (R80). -/
  sr : BitVec 5
  /-- Repeat levels, innermost first. -/
  reps : List RepLevel
  /-- Return addresses, last pushed first. -/
  calls : List (BitVec 12)
  axn : Fin 256
  pc : BitVec 12
  run : QRun
  /-- CAUSE of the error whose retry runs (R111, R115). -/
  cause : Nat
  /-- Mode in effect, and a change that waits (R119). -/
  mode : BitVec 2
  nextMode : Option (BitVec 2)
  /-- The page boundary at which the change to service takes effect has passed, and draft programs are still to end
  (R119). -/
  modeDue : Bool
  /-- What the detectors say of the attempts of the instruction that STEP is about to execute, first attempt first
  (R111); none: no error. -/
  det : List Detect
  /-- Axes of the engine list not yet dispatched in this wave (R236). -/
  list : List (Fin 256)
  /-- Reads by other masters that wait for the engine to be idle (R77). -/
  held : List HeldRead
  /-- Tick of the last dispatch. -/
  startTick : Nat
deriving DecidableEq, Repr

/-! ## Inkwell and the Scribe cores -/

/-- What Inkwell keeps of a task beside its registers (R219, R239, R240). -/
structure Task where
  /-- Tick and instant at which the task became ready. -/
  readyTick : Nat
  readySeq : Nat
  /-- Tick at which it was taken or dispatched. -/
  startTick : Nat
  /-- Takes or dispatches since reset, 64 bits. -/
  takes : BitVec 64
  /-- Running time in ns since reset, 64 bits. -/
  runNs : BitVec 64
deriving DecidableEq, Repr

/-- An entry of an application ligature (R226 to R232). -/
structure LigEntry where
  task : Fin 512
  seq : Half
  complete : Bool
  failed : Bool
  res : Word × Word × Word
deriving DecidableEq, Repr

/-- A load of a Scribe core that an engine holds until it is idle: its width as funct3, its register, and the address of
the next instruction (R77). -/
structure HartLoad where
  f : BitVec 3
  rd : Fin 32
  addr : Word
  next : Word
deriving DecidableEq, Repr

/-- The architectural state of an RV32IMAC core in machine mode: the manual names the instruction set and its privileged
architecture, and the published RISC-V manuals give the registers (R12, R242, R244; log entry 97). -/
structure Hart where
  pc : Word
  /-- x0 to x31; x0 is never written. -/
  x : Tab 32 Word
  /-- mstatus.MIE and MPIE. -/
  mie : Bool
  mpie : Bool
  /-- The CSR mie: enables of the machine software, timer and external interrupts. -/
  ie : Word
  mtvec : Word
  mscratch : Word
  mepc : Word
  mcause : Word
  mtval : Word
  minstret : BitVec 64
  /-- The reservation of LR.W: the word's address in the map. -/
  resv : Option Nat
  load : Option HartLoad
deriving DecidableEq, Repr

/-- What Inkwell keeps of a core, and the core's own state (R220, R224, R239, R241). -/
structure CoreSt where
  /-- Dispatch queue, head first. -/
  queue : List (Fin 512)
  running : Option (Fin 512)
  /-- Statistics of the present page: busy ns, takes, longest waiting time in µs. -/
  busyNs : Nat
  takes : Nat
  maxWait : Nat
  /-- Tick from which the running task counts towards the present page. -/
  busyFrom : Nat
  hart : Hart
deriving DecidableEq, Repr

/-- Inkwell's tasks, lists and ligatures (R212 to R240). -/
structure Ink where
  task : Tab 512 Task
  /-- Number of the present instant, by which the ready lists are ordered (R219). -/
  nextReady : Nat
  /-- The four ready lists, head first (R219). -/
  ready : Tab 4 (List (Fin 512))
  core : Tab 16 CoreSt
  /-- Entries of the ligatures, in submission order; 0 to 31 stand empty, their entries being the axis runs. -/
  lig : Tab 64 (List LigEntry)
  /-- Ligatures held by an operation that failed (R503). -/
  held : List (Fin 64)
deriving DecidableEq, Repr

/-! ## Axes, groups and coefficient banks -/

/-- Where a request came from: software, or an entry of a command queue (R146, R547). -/
inductive ReqSrc where
  | software
  | queue (q : Fin 8) (tag : Half)
deriving DecidableEq, Repr

/-- The blocks of the loop library (R127). -/
inductive ChainBlock where
  | fbk | pred | pos | vel | filt | cur | comm | stall | still
deriving DecidableEq, Repr

/-- A block chained for an axis, with its divisor and phase (R57, R127). -/
structure ChainEnt where
  block : ChainBlock
  div : Nat
  phase : Nat
deriving DecidableEq, Repr

/-- What the Codex fixes for an axis (R18, R81, R120 to R128, R153, R236). The layout of the sections that carry it is
not in the manual (log entry 7). -/
structure AxisCfg where
  /-- A drive axis, or a virtual one (R165). -/
  used : Bool
  virt : Bool
  engine : Fin 16
  group : Fin 32
  prog : BitVec 12
  /-- X addresses of the feedback record and of the two state records. -/
  xfb : BitVec 14
  xs0 : BitVec 14
  xs1 : BitVec 14
  /-- Y addresses of the parameter record, the two banks and the output record. -/
  ypar : BitVec 14
  yb0 : BitVec 14
  yb1 : BitVec 14
  yout : BitVec 14
  /-- Words of the output record that are taken (R109). -/
  outLen : Nat
  runMap : BitVec 64
  /-- Local feedback channel that words 0 to 2 are routed from (R121). -/
  lf : Option (Fin 8)
  hold : Bool
  /-- POLICY, FALLBACK and PLACE of parameter word 11 (R124). -/
  policy : BitVec 2
  fallback : Bool
  place : Bool
  /-- Library blocks chained; none for a hand-written program (R127). -/
  chain : List ChainEnt
  /-- The chain commutates from the commanded position (R209). -/
  cmdAngle : Bool
deriving DecidableEq, Repr

/-- The output of a block with a divisor: the one published before, the new one, and the stroke from which it is in use
(R58). -/
structure LibLoop where
  cur : Half
  next : Half
  due : Nat
deriving DecidableEq, Repr

/-- The state that a library program keeps from stroke to stroke (R67, R129). The layout of the state records in X memory
is the library's own and is not in the manual (log entry 101). -/
structure LibSt where
  /-- A run has been committed. -/
  ran : Bool
  pPrev : Pos48
  dp : Acc
  /-- Predicted currents, and the output angle in units of 2^-16 address (R138, R139). -/
  idp : Half
  iqp : Half
  aout : Option Int
  pos : LibLoop
  vel : LibLoop
  /-- Integrators of VEL and CUR, and the last proportional term, in units of 2^-31 (R129, R151). -/
  intV : Int
  intD : Int
  intQ : Int
  prop : Int
  tag : Half
  /-- Runs of VEL with IDLE below SS_VEL, standstill, and re-engage strokes left (R155, R156). -/
  dwell : Nat
  still : Bool
  reeng : Nat
  /-- Run count of the deviation, and its excursion has been declared (R160, R163). -/
  dev : Nat
  declared : Bool
  /-- Last two inputs and last two outputs of FILT (R67, R125). -/
  filt : Tab 4 Half
deriving DecidableEq, Repr

/-- Where an axis entry of the group ligature stands in the present stroke (R228, R236). -/
inductive EntSt where
  /-- No entry: before the first freeze mark of full service. -/
  | none
  | waiting
  | running
  /-- Stopped (R114), or cancelled (R64): it never completes. -/
  | stopped
  | complete
  | released
deriving DecidableEq, Repr

/-- An axis (R14, R82, R109, R120, R296). -/
structure AxisSt where
  /-- Receive side of the input area: words 0 to 6, and whether they arrived in this stroke (R14, R120). -/
  fbIn : Tab 7 Half
  fresh : Bool
  /-- The record the last freeze mark delivered (R120). -/
  fb : Tab 16 Half
  /-- Feedback age counter (R120 word 7). -/
  fbAge : Nat
  /-- The second of the two state records is the committed one (R82). -/
  recB : Bool
  ent : EntSt
  /-- The axis was dispatched in the present stroke (R82). -/
  ran : Bool
  /-- Its last program was stopped by a lasting fault, an illegal instruction or a stack error (R114). -/
  halted : Bool
  /-- Output words of this stroke, and the words last released (R109, R66). -/
  staged : Tab 5 Half
  out : Tab 5 Half
  /-- The output is a repeat (R68). -/
  age : Bool
  /-- The entry sent in the last set-point frame (R296). -/
  sent : BitVec 64
  /-- A node-loss reaction, a join or a removal keeps QS set (R327, R348, R351). -/
  qsLoss : Bool
  qsJoin : Bool
  qsLeave : Bool
  /-- Library state as committed, and as the run of this stroke left it (R67, R82). -/
  lib : LibSt
  libNew : Option LibSt
deriving DecidableEq, Repr

/-- A swap request of a group (R146). -/
structure BankReq where
  target : Bool
  atSwitch : Bool
  /-- The switch boundary has passed, so the request is due (R148). -/
  due : Bool
  src : ReqSrc
deriving DecidableEq, Repr

/-- A group (R62 to R69, R146). -/
structure GroupSt where
  /-- Released in the present stroke. -/
  released : Bool
  /-- The release mark of the present stroke has passed without a release. -/
  late : Bool
  /-- Slack of the stroke once it is known, in ns (R62 to R64). -/
  slack : Option Int
  /-- An output has been released since full service began (R66). -/
  ever : Bool
  /-- The pace-overrun fault of the present run has been raised (R69). -/
  raised : Bool
  swap : Option BankReq
deriving DecidableEq, Repr

/-- A bank load that waits, or is being written (R144, R145). -/
structure BankLoad where
  axis : Fin 256
  bank : Bool
  addr : Word
  accepted : Bool
  /-- Table bases in the image, and words written so far. -/
  tables : List (BitVec 14)
  pos : Nat
  /-- A table in place differs from the image (R142), or the image leaves the Scriptorium (R144). -/
  bad : Bool
  src : ReqSrc
deriving DecidableEq, Repr

/-- Filtered line levels and output levels at the balls (R401, R404, R392, R462). -/
structure Pins where
  lfA : BitVec 8
  lfB : BitVec 8
  lfZ : BitVec 8
  /-- LFn_CK (R401, R414). With PD14 off LFn_CK and TPn are at high impedance (R577). -/
  lfCk : BitVec 8
  cap : BitVec 16
  tp : BitVec 16
  /-- Safe outputs: on while both channels command it, low under a reset and while VIO is low (R462, R561, R586). -/
  so : BitVec 8
  /-- VFUSE is within its range (R544). -/
  vfuse : Bool
deriving DecidableEq, Repr

/-- The compute wave (R84, R227, R236). -/
structure Wave where
  /-- Engine lists and group lists of the Codex. -/
  engList : Tab 16 (List (Fin 256))
  grpList : Tab 32 (List (Fin 256))
  /-- Latency of the present wave's outputs in ns (R61). -/
  latency : Nat
  /-- Baseline tick of the release mark of the stroke whose wave is computed (R62). -/
  relTick : Nat
  /-- The release mark of that stroke has passed (R56). -/
  closed : Bool
  /-- The freeze mark of the present stroke has passed (R55). -/
  frozen : Bool
  /-- The present stroke is the last before a switch boundary, or the first after one (R84). -/
  lastBefore : Bool
  firstAfter : Bool
deriving DecidableEq, Repr

/-! ## Draft service -/

/-- A draft axis: its entry of the DRAFT section, the position it holds in 2^-16 counts, and its jog in counts per draft
stroke: present velocity and target (R261, R262, R266). -/
structure DraftAxis where
  axis : Fin 256
  node : Byte
  engine : Fin 16
  mode : BitVec 2
  words : List Word
  held : Option Int
  vel : Int
  jog : Int
  /-- Last measured position in 2^-16 counts and the speed per draft stroke then, and the integrators of the velocity
  loop and of the d and q current loops in units of 2^-15 (R262). -/
  pos : Int
  speed : Int
  intV : Int
  intD : Int
  intQ : Int
deriving DecidableEq, Repr

/-! ## Ductus -/

/-- A segment of a profile: its number 1 to 7, its whole strokes, its jerk in counts per stroke³, and, where the plan
reaches zero acceleration at its end, the velocity there in 2^-48 counts per stroke (R181, R182, R604). -/
structure Seg where
  lab : Nat
  n : Nat
  j : Rat
  vend : Option Int
deriving DecidableEq, Repr

/-- How a profile ends (R184, R187, R191, R201). -/
inductive ProfEnd where
  /-- At rest on its target, END 1. -/
  | target
  /-- At rest at the reversal point, from where the slot travels back (R186). -/
  | reverse
  /-- At rest at the reversal point, END 3 (R187). -/
  | short
  /-- A velocity that is held without end (R184). -/
  | hold
  /-- At rest, END 1: a ramp to 0 (R184). -/
  | rest
  /-- At rest, END 1: the ramp of DISENGAGE (R201). -/
  | disengaged
  /-- At rest, END 2: ABORT or a quick-stop (R191, R193). -/
  | abort
deriving DecidableEq, Repr

/-- A running profile. Positions, velocities and accelerations are held with 48 fraction bits of a count (R604). -/
structure Prof where
  /-- State at the start of the present segment. -/
  p0 : Int
  v0 : Int
  a0 : Int
  /-- Strokes done in the present segment, which stands first. -/
  m : Nat
  segs : List Seg
  fin : ProfEnd
  /-- Target position, or target velocity where a velocity is held. -/
  target : Int
deriving DecidableEq, Repr

/-- Present limits of a slot in their record formats (R180). -/
structure DctLim where
  v : Nat
  a : Nat
  d : Nat
  j : Nat
deriving DecidableEq, Repr

/-- Gearing of a slot (R195 to R197). -/
structure Gear where
  num : Int
  den : Nat
  /-- Remainder of the accumulation, in units of 2^-16 count (R195). -/
  q : Int
  /-- Displacement emitted so far, in units of 2^-16 count. -/
  disp : Int
  /-- An engagement or a ratio change runs: its distance E in counts, the travel x in 2^-16 counts since it began, the
  ratio it starts from and the displacement it started from (R196, R197). -/
  ramp : Option (Nat × Int × Rat × Rat)
  /-- Engaged: the slot reads STATE 5 (R196). -/
  engaged : Bool
deriving DecidableEq, Repr

/-- Cam use of a slot (R204 to R206). -/
structure Cam where
  table : Fin 64
  /-- Cycle position in 2^-16 master counts, cycle count, and base position in 2^-16 counts. -/
  x : Int
  c : Int
  base : Int
  pend : Option (Fin 64)
deriving DecidableEq, Repr

/-- Settings of a register trim (R199). -/
structure TrimCfg where
  ch : Fin 16
  pitch : Nat
  mexp : Nat
  win : Nat
  gain : Nat
  cmax : Nat
deriving DecidableEq, Repr

/-- Where a Ductus record came from (R176). -/
inductive DctSrc where
  | port (c : Fin 16)
  | queue (q : Fin 8) (tag : Half)
  | direct
deriving DecidableEq, Repr

/-- A committed record that waits for a freeze mark: source, opcode and words 1 to 7 (R175 to R177). The first word is
kept whole, so that its reserved bits can be checked. -/
structure DctRec where
  src : DctSrc
  w0 : Word
  w : DctParams
deriving DecidableEq, Repr

/-- A Ductus slot (R164 to R211). Positions are counted in units of 2^-16 count unless stated. -/
structure Slot where
  /-- The slot record of the Codex (R174). -/
  record : Tab 16 Word
  lim : DctLim
  /-- A lowered D_MAX that becomes the present one when the move ends (R190). -/
  deferred : Option Nat
  /-- A changed J_MAX that the next segment uses (R188). -/
  jnext : Option Nat
  prof : Option Prof
  gear : Option Gear
  cam : Option Cam
  /-- Step/direction following is on (R208). -/
  steps : Bool
  /-- p_cmd, velocity and acceleration of the last sample, the latter two in 2^-48 counts and strokes (R170). -/
  pcmd : Pos48
  vel : Int
  acc : Int
  /-- p_cmd was reloaded since the last sample was written (R172). -/
  resync : Bool
  /-- Position base of gear use: p_cmd less displacement, phase and trim (R195). -/
  base : Int
  phase : Int
  phaseProf : Option Prof
  /-- Limits of the phase move, and a changed jerk that its next segment uses (R198). -/
  phaseLim : DctLim
  phaseJ : Option Nat
  /-- A lowered D_MAX of the phase move that becomes the present one when it ends (R190, R198). -/
  phaseDef : Option Nat
  trim : Int
  trimTarget : Int
  trimCfg : Option TrimCfg
  /-- Target of the running or last move, last reversal point, and m_c of the last capture used (R211). -/
  target : Pos48
  rev : Pos48
  mc : Pos48
  /-- Master sample of the last stroke and its increment (R194). -/
  master : Pos48
  dm : Int
  /-- Capture events since the last freeze mark, as times in 2^-24 ns, oldest first (R199, R200). -/
  caps : List Nat
  /-- Committed records that wait, in commit order (R177), and the record held for fresh feedback (R172). -/
  waiting : List DctRec
  held : Option DctRec
  /-- The evaluation of this stroke failed twice: no sample, no dispatch (R503). -/
  failed : Bool
  /-- A group quick-stop acts on the slot (R193). -/
  qs : Bool
deriving DecidableEq, Repr

/-- Ductus (R164 to R211). -/
structure Dct where
  slot : Tab 256 Slot
  /-- Committed record of each port (R179). -/
  port : Tab 16 (Option DctRec)
  /-- The first stroke of full service is still to come (R172). -/
  first : Bool
  /-- Longest evaluation of the present page in ns (R210). -/
  evalMax : Nat
  /-- Time of the last node instant and of the one before it, in 2^-24 ns (R199). -/
  tNode : Nat
  tPrev : Nat
deriving DecidableEq, Repr

/-! ## Local feedback, captures and timed pulses -/

/-- An edge of a step/direction channel: time in 2^-24 ns and direction (R208, R419). -/
structure StepEdge where
  t : Nat
  pos : Bool
deriving DecidableEq, Repr

/-- A local feedback channel beside its registers (R402 to R419). -/
structure LfCh where
  /-- Count, and angle from 0 to CPR − 1 (R402). -/
  c : BitVec 32
  a : Nat
  /-- Last edge and the edge before it (R208, R418). -/
  e1 : Option StepEdge
  e0 : Option StepEdge
  /-- Both as latched at the last node instant (R208). -/
  l1 : Option StepEdge
  l0 : Option StepEdge
  /-- Hysteresis count, and its values at the last node instants, newest first, at most 64 (R418). -/
  h : BitVec 32
  /-- c at the last index event (R411, R425). -/
  idxC : BitVec 32
  hist : List (BitVec 32)
  /-- Previous SSI value, and consecutive invalid frames (R415, R416). -/
  ssiLast : Option Nat
  ssiBad : Nat
  /-- An SSI frame has been started and not completed (R414). -/
  ssiBusy : Bool
deriving DecidableEq, Repr

/-- A capture input beside its registers (R420 to R422). -/
structure CapSt where
  /-- FIFO entries of five words, oldest first. -/
  fifo : List (List Word)
  /-- Time of the last captured edge in 2^-24 ns. -/
  last : Option Nat
  /-- Captures so far: the next event sequence number (R422; log entry 33). -/
  seq : Nat
deriving DecidableEq, Repr

/-- A committed pulse program: its registers as GO read them, with T0 as an instant of its domain in 2^-24 ns (R393,
R397, R400). -/
structure TpProg where
  cfg : Word
  ns : Nat
  t0 : Int
  per : Word
  perf : Word
  wid : Word
deriving DecidableEq, Repr

/-- A timed pulse output (R392 to R398). -/
structure TpSt where
  cur : Option TpProg
  pend : Option TpProg
  /-- Index of the next pulse in mode 2 (R392). -/
  i : Nat
  /-- Time of the next leading edge in the program's domain, in 2^-24 ns. -/
  edge : Option Int
  /-- A pulse is in progress. -/
  high : Bool
  /-- STOP was written during the pulse in progress (R396). -/
  stopping : Bool
  /-- Tick at which a pending program was last taken: a GO of that instant is queued behind it (R394, R539). -/
  took : Option Nat
  /-- The last writes of TP_CFG, TP_T0_NS, TP_T0_SH and TP_PERF carried a reserved field other than 0 (R393, R400). -/
  rsv : Word
deriving DecidableEq, Repr

/-! ## The service bus -/

/-- A service-bus controller beside its registers and message RAM (R448 to R458). -/
structure SbCt where
  /-- The frame that is offered or being sent: the urgent buffer, or the FIFO head (R449). -/
  offer : Option Bool
  /-- It has won arbitration (R452). -/
  won : Bool
  /-- A cancel acts on it (R452). -/
  cancel : Bool
  /-- Bus-off recovery runs, and the tick at which it began or its last sequence ended (R455). -/
  recovering : Bool
  seqTick : Nat
  /-- A change to initialisation waits for the end of the frame (R442). -/
  initPend : Bool
  /-- Acquired mailbox and buffer (R458). -/
  acq : Option (Fin 16 × Bool)
  /-- Full buffers of each mailbox, oldest first (R457). -/
  full : Tab 16 (List Bool)
deriving DecidableEq, Repr

/-! ## The Plenil link -/

/-- A slot of a script; START counts 2^-8 ns after the send mark (R318). -/
structure ScrSlot where
  start : Nat
  node : Nat
  cap : Nat
deriving DecidableEq, Repr

/-- A schedule script (R317). Instants count 2^-8 ns, GUARD counts ns. -/
structure Script where
  acycMax : Nat
  instant : Nat
  downEnd : Nat
  guard : Nat
  slots : List ScrSlot
deriving DecidableEq, Repr

/-- An entry of the ROUTE section's node table (R346, R602). -/
structure NodeCfg where
  id : Byte
  vendor : Word
  /-- Axis count of the entry, and the axes it lists in local-axis order. -/
  count : Nat
  axes : List (Fin 256)
deriving DecidableEq, Repr

/-- Who waits for the answer of an acyclic command: an entry of a ring, the writes of a join, the timing of other scripts,
the commutation tables of stage 7, or LEAVE (R259, R347, R348, R351, R355). -/
inductive AcycOwner where
  | ring (q : Fin 4) (idx : Nat)
  | join
  | timing (script : Nat) (last : Bool)
  | tables
  | leave
deriving DecidableEq, Repr

/-- An acyclic command of a node (R306, R309, R324). -/
structure AcycCmd where
  owner : AcycOwner
  op : Byte
  la : Byte
  data : List Byte
  tag : Half
  /-- It goes into the next train that has room. -/
  due : Bool
  /-- The last answer was busy. -/
  busy : Bool
  resends : Nat
  busys : Nat
  /-- Stroke in which it was last sent, counted from page 0. -/
  sent : Nat
deriving DecidableEq, Repr

/-- Path delay of a node on one channel: last, the one its transmit instant assumes, and the sum over the page (R349). -/
structure PathSt where
  last : Nat
  assumed : Option Nat
  sum : Nat
  n : Nat
deriving DecidableEq, Repr

/-- A node beside its register (R325 to R352). -/
structure NodeSt where
  uid : BitVec 64
  /-- It declared the safety container; its last container reported STO (R302, R305). -/
  safe : Bool
  sto : Bool
  /-- Its STOP bit is being sent as 1, and it has reported STO since that was first sent (R479). -/
  stopSent : Bool
  stoSeen : Bool
  /-- Accepted uplinks (R357). -/
  count : BitVec 64
  /-- Reserved slot of each script. -/
  slot : Tab 8 (Option Nat)
  /-- VALID timing held for each script (R343). -/
  valid : BitVec 8
  /-- An uplink of this stroke has been accepted, at any time in it (R357). -/
  took : Bool
  /-- A copy was accepted by the freeze mark, or lay outside the window, in this stroke. -/
  seen : Bool
  edge : Bool
  /-- Clean strokes in a row, and strokes since DRIFT was set (R328). -/
  clean : Nat
  driftAge : Nat
  /-- The announced switch was acknowledged (R341). -/
  ack : Bool
  path : AB PathSt
  tag : Half
  cmd : Option AcycCmd
  /-- Commands of the controller's own that wait: owner, OP and data. -/
  todo : List (AcycOwner × Byte × List Byte)
  /-- Page in which a granted membership begins; its writes failed (R347). -/
  joinPage : Nat
  joinBad : Bool
  /-- A REMOVE that waits for the membership (R351). -/
  removeHeld : Bool
  /-- The membership ends at the next page boundary (R350, R351); LEAVE has been answered (R356). -/
  ends : Bool
  left : Bool
deriving DecidableEq, Repr

/-- A join request: path delay on each channel that carried it (R345, R346), and whether it waits since an earlier page
(R342, R350). -/
structure JoinReq where
  kept : Bool
  uid : BitVec 64
  reqId : Byte
  axes : Nat
  caps : Byte
  vendor : Word
  path : AB (Option Nat)
deriving DecidableEq, Repr

/-- A JOIN_GRANT that is sent in strokes 0 to 7 (R305, R347, R349): the channels that carry it, and its transmit instant
on each. -/
structure Grant where
  on : AB Bool
  uid : BitVec 64
  id : Byte
  result : Nat
  slot : Nat
  inst : AB (Option Nat)
  page : Nat
  axes : List (Fin 256)
deriving DecidableEq, Repr

/-- A script switch from its GO to its boundary (R340, R341), or the transition to full service (R268). -/
structure SwitchSt where
  target : Fin 8
  /-- Announcement page P. -/
  page : Nat
  announced : Bool
  transition : Bool
  attempts : Nat
  /-- Members at the start of page P+1. -/
  required : List (Fin 256)
  /-- Settled: taken or abandoned. -/
  taken : Option Bool
  src : ReqSrc
deriving DecidableEq, Repr

/-- A channel beside its registers (R361 to R377). -/
structure ChSt where
  /-- A withdrawal decided in this stroke: its CAUSE. -/
  decided : Nat
  /-- Frames of this train that failed the transmit check, and whether the last frame before it failed (R370). -/
  txFails : List Nat
  txLast : Bool
  /-- The own SETPOINT has returned forward in this stroke. -/
  returned : Bool
  /-- A reverse frame has arrived on port 0 in this page, in the last one (R367). -/
  reverse : Bool
  revLast : Bool
  /-- A wrap has begun and not ended (R375). -/
  wrap : Bool
  /-- The controller itself wraps upstream, downstream. -/
  ownUp : Bool
  ownDown : Bool
  /-- HOPS of the SETPOINT on the unwrapped ring, and its last return in 2^-8 ns after the send mark (R323, R346). -/
  hops : Nat
  ret : Nat
  /-- A probe is requested; a probe page runs; it has failed with this CAUSE (R377). -/
  probeReq : Bool
  probing : Bool
  probeBad : Nat
  /-- Frames of the downlink train of this stroke, and whether they leave by port 1 in the reverse direction (R361). -/
  train : List (List Byte)
  trainRev : Bool
deriving DecidableEq, Repr

/-- A port beside its registers (R288, R289, R314). -/
structure PortSt where
  /-- Delay exchanges of bring-up: how many, and their sum. -/
  n : Nat
  sum : Int
  /-- A delay measured in this page. -/
  next : Option Nat
  /-- Sequence byte of the last delay response sent. -/
  answered : Option Byte
  /-- Longest residence of the page; the port has been in state 4 throughout it, throughout the last one. -/
  resMax : Nat
  upAll : Bool
  upLast : Bool
  /-- The last frame sent on the port by forwarding. -/
  fwd : List Byte
deriving DecidableEq, Repr

/-- The Plenil block (R280 to R378). -/
structure Pln where
  script : Tab 8 (Option Script)
  /-- The draft script, which stands in place of script 7 during draft service (R342). -/
  draftScript : Option Script
  nodes : List NodeCfg
  node : Tab 256 NodeSt
  reqs : List JoinReq
  /-- Requests taken in the page that ends, until REQS shows them (R356). -/
  joinReqs : Nat
  grants : List Grant
  sw : Option SwitchSt
  ch : AB ChSt
  port : Tab 4 PortSt
  /-- Absence limit, rank capability and NETID of the MACHINE section (R327, R331). -/
  absence : Nat
  capable : Bool
  netid : Word
  /-- SSEQ of the last downlink container (R301). -/
  sseq : Half
  /-- Strokes in a row without a valid frame of the master of A, of B (R338). -/
  miss : AB Nat
  /-- (rank, node ID) of members whose COLDSTART of stroke 63 came in this page, and in the last one (R336). -/
  cold : List (Nat × Nat)
  coldLast : List (Nat × Nat)
  /-- Strokes of leadership; valid strokes of integration; the controller has a stroke grid, its own or one it follows
(R333, R334, R389). -/
  lead : Nat
  integ : Nat
  grid : Bool
  /-- Entries in progress of each ring, ended ones behind an unended head. -/
  ended : Tab 4 (List Nat)
deriving DecidableEq, Repr

/-! ## The safety island -/

/-- Where a pair stands in a channel (R467): in RUN, or in DEMAND, and then whether both its channels have been at
demand in one tick since, and whether they have agreed at run without it, so that the pair waits for the full cycle. -/
inductive PairPhase where
  | run
  | demand (both waits : Bool)
deriving DecidableEq, Repr

/-- A channel of the island (R463 to R473, R480). -/
structure SafeCh where
  /-- Filtered levels of the A and B inputs, and ticks that the raw level has differed (R466). -/
  lvlA : BitVec 8
  lvlB : BitVec 8
  cntA : Tab 8 Nat
  cntB : Tab 8 Nat
  /-- Pairs, their disagreement timers, and those that entered DEMAND since the outputs were last commanded. -/
  pair : Tab 8 PairPhase
  timer : Tab 8 Nat
  dem : BitVec 8
  /-- Outputs that had a demand when they were last commanded. -/
  inDem : BitVec 8
  /-- Output commands but for off-pulses, outputs in their off-delay, and outputs that wait for a press. -/
  cmd : BitVec 8
  delaying : BitVec 8
  wait : BitVec 8
  /-- Outputs that the channel switches off when it next commands them, whatever their delay: the delay has ended, or a
  demand came during a pulse (R471, R474). -/
  expired : BitVec 8
  /-- Sequence of the last heartbeat that the channel sent (R480). -/
  sent : Half
  /-- Sequence of the last heartbeat of the other channel, whether it differed, and the faultless ones in a row, at most
  100 (R480 to R484). -/
  seq : Option Half
  diff : Bool
  good : Nat
deriving DecidableEq, Repr

/-- The island's state (R484 to R487). -/
inductive IslMode where
  | startup | running | lockout
deriving DecidableEq, Repr

/-- A ledger entry before it has its number: words 0 to 5, and whether it makes the pending commit or password take
effect (R491, R495). -/
structure SafeEntry where
  words : List Word
  acts : Bool
deriving DecidableEq, Repr

/-- The safety island beside its registers (R461 to R497). -/
structure Isl where
  sealCh : SafeCh
  wdnCh : SafeCh
  mode : IslMode
  /-- The ledger has answered since VSAFE rose (R488). -/
  checked : Bool
  /-- A Warden heartbeat has come since VSAFE rose (R563). -/
  hbSeen : Bool
  mstop : Bool
  /-- The rails of Margin's safe-stop line were in the same state at the last tick (R475). -/
  lineFault : Bool
  /-- Lock-outs found before the ledger has answered, oldest first (R488; log entry 128). -/
  early : List (Nat × Nat)
  /-- VIO is below its range (R561). -/
  vioLow : Bool
  /-- Active configuration, 91 words, or none; password digest, or none (R489, R492). -/
  cfg : List Word
  digest : List Byte
  /-- Cause and detail whose condition a release needs (R484). -/
  condCause : Nat
  condDetail : Nat
  /-- Tick at which the open authorisation was given (R485). -/
  auth : Option Nat
  /-- Wrong passwords in a row, and the 60 s refusal (R494). -/
  fails : Nat
  refusing : Bool
  /-- Tag of the previous command, and a command that waits for the running one (R493). -/
  lastTag : Option Half
  nextCmd : Option (Master × Word)
  /-- Entries that wait for the ledger, and the number of the next one (R488, R495). -/
  queue : List SafeEntry
  nextS : Nat
  /-- The entry last put into the ledger: its address, and the tick at which its write began (R566). -/
  writing : Option (Nat × Nat)
  /-- Commit and password that wait for their entries (R491). -/
  pendCfg : Option (List Word)
  pendPwd : Option (List Byte)
  /-- The off-pulse in progress: output, and whether the Seal makes it; those due after it; tests made (R473, R474). -/
  pulse : Option (Fin 8 × Bool)
  pulseWait : List (Fin 8)
  tests : Tab 8 Nat
deriving DecidableEq, Repr

/-! ## The Codex and the Steward -/

/-- What the MACHINE section gives (R247). The layouts of MACHINE, AXES, ENGINE, PARAM, BANK, DUCTUS, ROUTE and INKWELL
are not in the manual; these are the contents it names (log entry 7). -/
structure MachineSec where
  period : Nat
  script : Fin 8
  absence : Nat
  pace : Nat
  nodeId : Byte
  netid : Word
  capable : Bool
  rank : Nat
  pdMask : Half
deriving DecidableEq, Repr

/-- An axis context of the AXES section (R19, R128, R153, R602). -/
structure AxisCtx where
  axis : Fin 256
  cfg : AxisCfg
  groups : List (Fin 32)
  node : Nat
  holdClass : Bool
  /-- Words 0 to 2 of its feedback carry a measured position. -/
  measured : Bool
deriving DecidableEq, Repr

/-- The AXES section: contexts and group lists (R227). -/
structure AxesSec where
  ctx : List AxisCtx
  lists : Tab 32 (List (Fin 256))
deriving DecidableEq, Repr

/-- An ENGINE section: program, X and Y record images, engine list, run maps. -/
structure EngineSec where
  prog : List Word
  x : List (BitVec 14 × Half)
  y : List (BitVec 14 × Half)
  list : List (Fin 256)
  runMap : List (Fin 256 × BitVec 64)
  /-- What the image of each axis's committed state record says to the library (R270). -/
  lib : List (Fin 256 × LibSt)
deriving DecidableEq, Repr

/-- The BANK section: bank images, and table images by engine and base (R603). -/
structure BankSec where
  banks : List (Fin 256 × Bool × List Half)
  tables : List (Fin 16 × BitVec 14 × List Half)
deriving DecidableEq, Repr

/-- The DUCTUS section: slot records, DCT_CFG values, cam bases. -/
structure DuctusSec where
  slots : List (Fin 256 × List Word)
  cfg : List (Fin 256 × Word)
  cams : List (Fin 64 × Word)
deriving DecidableEq, Repr

/-- The ROUTE section: node table, routed axes, local feedback and capture registers. -/
structure RouteSec where
  nodes : List NodeCfg
  lf : List (Fin 256 × Fin 8)
  regs : List (Nat × Word)
deriving DecidableEq, Repr

/-- The Steward beside its registers (R247 to R279). -/
structure Stw where
  /-- The image being loaded or in service, and its byte range in the Scriptorium while it is protected (R256). -/
  image : List Byte
  range : Option (Nat × Nat)
  /-- Source of the image: 1 and 2 flash slots, 3 host. -/
  source : Nat
  /-- Stage 7 is complete and the transition waits for software (R267, R269). -/
  ready : Bool
  holdDraft : Bool
  /-- A DRAFT section is in use (R259, R260). -/
  draft : Bool
  /-- Baseline tick at which stage 1, stage 2 or a restart ends, and whether the restart reads the image at
  STW_CODEX_ADDR (R259, R275). -/
  stageEnd : Nat
  fromAddr : Bool
  /-- BOOT_HOST as sampled at the release of the reset: no flash is read (R585). -/
  bootHost : Bool
  machine : Option MachineSec
  /-- Engines and cores that the image uses. -/
  engines : List (Fin 16)
  apps : List (Fin 16)
  /-- Local feedback and capture registers of the ROUTE section (R577). -/
  route : List (Nat × Word)
  /-- A REACT section that waits, and the CODEX_ID of its partial image (R273, R274). -/
  react : Option (List Word)
  partId : Word
deriving DecidableEq, Repr

/-! ## Power -/

/-- Power and reset beside their registers (R562 to R577). -/
structure Pwr where
  /-- The power-on reset is asserted; the 10 ms reset of nRST runs; nRST is armed (R562, R567). -/
  por : Bool
  nReset : Bool
  nArmed : Bool
  /-- The running operation on a domain: domain and OP, and a request that runs next (R575, R576). -/
  op : Option (Nat × Nat)
  next : Option Word
  /-- Tick at which the present warning rose (R564), and tick of the last power-on or nRST reset (R244). -/
  bowTick : Nat
  rstTick : Nat
  /-- Level of the ball PE_PERST_N (R587). -/
  perst : Bool
deriving DecidableEq, Repr

/-! ## Margin -/

/-- An entry of the fault history, its eight words (R520). -/
abbrev HistEntry := List Word

/-- Margin beside its registers (R498 to R524). -/
structure Mgn where
  /-- Groups in the scope of each class (R506). -/
  scope : Tab 64 Word
  /-- Source map of the REACT section; an unlisted source has no class (R505). -/
  srcMap : List (Nat × Nat)
  /-- Assertions of each source, 64 bits (R524). -/
  counts : List (Nat × BitVec 64)
  /-- Time of the last assertion of each source, the words of R391 (R524). -/
  times : List (Nat × (Word × Word × Word))
  /-- Time of the source in MGN_FIRST (R518). -/
  firstTime : Word × Word × Word
  /-- History entries that wait for the end of the brown-out warning (R521). -/
  histQ : List HistEntry
  /-- Sequence number of the next history entry (R520). -/
  histSeq : Nat
  /-- The entry last put into the fault history: its address, and the tick at which its write began (R566). -/
  writing : Option (Nat × Nat)
  /-- Collector pairs that injection forces, with their MODE (R522). -/
  forced : List (Nat × Nat)
  /-- Condition sources that are active behind a forced pair (R522). -/
  under : List Nat
  /-- Reaction levels in effect since the last freeze mark: groups at level 1 or above, and at 2 or above (R515). -/
  effDeg : Word
  effQs : Word
  /-- Sources whose assertion keeps the Steward's path in use (R511). -/
  stwPath : List Nat
  /-- Groups whose stop the Steward has written into the transmit control of each channel, on its own (R24) and for a
  reaction (R511). -/
  stwStop : AB Word
  stwReact : AB Word
deriving DecidableEq, Repr

/-! ## Folio -/

/-- A change that waits for the trace memory (R430): channel, time tag, value. -/
structure FolChange where
  ch : Fin 32
  tag : Word × Word × Word
  val : Word
deriving DecidableEq, Repr

/-- Folio beside its registers (R426 to R437). -/
structure Fol where
  /-- Value last stored for each channel. -/
  last : Tab 32 Word
  /-- Input queue, oldest first, at most 64 (R430). -/
  queue : List FolChange
  /-- Changes dropped since the queue last had room (R430). -/
  dropped : Nat
  /-- Entries written since ARM, and change entries written since the trigger (R432, R434). -/
  written : Nat
  post : Nat
  /-- Ring index of the trigger marker (R439). -/
  trig : Half
deriving DecidableEq, Repr

/-! ## Host interface -/

/-- An entry of the MSI-X table (R525, R551). -/
structure MsixEntry where
  addr : BitVec 64
  data : Word
  masked : Bool
deriving DecidableEq, Repr

/-- What a mailbox read ties to its last word (R541, R422). -/
inductive MbTie where
  | none
  | capture (n : Fin 16)
deriving DecidableEq, Repr

/-- A master's mailbox: latched words that wait for VALID, and what its last word ties (R541). -/
structure Mailbox where
  words : List Word
  tie : MbTie
  /-- The target has latched the words, and VALID has not followed yet. -/
  waiting : Bool
deriving DecidableEq, Repr

/-- Result of an accepted entry: still in progress, or known (R548). -/
structure TagRec where
  tag : Half
  op : Byte
  result : Option Byte
  /-- Ring index of the entry. -/
  idx : Byte
  /-- Ring indices and mismatch of reissued entries that wait for the result. -/
  repeats : List (Byte × Bool)
deriving DecidableEq, Repr

/-- A command queue beside its registers (R545 to R549). -/
structure HQueue where
  /-- The last 256 accepted entries, newest first. -/
  tags : List TagRec
  /-- Acknowledged entries at or behind which RD has not passed. -/
  acked : List Byte
deriving DecidableEq, Repr

/-- What a master saw last of an access (R534): the value read, or a refusal. -/
inductive Resp where
  | none
  | value (v : Word)
  | done
  | refused
deriving DecidableEq, Repr

/-- A fuse word being programmed: array offset, bits, and whether the programming has begun (R544, R566). -/
structure FuseJob where
  ofs : Nat
  bits : Word
  begun : Bool
deriving DecidableEq, Repr

/-- An access as a master issues it, with what the check of the memory finds: a read, a write, a half of LBUS, a write at
a window address, a write of QE_CTL with STEP (R118, R526 to R531, R543). -/
inductive BusAcc where
  | read (a : Nat) (l : Lanes) (d : MemDet)
  | write (a : Nat) (l : Lanes) (v : Word) (d : MemDet)
  | half (addr : Word) (w : Option Half) (d : MemDet)
  | win (wa : Nat) (v : Word)
  | step (e : Fin 16) (k : DebugStep)
deriving DecidableEq, Repr

/-- The PCIe configuration space, as far as a rule names it (R525, R527, R534, R551; log entry 129): the power state
D3hot, MSI-X Enable and Function Mask, the uncorrectable error status of AER. -/
structure Pcie where
  d3 : Bool
  msixEn : Bool
  msixMask : Bool
  aer : Word
deriving DecidableEq, Repr

/-- The host interface beside its registers (R525 to R552). -/
structure Hst where
  mb : Tab 21 Mailbox
  queue : Tab 8 HQueue
  /-- Low half of an LBUS read: the address and the held high half; low half of an LBUS write (R529). -/
  lbRead : Option (Word × Half)
  lbWrite : Option (Word × Half)
  msix : Tab 64 MsixEntry
  msixPend : BitVec 64
  pcie : Pcie
  /-- MSI-X messages sent, oldest first: vector number. -/
  msiSent : List (Fin 64)
  resp : Tab 21 Resp
  /-- Accesses of a master that wait behind its read that an engine holds, oldest first (R77, R530). -/
  wait : Tab 21 (List BusAcc)
  /-- Fuse words being programmed or waiting, by master (R544). -/
  fuseJob : Tab 21 (Option FuseJob)
deriving DecidableEq, Repr

end Sys2Proof.Machine
end

