-- ==== Sys2Proof/Config.lean ====
section
/-! DEFINITION. The free values: constants without a body, one for each kind of value the spec leaves open. A free
value is applied to State's counter `free`, which the step that takes it advances, or to the operands it depends on
(log entry 2). -/

namespace Sys2Proof.Config

open Sys2Proof.Machine

/-- A number the spec leaves open, fresh for each value of the counter: durations of the clockless fabric and values
that no rule states (log entry 2). -/
opaque freeNat : Nat → Nat

/-- A signed number the spec leaves open, fresh for each value of the counter (log entry 2). -/
opaque freeInt : Nat → Int

/-- The velocity biquad of FILT: its result for the coefficients FB0, FB1, FB2, FA1, FA2, the present input and the two
before it, and the last two outputs. The manual gives neither its form nor its precision (R125; log entry 104). -/
opaque biquad : Tab 5 Half → Tab 3 Half → Tab 2 Half → Half

/-- The identification registers of the Scribe cores: mvendorid, marchid and mimpid (log entry 97). -/
opaque scribeId : Nat → Word

/-- A word of the PCIe configuration space that no rule names: identification, capability lists and the like (R525; log
entry 129). -/
opaque pcieCfg : Nat → Word

/-- Whether the write of a ledger entry that began at the first tick is still in progress at the second (R566; log entry
131). -/
opaque entryBusy : Nat → Nat → Bool

/-! The sections of a Codex image whose layout is not in the manual: what their bytes say, or none where they say
nothing well formed (log entry 7). -/

/-- The MACHINE section. -/
opaque machineSec : List Byte → Option MachineSec
/-- The AXES section. -/
opaque axesSec : List Byte → Option AxesSec
/-- An ENGINE section. -/
opaque engineSec : List Byte → Option EngineSec
/-- The PARAM section: parameter records by axis. -/
opaque paramSec : List Byte → Option (List (Fin 256 × List Half))
/-- The BANK section. -/
opaque bankSec : List Byte → Option BankSec
/-- The DUCTUS section. -/
opaque ductusSec : List Byte → Option DuctusSec
/-- The ROUTE section. -/
opaque routeSec : List Byte → Option RouteSec
/-- The commutation tables that an image has for a node, a draft or configured one: table 0 to 5, first address, entries.
The manual names no section that holds them (R137, R259; log entry 99). -/
opaque nodeTables : List Byte → Fin 256 → List (Fin 6 × Nat × List Half)
/-- The INKWELL section: values of the Inkwell registers that the Codex sets. -/
opaque inkwellSec : List Byte → Option (List (Nat × Word))

end Sys2Proof.Config
end

