-- ==== Sys2Proof/Machine/Bits.lean ====
section
/-! DEFINITION. Bit fields, signed conversions, saturation and byte order (R6 to R8), and the sparse maps that hold
memory and registers. -/

namespace Sys2Proof.Machine

/-- The field of `n` bits of `w` from bit `lo` up, as a number. -/
def fld (w : Word) (lo n : Nat) : Nat := (w.toNat >>> lo) % 2 ^ n

/-- The mask of `n` bits from bit `lo` up. -/
def maskOf (lo n : Nat) : Word := BitVec.ofNat 32 ((2 ^ n - 1) <<< lo)

/-- `w` with the field of `n` bits from bit `lo` up set to `v` (the low `n` bits of `v`). -/
def put (w : Word) (lo n v : Nat) : Word :=
  (w &&& ~~~ (maskOf lo n)) ||| (BitVec.ofNat 32 ((v % 2 ^ n) <<< lo))

/-- Bit `i` of a word. -/
def bit (w : Word) (i : Nat) : Bool := w.getLsbD i

/-- `w` with bit `i` set to `b`. -/
def putBit (w : Word) (i : Nat) (b : Bool) : Word := put w i 1 b.toNat

/-- The lesser of `v` and the largest value of `n` bits: the saturating counters of the register tables. -/
def satN (n v : Nat) : Nat := min v (2 ^ n - 1)

/-- A counter field of `n` bits from bit `lo` up, incremented and saturating (R539, counter rule). -/
def incFld (w : Word) (lo n : Nat) : Word := put w lo n (satN n (fld w lo n + 1))

/-- A number read as a signed value of `n` bits. -/
def signedOf (n : Nat) (v : Nat) : Int :=
  let u := v % 2 ^ n
  if u < 2 ^ (n - 1) then (u : Int) else (u : Int) - (2 ^ n : Nat)

/-- A signed value, reduced modulo 2^n to a number. -/
def unsignedOf (n : Nat) (x : Int) : Nat := (x % ((2 ^ n : Nat) : Int)).toNat

/-- A signed value saturated to the range of `n` bits. -/
def satI (n : Nat) (x : Int) : Int :=
  max (-((2 ^ (n - 1) : Nat) : Int)) (min (((2 ^ (n - 1) : Nat) : Int) - 1) x)

/-- Floor division by a power of two: the truncation of R8. -/
def shr (x : Int) (n : Nat) : Int := x / ((2 ^ n : Nat) : Int)

/-- Multiplication by 2^s for a signed shift, truncated when s is negative (R8). -/
def scale2 (x : Int) (s : Int) : Int :=
  if 0 ≤ s then x * ((2 ^ s.toNat : Nat) : Int) else shr x (-s).toNat

/-- The low byte `i` of a word, byte 0 in bits [7:0] (R6). -/
def byteOf (w : Word) (i : Nat) : Byte := BitVec.ofNat 8 (w.toNat >>> (8 * i))

/-- The word with the bytes b0 (lowest address) to b3 (R6). -/
def wordOf (b0 b1 b2 b3 : Byte) : Word := b3 ++ b2 ++ b1 ++ b0

/-- The 16-bit word with low byte b0. -/
def halfOf (b0 b1 : Byte) : Half := b1 ++ b0

/-- The set bits of a word, ascending. -/
def bitsOf (w : Word) : List Nat := (List.range 32).filter (bit w)

/-- Little-endian value of a list of bytes. -/
def leNat : List Byte → Nat
  | [] => 0
  | b :: r => b.toNat + 256 * leNat r

/-- Big-endian value of a list of bytes, after the digits of `acc`. -/
def beNat (acc : Nat) : List Byte → Nat
  | [] => acc
  | b :: r => beNat (acc * 256 + b.toNat) r

/-- The `n` low bytes of a number, lowest first. -/
def leBytes : Nat → Nat → List Byte
  | 0, _ => []
  | n + 1, v => BitVec.ofNat 8 v :: leBytes n (v / 256)

/-! Sparse maps in one canonical form: keys strictly rising, and no entry equal to what an unlisted key reads as. -/

/-- What key `k` holds; `d k` where it is not listed. -/
def smGet {α : Type} (d : Nat → α) : List (Nat × α) → Nat → α
  | [], k => d k
  | (j, v) :: r, k => if j = k then v else smGet d r k

/-- Inserts an entry into a list whose keys rise, before the first greater key. -/
def smInsert {α : Type} : List (Nat × α) → Nat → α → List (Nat × α)
  | [], k, v => [(k, v)]
  | (j, u) :: r, k, v => if k < j then (k, v) :: (j, u) :: r else (j, u) :: smInsert r k v

/-- Key `k` set to `v`. An entry equal to the unlisted value is not kept. -/
def smSet {α : Type} [DecidableEq α] (d : Nat → α) (m : List (Nat × α)) (k : Nat) (v : α) : List (Nat × α) :=
  let r := m.filter (fun e => e.1 ≠ k)
  if v = d k then r else smInsert r k v

/-- The canonical form from key `lo` on. -/
def smWfFrom {α : Type} [DecidableEq α] (d : Nat → α) : Nat → List (Nat × α) → Bool
  | _, [] => true
  | lo, (j, v) :: r => decide (lo ≤ j) && decide (v ≠ d j) && smWfFrom d (j + 1) r

/-- The canonical form: keys strictly rising, no entry with the unlisted value. -/
def smWf {α : Type} [DecidableEq α] (d : Nat → α) (m : List (Nat × α)) : Bool := smWfFrom d 0 m

/-- Every key of `m` for which `p` holds set back to its unlisted value. -/
def smDrop {α : Type} (p : Nat → Bool) (m : List (Nat × α)) : List (Nat × α) := m.filter (fun e => !p e.1)

/-- A memory: bytes by address. -/
abbrev Memory := List Host.Cell

/-- What a byte of memory that nothing has written reads as. DESIGN CHOICE (log entry 5): the spec gives no contents at
power-on; the model reads 0. -/
def memUnlisted (_ : Nat) : Byte := 0#8

/-- The byte at address `a`. -/
def Memory.read (m : Memory) (a : Nat) : Byte := smGet memUnlisted m a

/-- Address `a` set to `v`. -/
def Memory.write (m : Memory) (a : Nat) (v : Byte) : Memory := smSet memUnlisted m a v

/-- The canonical form of a memory. -/
def Memory.wf (m : Memory) : Bool := smWf memUnlisted m

/-- `n` bytes from address `a` up. -/
def Memory.readBytes (m : Memory) (a : Nat) : Nat → List Byte
  | 0 => []
  | n + 1 => m.read a :: Memory.readBytes m (a + 1) n

/-- Bytes stored from address `a` up. -/
def Memory.writeBytes (m : Memory) (a : Nat) : List Byte → Memory
  | [] => m
  | b :: r => Memory.writeBytes (m.write a b) (a + 1) r

/-- The 16-bit word at byte address `a`, little-endian (R6). -/
def Memory.read16 (m : Memory) (a : Nat) : Half := halfOf (m.read a) (m.read (a + 1))

/-- The 32-bit word at byte address `a`, little-endian (R6). -/
def Memory.read32 (m : Memory) (a : Nat) : Word :=
  wordOf (m.read a) (m.read (a + 1)) (m.read (a + 2)) (m.read (a + 3))

/-- A 16-bit word stored little-endian. -/
def Memory.write16 (m : Memory) (a : Nat) (v : Half) : Memory :=
  (m.write a (BitVec.ofNat 8 v.toNat)).write (a + 1) (BitVec.ofNat 8 (v.toNat >>> 8))

/-- A 32-bit word stored little-endian. -/
def Memory.write32 (m : Memory) (a : Nat) (v : Word) : Memory :=
  (((m.write a (byteOf v 0)).write (a + 1) (byteOf v 1)).write (a + 2) (byteOf v 2)).write (a + 3) (byteOf v 3)

/-- The words of 32 bits at `a`, `a + 4`, ... -/
def Memory.readWords (m : Memory) (a : Nat) : Nat → List Word
  | 0 => []
  | n + 1 => m.read32 a :: Memory.readWords m (a + 4) n

/-- Words of 32 bits stored at `a`, `a + 4`, ... -/
def Memory.writeWords (m : Memory) (a : Nat) : List Word → Memory
  | [] => m
  | w :: r => Memory.writeWords (m.write32 a w) (a + 4) r

end Sys2Proof.Machine
end

