-- ==== Sys2Proof/Machine/RegMap.lean ====
section
/-! DEFINITION. The register map: the address of every register (R558 and the register tables of the chapters), and
the access type of its bits (R9). A register that the management ring or the island's window alone reaches
(STW_*, WDN_CMD to WDN_PWD_w) has its window address above `winKey`. -/

namespace Sys2Proof.Machine

/-- Keys of the registers that only an indirect window reaches lie above the 32-bit map: window address plus this
(R278, R497, R543). -/
def winKey : Nat := 0x2000000000

namespace Reg

/-- QE_CTL, index 0 to 15 (R118). -/
def QE_CTL (i : Nat) : Nat := 0x010F0000 + 0x100000 * i
/-- QE_STAT, index 0 to 15 (R118). -/
def QE_STAT (i : Nat) : Nat := 0x010F0004 + 0x100000 * i
/-- QE_FAULT, index 0 to 15 (R118). -/
def QE_FAULT (i : Nat) : Nat := 0x010F0008 + 0x100000 * i
/-- QE_ECC_CORR, index 0 to 15 (R118). -/
def QE_ECC_CORR (i : Nat) : Nat := 0x010F000C + 0x100000 * i
/-- QE_RETRY, index 0 to 15 (R118). -/
def QE_RETRY (i : Nat) : Nat := 0x010F0010 + 0x100000 * i
/-- QE_STICKY, index 0 to 15 (R118). -/
def QE_STICKY (i : Nat) : Nat := 0x010F0014 + 0x100000 * i
/-- QE_DBG_PC, index 0 to 15 (R118). -/
def QE_DBG_PC (i : Nat) : Nat := 0x010F0018 + 0x100000 * i
/-- SC_CTL, index 0 to 15 (R246). -/
def SC_CTL (i : Nat) : Nat := 0x020F0000 + 0x100000 * i
/-- SC_STAT, index 0 to 15 (R246). -/
def SC_STAT (i : Nat) : Nat := 0x020F0004 + 0x100000 * i
/-- SC_MTIME_LO, index 0 to 15 (R558). -/
def SC_MTIME_LO (i : Nat) : Nat := 0x020F0008 + 0x100000 * i
/-- SC_MTIME_HI, index 0 to 15 (R558). -/
def SC_MTIME_HI (i : Nat) : Nat := 0x020F000C + 0x100000 * i
/-- SC_MTIMECMP_LO, index 0 to 15 (R558). -/
def SC_MTIMECMP_LO (i : Nat) : Nat := 0x020F0010 + 0x100000 * i
/-- SC_MTIMECMP_HI, index 0 to 15 (R558). -/
def SC_MTIMECMP_HI (i : Nat) : Nat := 0x020F0014 + 0x100000 * i
/-- SC_MSIP, index 0 to 15 (R558). -/
def SC_MSIP (i : Nat) : Nat := 0x020F0018 + 0x100000 * i
/-- SC_IRQ_PEND, index 0 to 15 (R246). -/
def SC_IRQ_PEND (i : Nat) : Nat := 0x020F0020 + 0x100000 * i
/-- SC_IRQ_EN, index 0 to 15 (R246). -/
def SC_IRQ_EN (i : Nat) : Nat := 0x020F0024 + 0x100000 * i
/-- SC_FAULT, index 0 to 15 (R246). -/
def SC_FAULT (i : Nat) : Nat := 0x020F0028 + 0x100000 * i
/-- INK_CTL (R245). -/
def INK_CTL : Nat := 0x04000000
/-- INK_INFL (R245). -/
def INK_INFL : Nat := 0x04000004
/-- INK_INFL_PEAK (R245). -/
def INK_INFL_PEAK : Nat := 0x04000008
/-- INK_TFLAG, index 0 to 511 (R245). -/
def INK_TFLAG (i : Nat) : Nat := 0x04001000 + 0x4 * i
/-- INK_TMASK, index 0 to 511 (R245). -/
def INK_TMASK (i : Nat) : Nat := 0x04001800 + 0x4 * i
/-- INK_TCFG, index 0 to 511 (R245). -/
def INK_TCFG (i : Nat) : Nat := 0x04002000 + 0x4 * i
/-- INK_TSET, index 0 to 511 (R245). -/
def INK_TSET (i : Nat) : Nat := 0x04002800 + 0x4 * i
/-- INK_TSTAT, index 0 to 511 (R245). -/
def INK_TSTAT (i : Nat) : Nat := 0x04003800 + 0x4 * i
/-- INK_EVR, index 0 to 127 (R245). -/
def INK_EVR (i : Nat) : Nat := 0x04003000 + 0x4 * i
/-- INK_TAKE, index 0 to 15 (R245). -/
def INK_TAKE (i : Nat) : Nat := 0x04004000 + 0x20 * i
/-- INK_TAKEF, index 0 to 15 (R245). -/
def INK_TAKEF (i : Nat) : Nat := 0x04004004 + 0x20 * i
/-- INK_DONE, index 0 to 15 (R245). -/
def INK_DONE (i : Nat) : Nat := 0x04004008 + 0x20 * i
/-- INK_QSTAT, index 0 to 15 (R245). -/
def INK_QSTAT (i : Nat) : Nat := 0x0400400C + 0x20 * i
/-- INK_RES0, index 0 to 15 (R245). -/
def INK_RES0 (i : Nat) : Nat := 0x04004010 + 0x20 * i
/-- INK_RES1, index 0 to 15 (R245). -/
def INK_RES1 (i : Nat) : Nat := 0x04004014 + 0x20 * i
/-- INK_RES2, index 0 to 15 (R245). -/
def INK_RES2 (i : Nat) : Nat := 0x04004018 + 0x20 * i
/-- INK_WAIT, index 0 to 15 (R245). -/
def INK_WAIT (i : Nat) : Nat := 0x04004200 + 0x4 * i
/-- INK_LOAD, index 0 to 15 (R245). -/
def INK_LOAD (i : Nat) : Nat := 0x04004240 + 0x4 * i
/-- INK_LIG_CFG, index 0 to 63 (R245). -/
def INK_LIG_CFG (i : Nat) : Nat := 0x04005000 + 0x10 * i
/-- INK_LIG_STAT, index 0 to 63 (R245). -/
def INK_LIG_STAT (i : Nat) : Nat := 0x04005004 + 0x10 * i
/-- INK_LIG_RING, index 0 to 63 (R245). -/
def INK_LIG_RING (i : Nat) : Nat := 0x04005008 + 0x10 * i
/-- INK_SLACK_CTL (R65). -/
def INK_SLACK_CTL : Nat := 0x04006000
/-- INK_SLACK_STROKE (R65). -/
def INK_SLACK_STROKE : Nat := 0x04006004
/-- INK_SLACK_MIN (R65). -/
def INK_SLACK_MIN : Nat := 0x04006008
/-- INK_PACE_MEAS (R72). -/
def INK_PACE_MEAS : Nat := 0x0400600C
/-- INK_OVR_CFG (R68). -/
def INK_OVR_CFG : Nat := 0x04006010
/-- INK_SLACK_MISS (R68). -/
def INK_SLACK_MISS : Nat := 0x04006080
/-- INK_SLACK_HIST, index 0 to 5 (R65). -/
def INK_SLACK_HIST (i : Nat) : Nat := 0x040060C0 + 0x4 * i
/-- INK_SLACK_GRP, index 0 to 31 (R65). -/
def INK_SLACK_GRP (i : Nat) : Nat := 0x04006100 + 0x4 * i
/-- INK_OVR, index 0 to 31 (R68). -/
def INK_OVR (i : Nat) : Nat := 0x04006200 + 0x4 * i
/-- INK_BANK, index 0 to 31 (R152). -/
def INK_BANK (i : Nat) : Nat := 0x04007000 + 0x4 * i
/-- INK_AXS, index 0 to 255 (R159). -/
def INK_AXS (i : Nat) : Nat := 0x04008000 + 0x4 * i
/-- DCT_CTL (R210). -/
def DCT_CTL : Nat := 0x04100000
/-- DCT_EVAL (R210). -/
def DCT_EVAL : Nat := 0x04100004
/-- DCT_ST, index 0 to 255 (R210). -/
def DCT_ST (i : Nat) : Nat := 0x04101000 + 0x4 * i
/-- DCT_CFG, index 0 to 255 (R210). -/
def DCT_CFG (i : Nat) : Nat := 0x04101400 + 0x4 * i
/-- DCT_TRIM, index 0 to 255 (R210). -/
def DCT_TRIM (i : Nat) : Nat := 0x04101800 + 0x4 * i
/-- DCT_PORT, index 0 to 127 (R210). -/
def DCT_PORT (i : Nat) : Nat := 0x04102000 + 0x4 * i
/-- DCT_PST, index 0 to 15 (R210). -/
def DCT_PST (i : Nat) : Nat := 0x04102200 + 0x4 * i
/-- DCT_CAM, index 0 to 63 (R210). -/
def DCT_CAM (i : Nat) : Nat := 0x04102400 + 0x4 * i
/-- PLN_PORT_STAT, index 0 to 3 (R316). -/
def PLN_PORT_STAT (i : Nat) : Nat := 0x04200100 + 0x10 * i
/-- PLN_PORT_DLY, index 0 to 3 (R316). -/
def PLN_PORT_DLY (i : Nat) : Nat := 0x04200104 + 0x10 * i
/-- PLN_PORT_ERR, index 0 to 3 (R316). -/
def PLN_PORT_ERR (i : Nat) : Nat := 0x04200108 + 0x10 * i
/-- PLN_PORT_RES, index 0 to 3 (R316). -/
def PLN_PORT_RES (i : Nat) : Nat := 0x0420010C + 0x10 * i
/-- PLN_SCR_STAT (R356). -/
def PLN_SCR_STAT : Nat := 0x04200200
/-- PLN_SW_CTL (R356). -/
def PLN_SW_CTL : Nat := 0x04200204
/-- PLN_SW_STAT (R356). -/
def PLN_SW_STAT : Nat := 0x04200208
/-- PLN_TIME_STAT (R356). -/
def PLN_TIME_STAT : Nat := 0x0420020C
/-- PLN_CS_STAT (R356). -/
def PLN_CS_STAT : Nat := 0x04200210
/-- PLN_JOIN_STAT (R356). -/
def PLN_JOIN_STAT : Nat := 0x04200214
/-- PLN_NODE_CTL (R356). -/
def PLN_NODE_CTL : Nat := 0x04200218
/-- PLN_VIEW_CFG (R356). -/
def PLN_VIEW_CFG : Nat := 0x0420021C
/-- PLN_VIEW_PUB (R356). -/
def PLN_VIEW_PUB : Nat := 0x04200220
/-- PLN_CTRL_ID (R356). -/
def PLN_CTRL_ID : Nat := 0x04200224
/-- PLN_ACQ_CFG, index 0 to 3 (R356). -/
def PLN_ACQ_CFG (i : Nat) : Nat := 0x04200240 + 0x10 * i
/-- PLN_ACQ_WR, index 0 to 3 (R356). -/
def PLN_ACQ_WR (i : Nat) : Nat := 0x04200244 + 0x10 * i
/-- PLN_ACQ_RD, index 0 to 3 (R356). -/
def PLN_ACQ_RD (i : Nat) : Nat := 0x04200248 + 0x10 * i
/-- PLN_CH_CTL (R378). -/
def PLN_CH_CTL : Nat := 0x04200300
/-- PLN_CH_STAT, index 0 to 1 (R378). -/
def PLN_CH_STAT (i : Nat) : Nat := 0x04200310 + 0x4 * i
/-- PLN_CH_CNT, index 0 to 1 (R378). -/
def PLN_CH_CNT (i : Nat) : Nat := 0x04200320 + 0x4 * i
/-- PLN_NODE, index 1 to 254 (R356). -/
def PLN_NODE (i : Nat) : Nat := 0x04200400 + 0x4 * i
/-- BSL_CTL (R399). -/
def BSL_CTL : Nat := 0x04300000
/-- BSL_INC, index 0 to 1 (R399). -/
def BSL_INC (i : Nat) : Nat := 0x04300010 + 0x4 * i
/-- BSL_DOM_STAT (R399). -/
def BSL_DOM_STAT : Nat := 0x04300018
/-- BSL_PHERR, index 0 to 1 (R399). -/
def BSL_PHERR (i : Nat) : Nat := 0x04300020 + 0x4 * i
/-- BSL_SET (R399). -/
def BSL_SET : Nat := 0x04300030
/-- BSL_SET_NS (R399). -/
def BSL_SET_NS : Nat := 0x04300034
/-- BSL_SET_SL (R399). -/
def BSL_SET_SL : Nat := 0x04300038
/-- BSL_SET_SH (R399). -/
def BSL_SET_SH : Nat := 0x0430003C
/-- BSL_SERVO_CFG (R399). -/
def BSL_SERVO_CFG : Nat := 0x04300040
/-- BSL_STROKE_CFG (R50). -/
def BSL_STROKE_CFG : Nat := 0x04300100
/-- BSL_STROKE_NUM (R51). -/
def BSL_STROKE_NUM : Nat := 0x04300104
/-- BSL_MARK_FRZ (R53). -/
def BSL_MARK_FRZ : Nat := 0x04300108
/-- BSL_MARK_REL (R53). -/
def BSL_MARK_REL : Nat := 0x0430010C
/-- LF_CFG, index 0 to 7 (R424). -/
def LF_CFG (i : Nat) : Nat := 0x04400000 + 0x40 * i
/-- LF_CPR, index 0 to 7 (R424). -/
def LF_CPR (i : Nat) : Nat := 0x04400004 + 0x40 * i
/-- LF_IDX, index 0 to 7 (R424). -/
def LF_IDX (i : Nat) : Nat := 0x04400008 + 0x40 * i
/-- LF_SSI, index 0 to 7 (R424). -/
def LF_SSI (i : Nat) : Nat := 0x0440000C + 0x40 * i
/-- LF_STAT, index 0 to 7 (R424). -/
def LF_STAT (i : Nat) : Nat := 0x04400010 + 0x40 * i
/-- LF_ERR, index 0 to 7 (R424). -/
def LF_ERR (i : Nat) : Nat := 0x04400014 + 0x40 * i
/-- LF_POS, index 0 to 7 (R424). -/
def LF_POS (i : Nat) : Nat := 0x04400018 + 0x40 * i
/-- LF_ANG, index 0 to 7 (R424). -/
def LF_ANG (i : Nat) : Nat := 0x0440001C + 0x40 * i
/-- LF_SPD, index 0 to 7 (R424). -/
def LF_SPD (i : Nat) : Nat := 0x04400020 + 0x40 * i
/-- LF_IDXLAT, index 0 to 7 (R424). -/
def LF_IDXLAT (i : Nat) : Nat := 0x04400024 + 0x40 * i
/-- LF_CTL (R424). -/
def LF_CTL : Nat := 0x04400400
/-- CAP_CFG, index 0 to 15 (R424). -/
def CAP_CFG (i : Nat) : Nat := 0x04402000 + 0x10 * i
/-- CAP_STAT, index 0 to 15 (R424). -/
def CAP_STAT (i : Nat) : Nat := 0x04402004 + 0x10 * i
/-- CAP_LAST, index 0 to 15 (R424). -/
def CAP_LAST (i : Nat) : Nat := 0x04402008 + 0x10 * i
/-- TP_CFG, index 0 to 15 (R400). -/
def TP_CFG (i : Nat) : Nat := 0x04403000 + 0x20 * i
/-- TP_T0_NS, index 0 to 15 (R400). -/
def TP_T0_NS (i : Nat) : Nat := 0x04403004 + 0x20 * i
/-- TP_T0_SL, index 0 to 15 (R400). -/
def TP_T0_SL (i : Nat) : Nat := 0x04403008 + 0x20 * i
/-- TP_T0_SH, index 0 to 15 (R400). -/
def TP_T0_SH (i : Nat) : Nat := 0x0440300C + 0x20 * i
/-- TP_PER, index 0 to 15 (R400). -/
def TP_PER (i : Nat) : Nat := 0x04403010 + 0x20 * i
/-- TP_PERF, index 0 to 15 (R400). -/
def TP_PERF (i : Nat) : Nat := 0x04403014 + 0x20 * i
/-- TP_WID, index 0 to 15 (R400). -/
def TP_WID (i : Nat) : Nat := 0x04403018 + 0x20 * i
/-- TP_CTL, index 0 to 15 (R400). -/
def TP_CTL (i : Nat) : Nat := 0x0440301C + 0x20 * i
/-- TP_STAT, index 0 to 15 (R400). -/
def TP_STAT (i : Nat) : Nat := 0x04403200 + 0x4 * i
/-- FOL_CTL (R439). -/
def FOL_CTL : Nat := 0x04500000
/-- FOL_TRIG (R439). -/
def FOL_TRIG : Nat := 0x04500004
/-- FOL_TCMP (R439). -/
def FOL_TCMP : Nat := 0x04500008
/-- FOL_TMASK (R439). -/
def FOL_TMASK : Nat := 0x0450000C
/-- FOL_TGRP (R439). -/
def FOL_TGRP : Nat := 0x04500010
/-- FOL_PRE (R439). -/
def FOL_PRE : Nat := 0x04500014
/-- FOL_POST (R439). -/
def FOL_POST : Nat := 0x04500018
/-- FOL_STAT (R439). -/
def FOL_STAT : Nat := 0x0450001C
/-- FOL_IDX (R439). -/
def FOL_IDX : Nat := 0x04500020
/-- FOL_DEAD (R439). -/
def FOL_DEAD : Nat := 0x04500024
/-- FOL_CNT (R439). -/
def FOL_CNT : Nat := 0x04500028
/-- FOL_CH_SRC, index 0 to 31 (R439). -/
def FOL_CH_SRC (i : Nat) : Nat := 0x04500100 + 0x10 * i
/-- FOL_CH_MASK, index 0 to 31 (R439). -/
def FOL_CH_MASK (i : Nat) : Nat := 0x04500104 + 0x10 * i
/-- FOL_CH_ADDR, index 0 to 31 (R439). -/
def FOL_CH_ADDR (i : Nat) : Nat := 0x04500108 + 0x10 * i
/-- SB_CTL, index 0 to 3 (R460). -/
def SB_CTL (i : Nat) : Nat := 0x04600000 + 0x100 * i
/-- SB_NBT, index 0 to 3 (R460). -/
def SB_NBT (i : Nat) : Nat := 0x04600004 + 0x100 * i
/-- SB_DBT, index 0 to 3 (R460). -/
def SB_DBT (i : Nat) : Nat := 0x04600008 + 0x100 * i
/-- SB_STAT, index 0 to 3 (R460). -/
def SB_STAT (i : Nat) : Nat := 0x0460000C + 0x100 * i
/-- SB_ERR, index 0 to 3 (R460). -/
def SB_ERR (i : Nat) : Nat := 0x04600010 + 0x100 * i
/-- SB_TXC, index 0 to 3 (R460). -/
def SB_TXC (i : Nat) : Nat := 0x04600014 + 0x100 * i
/-- SB_TXS, index 0 to 3 (R460). -/
def SB_TXS (i : Nat) : Nat := 0x04600018 + 0x100 * i
/-- SB_TXCNT, index 0 to 3 (R460). -/
def SB_TXCNT (i : Nat) : Nat := 0x0460001C + 0x100 * i
/-- SB_RXACQ, index 0 to 3 (R460). -/
def SB_RXACQ (i : Nat) : Nat := 0x04600020 + 0x100 * i
/-- SB_RXREL, index 0 to 3 (R460). -/
def SB_RXREL (i : Nat) : Nat := 0x04600024 + 0x100 * i
/-- SB_RXSTAT, index 0 to 3 (R460). -/
def SB_RXSTAT (i : Nat) : Nat := 0x04600028 + 0x100 * i
/-- SB_RXCNT, index 0 to 3 (R460). -/
def SB_RXCNT (i : Nat) : Nat := 0x0460002C + 0x100 * i
/-- SB_MBF0, index 0 to 15 (R460). -/
def SB_MBF0 (i : Nat) : Nat := 0x04600040 + 0x8 * i
/-- SB_MBM0, index 0 to 15 (R460). -/
def SB_MBM0 (i : Nat) : Nat := 0x04600044 + 0x8 * i
/-- SB_MBF1, index 0 to 15 (R460). -/
def SB_MBF1 (i : Nat) : Nat := 0x04600140 + 0x8 * i
/-- SB_MBM1, index 0 to 15 (R460). -/
def SB_MBM1 (i : Nat) : Nat := 0x04600144 + 0x8 * i
/-- SB_MBF2, index 0 to 15 (R460). -/
def SB_MBF2 (i : Nat) : Nat := 0x04600240 + 0x8 * i
/-- SB_MBM2, index 0 to 15 (R460). -/
def SB_MBM2 (i : Nat) : Nat := 0x04600244 + 0x8 * i
/-- SB_MBF3, index 0 to 15 (R460). -/
def SB_MBF3 (i : Nat) : Nat := 0x04600340 + 0x8 * i
/-- SB_MBM3, index 0 to 15 (R460). -/
def SB_MBM3 (i : Nat) : Nat := 0x04600344 + 0x8 * i
/-- MGN_STAT (R523). -/
def MGN_STAT : Nat := 0x04700000
/-- MGN_FIRST (R523). -/
def MGN_FIRST : Nat := 0x04700004
/-- MGN_WIRE (R523). -/
def MGN_WIRE : Nat := 0x04700008
/-- MGN_ACK, index 0 to 1 (R523). -/
def MGN_ACK (i : Nat) : Nat := 0x04700010 + 0x4 * i
/-- MGN_CLR, index 0 to 1 (R523). -/
def MGN_CLR (i : Nat) : Nat := 0x04700018 + 0x4 * i
/-- MGN_PEND, index 0 to 1 (R523). -/
def MGN_PEND (i : Nat) : Nat := 0x04700020 + 0x4 * i
/-- MGN_GRP_DEG (R523). -/
def MGN_GRP_DEG : Nat := 0x04700028
/-- MGN_GRP_QS (R523). -/
def MGN_GRP_QS : Nat := 0x0470002C
/-- MGN_SRC, index 0 to 15 (R523). -/
def MGN_SRC (i : Nat) : Nat := 0x04700100 + 0x4 * i
/-- MGN_ACT, index 0 to 15 (R523). -/
def MGN_ACT (i : Nat) : Nat := 0x04700140 + 0x4 * i
/-- MGN_CLS, index 0 to 63 (R523). -/
def MGN_CLS (i : Nat) : Nat := 0x04700200 + 0x4 * i
/-- MGN_INJ (R523). -/
def MGN_INJ : Nat := 0x04700300
/-- MGN_CLSCFG0, index 0 to 63 (R558). -/
def MGN_CLSCFG0 (i : Nat) : Nat := 0x04700400 + 0x8 * i
/-- MGN_CLSCFG1, index 0 to 63 (R558). -/
def MGN_CLSCFG1 (i : Nat) : Nat := 0x04700404 + 0x8 * i
/-- HST_CTL (R552). -/
def HST_CTL : Nat := 0x04800000
/-- HST_ACCERR (R552). -/
def HST_ACCERR : Nat := 0x04800004
/-- HST_ACCERR_ADDR (R552). -/
def HST_ACCERR_ADDR : Nat := 0x04800008
/-- HST_CONFLICT (R552). -/
def HST_CONFLICT : Nat := 0x0480000C
/-- HST_DOORBELL (R552). -/
def HST_DOORBELL : Nat := 0x04800020
/-- HST_HDB (R552). -/
def HST_HDB : Nat := 0x04800024
/-- HST_IRQ_PEND (R552). -/
def HST_IRQ_PEND : Nat := 0x04800030
/-- HST_IRQ_EN (R552). -/
def HST_IRQ_EN : Nat := 0x04800034
/-- HST_VEC, index 0 to 7 (R552). -/
def HST_VEC (i : Nat) : Nat := 0x04800040 + 0x4 * i
/-- HST_MB_SEL (R552). -/
def HST_MB_SEL : Nat := 0x04800100
/-- HST_MB_STAT (R552). -/
def HST_MB_STAT : Nat := 0x04800104
/-- HST_IND_ADDR (R552). -/
def HST_IND_ADDR : Nat := 0x04800140
/-- HST_IND_DATA (R552). -/
def HST_IND_DATA : Nat := 0x04800144
/-- HST_IND_STAT (R552). -/
def HST_IND_STAT : Nat := 0x04800148
/-- HST_MB_D, index 0 to 4 (R552). -/
def HST_MB_D (i : Nat) : Nat := 0x04800110 + 0x4 * i
/-- HST_Q_CFG, index 0 to 7 (R552). -/
def HST_Q_CFG (i : Nat) : Nat := 0x04800200 + 0x10 * i
/-- HST_Q_WR, index 0 to 7 (R552). -/
def HST_Q_WR (i : Nat) : Nat := 0x04800204 + 0x10 * i
/-- HST_Q_RD, index 0 to 7 (R552). -/
def HST_Q_RD (i : Nat) : Nat := 0x04800208 + 0x10 * i
/-- HST_Q_CTL, index 0 to 7 (R552). -/
def HST_Q_CTL (i : Nat) : Nat := 0x0480020C + 0x10 * i
/-- PWR_STAT (R579). -/
def PWR_STAT : Nat := 0x04900000
/-- PWR_RST_CAUSE (R579). -/
def PWR_RST_CAUSE : Nat := 0x04900004
/-- PWR_PD_REQ (R579). -/
def PWR_PD_REQ : Nat := 0x04900008
/-- PWR_PD_STAT (R579). -/
def PWR_PD_STAT : Nat := 0x0490000C
/-- PWR_TEMP (R579). -/
def PWR_TEMP : Nat := 0x04900010
/-- PWR_VCORE (R579). -/
def PWR_VCORE : Nat := 0x04900014
/-- PWR_BOW_CNT (R579). -/
def PWR_BOW_CNT : Nat := 0x04900018
/-- PWR_CTL (R579). -/
def PWR_CTL : Nat := 0x0490001C
/-- PWR_CLK_STAT (R579). -/
def PWR_CLK_STAT : Nat := 0x04900020
/-- SEAL_STAT (R496). -/
def SEAL_STAT : Nat := 0x04A00000
/-- SEAL_SI_STAT (R496). -/
def SEAL_SI_STAT : Nat := 0x04A00004
/-- SEAL_SO_STAT (R496). -/
def SEAL_SO_STAT : Nat := 0x04A00008
/-- WDN_LOCK (R496). -/
def WDN_LOCK : Nat := 0x04A0000C
/-- WDN_HB (R496). -/
def WDN_HB : Nat := 0x04A00010
/-- WDN_CRC (R496). -/
def WDN_CRC : Nat := 0x04A00014
/-- WDN_LEDGER (R496). -/
def WDN_LEDGER : Nat := 0x04A00018
/-- SEAL_EVT (R496). -/
def SEAL_EVT : Nat := 0x04A0001C
/-- FUS_PART (R557). -/
def FUS_PART : Nat := 0x04B00000
/-- FUS_PACE_RATED (R72). -/
def FUS_PACE_RATED : Nat := 0x04B00040
/-- FUS_HOLD_LIMIT (R159). -/
def FUS_HOLD_LIMIT : Nat := 0x04B00044
/-- FUS_TEST (R523). -/
def FUS_TEST : Nat := 0x04B00048
/-- FUS_KEYHASH, index 0 to 7 (R278). -/
def FUS_KEYHASH (i : Nat) : Nat := 0x04B00060 + 0x4 * i
/-- FUS_SAFE_ID (R497). -/
def FUS_SAFE_ID : Nat := 0x04B00080
/-- FUS_SAFE_SALT, index 0 to 3 (R497). -/
def FUS_SAFE_SALT (i : Nat) : Nat := 0x04B00084 + 0x4 * i
/-- FUS_KEYHASH_N, index 0 to 7 (R278). -/
def FUS_KEYHASH_N (i : Nat) : Nat := 0x04B000C0 + 0x4 * i
/-- FUS_ACC0, index 0 to 20 (R552). -/
def FUS_ACC0 (i : Nat) : Nat := 0x04B00100 + 0x8 * i
/-- FUS_ACC1, index 0 to 20 (R552). -/
def FUS_ACC1 (i : Nat) : Nat := 0x04B00104 + 0x8 * i
/-- STW_BOOT_STAT (R278). -/
def STW_BOOT_STAT : Nat := 0x2000001000
/-- STW_CODEX_ADDR (R278). -/
def STW_CODEX_ADDR : Nat := 0x2000001004
/-- STW_CODEX_CMD (R278). -/
def STW_CODEX_CMD : Nat := 0x2000001008
/-- STW_CODEX_STAT (R278). -/
def STW_CODEX_STAT : Nat := 0x200000100C
/-- STW_CODEX_ID (R278). -/
def STW_CODEX_ID : Nat := 0x2000001010
/-- STW_CODEX_PART (R278). -/
def STW_CODEX_PART : Nat := 0x2000001014
/-- STW_DRAFT_JOG (R278). -/
def STW_DRAFT_JOG : Nat := 0x2000001018
/-- WDN_CMD (R497). -/
def WDN_CMD : Nat := 0x2000100000
/-- WDN_CMD_STAT (R497). -/
def WDN_CMD_STAT : Nat := 0x2000100004
/-- WDN_PWD_LEN (R497). -/
def WDN_PWD_LEN : Nat := 0x2000100008
/-- WDN_AUTH_T (R497). -/
def WDN_AUTH_T : Nat := 0x200010000C
/-- WDN_PWD, index 0 to 3 (R497). -/
def WDN_PWD (i : Nat) : Nat := 0x2000100010 + 0x4 * i

/-- INK_RES_c_w (R245). -/
def INK_RES (c w : Nat) : Nat := 0x04004010 + 0x20 * c + 4 * w
/-- Word w of DCT_PORT_c (R210). -/
def DCT_PORTW (c w : Nat) : Nat := 0x04102000 + 0x20 * c + 4 * w
/-- SB_MBF_m of controller k (R460). -/
def SB_MBF (k m : Nat) : Nat := 0x04600040 + 0x100 * k + 8 * m
/-- SB_MBM_m of controller k (R460). -/
def SB_MBM (k m : Nat) : Nat := 0x04600044 + 0x100 * k + 8 * m
/-- Word w of FUS_ACC_t (R552). -/
def FUS_ACC (t w : Nat) : Nat := 0x04B00100 + 8 * t + 4 * w
/-- The copy of a banked register that master m sees (R541, R543). -/
def banked (m : Nat) (a : Nat) : Nat := a + 0x100000000 * m

end Reg

/-- The access types of a register's bits (R9), and its lock bit for the RWL bits: the lock register's address and
bit. Bits in no mask are RO or RSV: a write has no effect on them (for RSV bits DESIGN CHOICE, log entry 121). -/
structure RegRow where
  base : Nat
  stride : Nat
  count : Nat
  rw : Word := 0#32
  rwl : Word := 0#32
  lk : Word := 0#32
  rc : Word := 0#32
  w1p : Word := 0#32
  /-- Register that holds the lock bit of the RWL bits, and the bit; bit 32 stands for no lock. -/
  lockReg : Nat := 0
  lockBit : Nat := 32
deriving DecidableEq, Repr

/-- Whether the row covers address `a`. -/
def RegRow.covers (r : RegRow) (a : Nat) : Bool :=
  r.base ≤ a && (a - r.base) / r.stride < r.count && (a - r.base) % r.stride == 0

/-- Registers of the Quill block. -/
def regsQuill : List RegRow := [
  { base := 0x010F0000, stride := 0x100000, count := 16, rwl := 0x3#32, lk := 0x100#32, w1p := 0x10#32, lockReg := 0, lockBit := 8 },
  { base := 0x010F0004, stride := 0x100000, count := 16 },
  { base := 0x010F0008, stride := 0x100000, count := 16 },
  { base := 0x010F000C, stride := 0x100000, count := 16, rw := 0xFFFFFFFF#32 },
  { base := 0x010F0010, stride := 0x100000, count := 16, rw := 0xFFFFFFFF#32 },
  { base := 0x010F0014, stride := 0x100000, count := 16, rc := 0x1F#32 },
  { base := 0x010F0018, stride := 0x100000, count := 16, rw := 0xFFF#32 }]

/-- Registers of the Scribe block. -/
def regsScribe : List RegRow := [
  { base := 0x020F0000, stride := 0x100000, count := 16, rw := 0x1#32 },
  { base := 0x020F0004, stride := 0x100000, count := 16 },
  { base := 0x020F0008, stride := 0x100000, count := 16 },
  { base := 0x020F000C, stride := 0x100000, count := 16 },
  { base := 0x020F0010, stride := 0x100000, count := 16, rw := 0xFFFFFFFF#32 },
  { base := 0x020F0014, stride := 0x100000, count := 16, rw := 0xFFFFFFFF#32 },
  { base := 0x020F0018, stride := 0x100000, count := 16, rw := 0x1#32 },
  { base := 0x020F0020, stride := 0x100000, count := 16, rc := 0x7E#32 },
  { base := 0x020F0024, stride := 0x100000, count := 16, rw := 0x7F#32 },
  { base := 0x020F0028, stride := 0x100000, count := 16 }]

/-- Registers of the Inkwell block. -/
def regsInkwell : List RegRow := [
  { base := 0x04000000, stride := 0x4, count := 1, rw := 0x1#32, lk := 0x100#32 },
  { base := 0x04000004, stride := 0x4, count := 1, rwl := 0x1FF#32, lockReg := Reg.INK_CTL, lockBit := 8 },
  { base := 0x04000008, stride := 0x4, count := 1, rc := 0x1FF#32 },
  { base := 0x04001000, stride := 0x4, count := 512 },
  { base := 0x04001800, stride := 0x4, count := 256 },
  { base := 0x04001C00, stride := 0x4, count := 256, rw := 0xFFFFFFFF#32 },
  { base := 0x04002000, stride := 0x4, count := 256 },
  { base := 0x04002400, stride := 0x4, count := 256, rwl := 0xFFE0FFFF#32, lockReg := Reg.INK_CTL, lockBit := 8 },
  { base := 0x04002800, stride := 0x4, count := 512, w1p := 0xFFFFFFFF#32 },
  { base := 0x04003800, stride := 0x4, count := 512 },
  { base := 0x04003000, stride := 0x4, count := 128, rwl := 0x80FFFF9F#32, lockReg := Reg.INK_CTL, lockBit := 8 },
  { base := 0x04004000, stride := 0x20, count := 16, rc := 0x800001FF#32 },
  { base := 0x04004004, stride := 0x20, count := 16 },
  { base := 0x04004008, stride := 0x20, count := 16, w1p := 0x3#32 },
  { base := 0x0400400C, stride := 0x20, count := 16, rwl := 0xF#32, rc := 0x800F0000#32, lockReg := Reg.INK_CTL, lockBit := 8 },
  { base := 0x04004010, stride := 0x20, count := 16, rw := 0xFFFFFFFF#32 },
  { base := 0x04004014, stride := 0x20, count := 16, rw := 0xFFFFFFFF#32 },
  { base := 0x04004018, stride := 0x20, count := 16, rw := 0xFFFFFFFF#32 },
  { base := 0x04004200, stride := 0x4, count := 16 },
  { base := 0x04004240, stride := 0x4, count := 16 },
  { base := 0x04005000, stride := 0x10, count := 64, rwl := 0xFFFFFFF0#32, lockReg := Reg.INK_CTL, lockBit := 8 },
  { base := 0x04005004, stride := 0x10, count := 64 },
  { base := 0x04005008, stride := 0x10, count := 64, rw := 0x3FF#32, rc := 0x80000000#32 },
  { base := 0x04006000, stride := 0x4, count := 1, rw := 0x1#32, w1p := 0x2#32 },
  { base := 0x04006004, stride := 0x4, count := 1 },
  { base := 0x04006008, stride := 0x4, count := 1 },
  { base := 0x0400600C, stride := 0x4, count := 1 },
  { base := 0x04006010, stride := 0x4, count := 1, rwl := 0xFF#32, lockReg := Reg.INK_CTL, lockBit := 8 },
  { base := 0x04006080, stride := 0x4, count := 1, rc := 0xFFFFFFFF#32 },
  { base := 0x040060C0, stride := 0x4, count := 6 },
  { base := 0x04006100, stride := 0x4, count := 32 },
  { base := 0x04006200, stride := 0x4, count := 32 },
  { base := 0x04007000, stride := 0x4, count := 32, rw := 0x30#32, w1p := 0x1#32 },
  { base := 0x04008000, stride := 0x4, count := 256, rc := 0x80000#32 }]

/-- Registers of the Ductus block. -/
def regsDuctus : List RegRow := [
  { base := 0x04100000, stride := 0x4, count := 1, lk := 0x100#32 },
  { base := 0x04100004, stride := 0x4, count := 1 },
  { base := 0x04101000, stride := 0x4, count := 256, rc := 0xFC#32 },
  { base := 0x04101400, stride := 0x4, count := 256, rwl := 0xFFFF0000#32, lockReg := Reg.DCT_CTL, lockBit := 8 },
  { base := 0x04101800, stride := 0x4, count := 256 },
  { base := 0x04102000, stride := 0x4, count := 128, rw := 0xFFFFFFFF#32 },
  { base := 0x04102200, stride := 0x4, count := 16, rc := 0x2#32 },
  { base := 0x04102400, stride := 0x4, count := 64, rwl := 0xFFFF0000#32, w1p := 0xC000#32, lockReg := Reg.DCT_CTL, lockBit := 8 }]

/-- Registers of the Plenil block. -/
def regsPlenil : List RegRow := [
  { base := 0x04200100, stride := 0x10, count := 4, rc := 0x80#32 },
  { base := 0x04200104, stride := 0x10, count := 4 },
  { base := 0x04200108, stride := 0x10, count := 4, rw := 0xFFFFFFFF#32 },
  { base := 0x0420010C, stride := 0x10, count := 4 },
  { base := 0x04200200, stride := 0x4, count := 1, rw := 0xFF000000#32 },
  { base := 0x04200204, stride := 0x4, count := 1, rw := 0x7#32, w1p := 0x100#32 },
  { base := 0x04200208, stride := 0x4, count := 1 },
  { base := 0x0420020C, stride := 0x4, count := 1, rw := 0xFF000000#32 },
  { base := 0x04200210, stride := 0x4, count := 1 },
  { base := 0x04200214, stride := 0x4, count := 1, rw := 0xFF000000#32 },
  { base := 0x04200218, stride := 0x4, count := 1, rw := 0xFF#32, rc := 0x80000000#32, w1p := 0x300#32 },
  { base := 0x0420021C, stride := 0x4, count := 1, rw := 0x1#32, rwl := 0x3FE000#32 },
  { base := 0x04200220, stride := 0x4, count := 1 },
  { base := 0x04200224, stride := 0x4, count := 1 },
  { base := 0x04200240, stride := 0x10, count := 4, rw := 0xFFFFFFF0#32 },
  { base := 0x04200244, stride := 0x10, count := 4, rw := 0x3FF#32 },
  { base := 0x04200248, stride := 0x10, count := 4, rc := 0x80000000#32 },
  { base := 0x04200300, stride := 0x4, count := 1, rc := 0x80000000#32, w1p := 0x303#32 },
  { base := 0x04200310, stride := 0x4, count := 2, rc := 0xE00000#32 },
  { base := 0x04200320, stride := 0x4, count := 2, rw := 0xFFFFFFFF#32 },
  { base := 0x04200404, stride := 0x4, count := 254, rw := 0xFF#32, rc := 0x1000000#32 }]

/-- Registers of the Baseline block. -/
def regsBaseline : List RegRow := [
  { base := 0x04300000, stride := 0x4, count := 1, rw := 0x2#32 },
  { base := 0x04300010, stride := 0x4, count := 2, rw := 0xFFFFFFFF#32 },
  { base := 0x04300018, stride := 0x4, count := 1, rc := 0xF8#32 },
  { base := 0x04300020, stride := 0x4, count := 2 },
  { base := 0x04300030, stride := 0x4, count := 1, rw := 0x10#32, w1p := 0x1#32 },
  { base := 0x04300034, stride := 0x4, count := 1, rw := 0x3FFFFFFF#32 },
  { base := 0x04300038, stride := 0x4, count := 1, rw := 0xFFFFFFFF#32 },
  { base := 0x0430003C, stride := 0x4, count := 1, rw := 0xFFFF#32 },
  { base := 0x04300040, stride := 0x4, count := 1, rw := 0xFFFF#32 },
  { base := 0x04300100, stride := 0x4, count := 1, rwl := 0x3#32, lk := 0x100#32, lockReg := Reg.BSL_STROKE_CFG, lockBit := 8 },
  { base := 0x04300104, stride := 0x4, count := 1 },
  { base := 0x04300108, stride := 0x4, count := 1 },
  { base := 0x0430010C, stride := 0x4, count := 1 }]

/-- Registers of the Feedback block. -/
def regsFeedback : List RegRow := [
  { base := 0x04400000, stride := 0x40, count := 8, rwl := 0xFFFF01FF#32, lockReg := Reg.LF_CTL, lockBit := 16 },
  { base := 0x04400004, stride := 0x40, count := 8, rwl := 0xFFFFFF#32, lockReg := Reg.LF_CTL, lockBit := 16 },
  { base := 0x04400008, stride := 0x40, count := 8, rwl := 0xFFFFFFFF#32, lockReg := Reg.LF_CTL, lockBit := 16 },
  { base := 0x0440000C, stride := 0x40, count := 8, rwl := 0xFF1FFF#32, lockReg := Reg.LF_CTL, lockBit := 16 },
  { base := 0x04400010, stride := 0x40, count := 8, rc := 0xFC000#32 },
  { base := 0x04400014, stride := 0x40, count := 8, rw := 0xFFFFFF00#32 },
  { base := 0x04400018, stride := 0x40, count := 8 },
  { base := 0x0440001C, stride := 0x40, count := 8 },
  { base := 0x04400020, stride := 0x40, count := 8 },
  { base := 0x04400024, stride := 0x40, count := 8, rw := 0xFF000000#32 },
  { base := 0x04400400, stride := 0x4, count := 1, lk := 0x10000#32, w1p := 0xFF00#32 },
  { base := 0x04402000, stride := 0x10, count := 16, rwl := 0xFEFFFFFF#32, lockReg := Reg.LF_CTL, lockBit := 16 },
  { base := 0x04402004, stride := 0x10, count := 16, rw := 0xFFFFFF#32, rc := 0x80000000#32 },
  { base := 0x04402008, stride := 0x10, count := 16 },
  { base := 0x04403000, stride := 0x20, count := 16, rw := 0xFFFF7FFD#32 },
  { base := 0x04403004, stride := 0x20, count := 16, rw := 0x3FFFFFFF#32 },
  { base := 0x04403008, stride := 0x20, count := 16, rw := 0xFFFFFFFF#32 },
  { base := 0x0440300C, stride := 0x20, count := 16, rw := 0xFFFF#32 },
  { base := 0x04403010, stride := 0x20, count := 16, rw := 0xFFFFFFFF#32 },
  { base := 0x04403014, stride := 0x20, count := 16, rw := 0xFFFF#32 },
  { base := 0x04403018, stride := 0x20, count := 16, rw := 0xFFFFFFFF#32 },
  { base := 0x0440301C, stride := 0x20, count := 16, w1p := 0x5#32 },
  { base := 0x04403200, stride := 0x4, count := 16, rw := 0xFFFF0000#32, rc := 0xC#32 }]

/-- Registers of the Folio block. -/
def regsFolio : List RegRow := [
  { base := 0x04500000, stride := 0x4, count := 1, w1p := 0x7#32 },
  { base := 0x04500004, stride := 0x4, count := 1, rw := 0xFF07#32 },
  { base := 0x04500008, stride := 0x4, count := 1, rw := 0xFFFFFFFF#32 },
  { base := 0x0450000C, stride := 0x4, count := 1, rw := 0xFFFFFFFF#32 },
  { base := 0x04500010, stride := 0x4, count := 1, rw := 0xFFFFFFFF#32 },
  { base := 0x04500014, stride := 0x4, count := 1, rw := 0x1FFFF#32 },
  { base := 0x04500018, stride := 0x4, count := 1, rw := 0x1FFFF#32 },
  { base := 0x0450001C, stride := 0x4, count := 1, rc := 0x80000000#32 },
  { base := 0x04500020, stride := 0x4, count := 1 },
  { base := 0x04500024, stride := 0x4, count := 1 },
  { base := 0x04500028, stride := 0x4, count := 1, rw := 0xFFFFFFFF#32 },
  { base := 0x04500100, stride := 0x10, count := 32, rw := 0x7FFFF#32 },
  { base := 0x04500104, stride := 0x10, count := 32, rw := 0xFFFFFFFF#32 },
  { base := 0x04500108, stride := 0x10, count := 32, rw := 0xFFFFFFFF#32 }]

/-- Registers of the ServiceBus block. -/
def regsServiceBus : List RegRow := [
  { base := 0x04600000, stride := 0x100, count := 4, rw := 0x1F7#32, w1p := 0x200#32 },
  { base := 0x04600004, stride := 0x100, count := 4, rw := 0xFF7FFF7F#32 },
  { base := 0x04600008, stride := 0x100, count := 4, rw := 0xFFFFFFC0#32 },
  { base := 0x0460000C, stride := 0x100, count := 4, rc := 0xD8000000#32 },
  { base := 0x04600010, stride := 0x100, count := 4 },
  { base := 0x04600014, stride := 0x100, count := 4, w1p := 0x1F#32 },
  { base := 0x04600018, stride := 0x100, count := 4, rc := 0x400000#32 },
  { base := 0x0460001C, stride := 0x100, count := 4, rw := 0xFFFFFFFF#32 },
  { base := 0x04600020, stride := 0x100, count := 4, rw := 0xF#32 },
  { base := 0x04600024, stride := 0x100, count := 4, w1p := 0x1#32 },
  { base := 0x04600028, stride := 0x100, count := 4, rc := 0x80000000#32 },
  { base := 0x0460002C, stride := 0x100, count := 4, rw := 0xFFFFFFFF#32 },
  { base := 0x04600040, stride := 0x8, count := 16, rw := 0xFFFFFFFF#32 },
  { base := 0x04600044, stride := 0x8, count := 16, rw := 0x1FFFFFFF#32 },
  { base := 0x04600140, stride := 0x8, count := 16, rw := 0xFFFFFFFF#32 },
  { base := 0x04600144, stride := 0x8, count := 16, rw := 0x1FFFFFFF#32 },
  { base := 0x04600240, stride := 0x8, count := 16, rw := 0xFFFFFFFF#32 },
  { base := 0x04600244, stride := 0x8, count := 16, rw := 0x1FFFFFFF#32 },
  { base := 0x04600340, stride := 0x8, count := 16, rw := 0xFFFFFFFF#32 },
  { base := 0x04600344, stride := 0x8, count := 16, rw := 0x1FFFFFFF#32 }]

/-- Registers of the Margin block. -/
def regsMargin : List RegRow := [
  { base := 0x04700000, stride := 0x4, count := 1, rc := 0x60000000#32 },
  { base := 0x04700004, stride := 0x4, count := 1, w1p := 0x10000#32 },
  { base := 0x04700008, stride := 0x4, count := 1, rc := 0x80000000#32 },
  { base := 0x04700010, stride := 0x4, count := 2, w1p := 0xFFFFFFFF#32 },
  { base := 0x04700018, stride := 0x4, count := 2, w1p := 0xFFFFFFFF#32 },
  { base := 0x04700020, stride := 0x4, count := 2 },
  { base := 0x04700028, stride := 0x4, count := 1 },
  { base := 0x0470002C, stride := 0x4, count := 1 },
  { base := 0x04700100, stride := 0x4, count := 16, rc := 0xFFFFFFFF#32 },
  { base := 0x04700140, stride := 0x4, count := 16 },
  { base := 0x04700200, stride := 0x4, count := 64, rw := 0xFFFF#32 },
  { base := 0x04700300, stride := 0x4, count := 1, rw := 0x301FF#32, w1p := 0x1000#32 },
  { base := 0x04700400, stride := 0x8, count := 64 },
  { base := 0x04700404, stride := 0x8, count := 64 }]

/-- Registers of the Host block. -/
def regsHost : List RegRow := [
  { base := 0x04800000, stride := 0x4, count := 1, rw := 0x1#32 },
  { base := 0x04800004, stride := 0x4, count := 1, rc := 0x80000000#32 },
  { base := 0x04800008, stride := 0x4, count := 1 },
  { base := 0x0480000C, stride := 0x4, count := 1, rc := 0x80000000#32 },
  { base := 0x04800020, stride := 0x4, count := 1, w1p := 0xFFFF#32 },
  { base := 0x04800024, stride := 0x4, count := 1, w1p := 0xFFFF#32 },
  { base := 0x04800030, stride := 0x4, count := 1, rc := 0xFFFFFFFF#32 },
  { base := 0x04800034, stride := 0x4, count := 1, rw := 0xFFFFFFFF#32 },
  { base := 0x04800040, stride := 0x4, count := 8, rw := 0x3F3F3F3F#32 },
  { base := 0x04800100, stride := 0x4, count := 1, rw := 0xFFFF#32 },
  { base := 0x04800104, stride := 0x4, count := 1, rc := 0x40000000#32 },
  { base := 0x04800140, stride := 0x4, count := 1, rw := 0x807FFFFC#32 },
  { base := 0x04800144, stride := 0x4, count := 1, rw := 0xFFFFFFFF#32 },
  { base := 0x04800148, stride := 0x4, count := 1, rc := 0x80000000#32 },
  { base := 0x04800110, stride := 0x4, count := 5 },
  { base := 0x04800200, stride := 0x10, count := 8, rw := 0xFFFF1FFF#32 },
  { base := 0x04800204, stride := 0x10, count := 8, rw := 0xFF#32 },
  { base := 0x04800208, stride := 0x10, count := 8, rc := 0x80000000#32 },
  { base := 0x0480020C, stride := 0x10, count := 8, rw := 0x1#32, w1p := 0x2#32 }]

/-- Registers of the Power block. -/
def regsPower : List RegRow := [
  { base := 0x04900000, stride := 0x4, count := 1, rc := 0x3#32 },
  { base := 0x04900004, stride := 0x4, count := 1, rc := 0xF#32 },
  { base := 0x04900008, stride := 0x4, count := 1, rw := 0xFF0F0003#32, w1p := 0x100#32 },
  { base := 0x0490000C, stride := 0x4, count := 1 },
  { base := 0x04900010, stride := 0x4, count := 1 },
  { base := 0x04900014, stride := 0x4, count := 1 },
  { base := 0x04900018, stride := 0x4, count := 1, rw := 0xFFFF#32 },
  { base := 0x0490001C, stride := 0x4, count := 1, w1p := 0x3#32 },
  { base := 0x04900020, stride := 0x4, count := 1 }]

/-- Registers of the Safety block. -/
def regsSafety : List RegRow := [
  { base := 0x04A00000, stride := 0x4, count := 1 },
  { base := 0x04A00004, stride := 0x4, count := 1 },
  { base := 0x04A00008, stride := 0x4, count := 1 },
  { base := 0x04A0000C, stride := 0x4, count := 1 },
  { base := 0x04A00010, stride := 0x4, count := 1 },
  { base := 0x04A00014, stride := 0x4, count := 1 },
  { base := 0x04A00018, stride := 0x4, count := 1 },
  { base := 0x04A0001C, stride := 0x4, count := 1, rc := 0xF80000FF#32 }]

/-- Registers of the Fuse block. -/
def regsFuse : List RegRow := [
  { base := 0x04B00000, stride := 0x4, count := 1 },
  { base := 0x04B00040, stride := 0x4, count := 1 },
  { base := 0x04B00044, stride := 0x4, count := 1 },
  { base := 0x04B00048, stride := 0x4, count := 1 },
  { base := 0x04B00060, stride := 0x4, count := 8 },
  { base := 0x04B00080, stride := 0x4, count := 1 },
  { base := 0x04B00084, stride := 0x4, count := 4 },
  { base := 0x04B000C0, stride := 0x4, count := 8 },
  { base := 0x04B00100, stride := 0x8, count := 21 },
  { base := 0x04B00104, stride := 0x8, count := 21 }]

/-- Registers of the Window block. -/
def regsWindow : List RegRow := [
  { base := 0x2000001000, stride := 0x4, count := 1 },
  { base := 0x2000001004, stride := 0x4, count := 1, rw := 0x3FFFC0#32 },
  { base := 0x2000001008, stride := 0x4, count := 1, rw := 0xFF08#32, w1p := 0x7#32 },
  { base := 0x200000100C, stride := 0x4, count := 1 },
  { base := 0x2000001010, stride := 0x4, count := 1 },
  { base := 0x2000001014, stride := 0x4, count := 1 },
  { base := 0x2000001018, stride := 0x4, count := 1, rw := 0x3FFFFF#32 },
  { base := 0x2000100000, stride := 0x4, count := 1, rw := 0xFFFF00FF#32, w1p := 0x100#32 },
  { base := 0x2000100004, stride := 0x4, count := 1 },
  { base := 0x2000100008, stride := 0x4, count := 1, rw := 0x1F#32 },
  { base := 0x200010000C, stride := 0x4, count := 1 },
  { base := 0x2000100010, stride := 0x4, count := 4, rw := 0xFFFFFFFF#32 }]

/-- The rows of the block that address `a` lies in. -/
def regsAt (a : Nat) : List RegRow :=
  if 0x01000000 ≤ a ∧ a < 0x02000000 then regsQuill
  else if 0x02000000 ≤ a ∧ a < 0x04000000 then regsScribe
  else if 0x04000000 ≤ a ∧ a < 0x04100000 then regsInkwell
  else if 0x04100000 ≤ a ∧ a < 0x04200000 then regsDuctus
  else if 0x04200000 ≤ a ∧ a < 0x04300000 then regsPlenil
  else if 0x04300000 ≤ a ∧ a < 0x04400000 then regsBaseline
  else if 0x04400000 ≤ a ∧ a < 0x04500000 then regsFeedback
  else if 0x04500000 ≤ a ∧ a < 0x04600000 then regsFolio
  else if 0x04600000 ≤ a ∧ a < 0x04700000 then regsServiceBus
  else if 0x04700000 ≤ a ∧ a < 0x04800000 then regsMargin
  else if 0x04800000 ≤ a ∧ a < 0x04900000 then regsHost
  else if 0x04900000 ≤ a ∧ a < 0x04A00000 then regsPower
  else if 0x04A00000 ≤ a ∧ a < 0x04B00000 then regsSafety
  else if 0x04B00000 ≤ a ∧ a < 0x04C00000 then regsFuse
  else if 0x2000000000 ≤ a ∧ a < 0x2001000000 then regsWindow
  else []

/-- The row of the register at address `a`, if a register stands there (R531). -/
def regRow (a : Nat) : Option RegRow := (regsAt a).find? (·.covers a)

/-- The address of a register's master-independent row: a banked copy is described by the row of its address. -/
def unbank (a : Nat) : Nat := if a < winKey then a % 0x100000000 else a

/-- Whether `a` is one of the `count` registers that start at `base`. -/
def inBank (base stride count a : Nat) : Bool :=
  base ≤ a && (a - base) / stride < count && (a - base) % stride == 0

/-- The reset value of the register at `a`: the value its table gives, 0 where the table gives 0 or a Codex value,
and for the fuse shadow the value of the unblown part. -/
def resetOf (a : Nat) : Word :=
  if inBank 0x020F0010 0x100000 16 a then 0xFFFFFFFF#32
  else if inBank 0x020F0014 0x100000 16 a then 0xFFFFFFFF#32
  else if inBank 0x04003800 0x4 512 a then 0xA0000000#32
  else if inBank 0x0400400C 0x20 16 a then 0x00000002#32
  else if a = Reg.INK_SLACK_CTL then 0x00000001#32
  else if a = Reg.INK_SLACK_STROKE then 0x00007FFF#32
  else if a = Reg.INK_SLACK_MIN then 0x00007FFF#32
  else if a = Reg.INK_OVR_CFG then 0x00000002#32
  else if inBank 0x04006100 0x4 32 a then 0x7FFF7FFF#32
  else if inBank 0x04300010 0x4 2 a then 0x01000000#32
  else if a = Reg.BSL_SERVO_CFG then 0x00000206#32
  else if a = Reg.BSL_STROKE_CFG then 0x00000003#32
  else if a = Reg.BSL_MARK_FRZ then 0x00014820#32
  else if a = Reg.BSL_MARK_REL then 0x0001D8A8#32
  else if inBank 0x04400000 0x40 8 a then 0x00010000#32
  else if inBank 0x0440000C 0x40 8 a then 0x00040007#32
  else if inBank 0x04402000 0x10 16 a then 0x00010000#32
  else if inBank 0x04500104 0x10 32 a then 0xFFFFFFFF#32
  else if inBank 0x04600004 0x100 4 a then 0x001F7E1F#32
  else if inBank 0x04600008 0x100 4 a then 0x9E072640#32
  else if a = Reg.PWR_RST_CAUSE then 0x00000001#32
  else if a = Reg.PWR_PD_STAT then 0x00000003#32
  else if a = Reg.SEAL_STAT then 0x40000000#32
  else if a = Reg.WDN_LOCK then 0x0B000000#32
  else if a = Reg.FUS_PART then 0xB0000100#32
  else if a = Reg.FUS_HOLD_LIMIT then 0x00000020#32
  else if a = Reg.FUS_TEST then 0x00000001#32
  else 0#32

end Sys2Proof.Machine
end

