-- ==== Sys2Proof/Machine/State.lean ====
section
/-! DEFINITION. The state of the block, its faults and refusals, and the state after reset. -/

namespace Sys2Proof.Machine

/-- Faults of a step. No command of this block ends in a fault: every event the spec describes leaves a next state. -/
inductive Fault where
  /-- Raised by nothing; the type needs a constructor. Safe. -/
  | none
deriving DecidableEq, Repr

/-- Refusals of a step. -/
inductive Refusal where
  /-- The dispatch has no meaning for the command. Safe. -/
  | notModelled (mnemonic : String)
deriving DecidableEq, Repr

/-- The whole state. -/
structure State where
  /-- Commands that wait, first in first out. -/
  pending : List Instr
  /-- Baseline 1 GHz ticks since reset (R379, R244). -/
  tick : Nat
  /-- The model's own field: free values taken so far (log entry 2). -/
  free : Nat
  /-- The register file by key (RegMap); an unlisted register holds its reset value. -/
  regs : List (Nat × Word)
  /-- Memories of the main map, by byte address (R553). -/
  mem : Memory
  /-- Memories behind the indirect windows, by window address (R543). -/
  wmem : Memory
  base : Base
  eng : Tab 16 QEng
  ink : Ink
  axcfg : Tab 256 AxisCfg
  ax : Tab 256 AxisSt
  grp : Tab 32 GroupSt
  wave : Wave
  /-- Draft axes in use, in the order of the DRAFT section (R261). -/
  drafts : List DraftAxis
  /-- Bank loads, in the order they were requested. -/
  loads : List BankLoad
  pins : Pins
  dct : Dct
  lf : Tab 8 LfCh
  cap : Tab 16 CapSt
  tp : Tab 16 TpSt
  sb : Tab 4 SbCt
  pln : Pln
  isl : Isl
  pwr : Pwr
  stw : Stw
  mgn : Mgn
  fol : Fol
  hst : Hst
deriving DecidableEq, Repr

def BTime.zero : BTime := { sec := 0, ns := 0, frac := 0 }

def Base.reset : Base :=
  { dom := ⟨.zero, .zero⟩, next := .zero, sendTick := 0, sendTime := .zero, latch := ⟨.zero, .zero⟩, errs := ⟨[], []⟩,
    seen := ⟨false, false⟩, rate := ⟨0, 0⟩, lockRun := ⟨0, 0⟩, chg := false, period := 3 }

/-- The engine registers hold 0 until the first dispatch writes them (R81; log entry 6). -/
def QEng.reset : QEng :=
  { a := Vector.replicate 4 0, d := Vector.replicate 8 0, x := Vector.replicate 4 0, y := Vector.replicate 4 0,
    m := Vector.replicate 4 0, k := Vector.replicate 4 0, gb := Vector.replicate 4 0, sr := 0, reps := [], calls := [],
    axn := 0, pc := 0, run := .idle, cause := 0, mode := 0, nextMode := none,
    modeDue := false, det := [], list := [], held := [], startTick := 0 }

/-- A core at its reset vector (R241); the registers for which neither the manual nor the RISC-V manuals give a reset
value stand at 0: DESIGN CHOICE (log entry 97). -/
def Hart.reset : Hart :=
  { pc := 0x10000000#32, x := Vector.replicate 32 0, mie := false, mpie := false, ie := 0, mtvec := 0, mscratch := 0,
    mepc := 0, mcause := 0, mtval := 0, minstret := 0, resv := none, load := none }

def Ink.reset : Ink :=
  { task := Vector.replicate 512 { readyTick := 0, readySeq := 0, startTick := 0, takes := 0, runNs := 0 }
    nextReady := 0
    ready := Vector.replicate 4 []
    core := Vector.replicate 16
      { queue := [], running := none, busyNs := 0, takes := 0, maxWait := 0, busyFrom := 0, hart := Hart.reset }
    lig := Vector.replicate 64 []
    held := [] }

def AxisCfg.reset : AxisCfg :=
  { used := false, virt := false, engine := 0, group := 0, prog := 0, xfb := 0, xs0 := 0, xs1 := 0, ypar := 0, yb0 := 0,
    yb1 := 0, yout := 0, outLen := 0, runMap := 0, lf := none, hold := false, policy := 0, fallback := false,
    place := false, chain := [], cmdAngle := false }

def LibLoop.reset : LibLoop := { cur := 0, next := 0, due := 0 }

def LibSt.reset : LibSt :=
  { ran := false, pPrev := 0, dp := 0, idp := 0, iqp := 0, aout := none, pos := LibLoop.reset, vel := LibLoop.reset
    intV := 0, intD := 0, intQ := 0, prop := 0, tag := 0, dwell := 0, still := false, reeng := 0, dev := 0,
    declared := false, filt := Vector.replicate 4 0 }

def AxisSt.reset : AxisSt :=
  { fbIn := Vector.replicate 7 0, fresh := false, fb := Vector.replicate 16 0, fbAge := 0, recB := false, ent := .none,
    ran := false, halted := false, staged := Vector.replicate 5 0, out := Vector.replicate 5 0, age := false, sent := 0, qsLoss := false,
    qsJoin := false, qsLeave := false, lib := LibSt.reset, libNew := none }

def GroupSt.reset : GroupSt :=
  { released := false, late := false, slack := none, ever := false, raised := false, swap := none }

def Wave.reset : Wave :=
  { engList := Vector.replicate 16 [], grpList := Vector.replicate 32 [], latency := 0, relTick := 0,
    closed := true, frozen := false, lastBefore := false, firstAfter := false }

def Pins.reset : Pins := { lfA := 0, lfB := 0, lfZ := 0, lfCk := 0xFF, cap := 0, tp := 0, so := 0, vfuse := false }

def Slot.reset : Slot :=
  { record := Vector.replicate 16 0, lim := ⟨0, 0, 0, 0⟩, deferred := none, jnext := none, prof := none, gear := none, cam := none,
    steps := false, pcmd := 0, vel := 0, acc := 0, resync := false, base := 0, phase := 0,
    phaseProf := none, phaseLim := ⟨0, 0, 0, 0⟩, phaseJ := none, phaseDef := none, trim := 0, trimTarget := 0,
    trimCfg := none, target := 0, rev := 0, mc := 0, master := 0, dm := 0, caps := [], waiting := [], held := none,
    failed := false, qs := false }

def Dct.reset : Dct :=
  { slot := Vector.replicate 256 .reset, port := Vector.replicate 16 none, first := false, evalMax := 0, tNode := 0,
    tPrev := 0 }

def LfCh.reset : LfCh :=
  { c := 0, a := 0, e1 := none, e0 := none, l1 := none, l0 := none, h := 0, idxC := 0, hist := [], ssiLast := none,
    ssiBad := 0, ssiBusy := false }

def Mgn.reset : Mgn :=
  { scope := Vector.replicate 64 0, srcMap := [], counts := [], times := [], firstTime := (0, 0, 0), histQ := [],
    histSeq := 0, writing := none, forced := [], under := [], effDeg := 0, effQs := 0, stwPath := [], stwStop := ⟨0, 0⟩, stwReact := ⟨0, 0⟩ }

def SbCt.reset : SbCt :=
  { offer := none, won := false, cancel := false, recovering := false, seqTick := 0, initPend := false, acq := none,
    full := Vector.replicate 16 [] }

def NodeSt.reset : NodeSt :=
  let p : PathSt := { last := 0, assumed := none, sum := 0, n := 0 }
  { uid := 0, safe := false, sto := false, stopSent := false, stoSeen := false, count := 0, slot := Vector.replicate 8 none, valid := 0, took := false, seen := false,
    edge := false, clean := 0, driftAge := 0, ack := false, path := ⟨p, p⟩, tag := 0, cmd := none, todo := [],
    joinPage := 0, joinBad := false, removeHeld := false, ends := false, left := false }

def ChSt.reset : ChSt :=
  { decided := 0, txFails := [], txLast := false, returned := false, reverse := false,
    revLast := false, wrap := false, ownUp := false, ownDown := false, hops := 0,
    ret := 0, probeReq := false, probing := false, probeBad := 0, train := [], trainRev := false }

def PortSt.reset : PortSt :=
  { n := 0, sum := 0, next := none, answered := none, resMax := 0, upAll := false, upLast := false, fwd := [] }

def Pln.reset : Pln :=
  { script := Vector.replicate 8 none, draftScript := none, nodes := [], node := Vector.replicate 256 .reset,
    reqs := [], joinReqs := 0, grants := [], sw := none, ch := ⟨.reset, .reset⟩, port := Vector.replicate 4 .reset, absence := 32,
    capable := false, netid := 0, sseq := 0, miss := ⟨0, 0⟩, cold := [], coldLast := [], lead := 0, integ := 0, grid := false,
    ended := Vector.replicate 4 [] }

def SafeCh.reset : SafeCh :=
  { lvlA := 0, lvlB := 0, cntA := Vector.replicate 8 0, cntB := Vector.replicate 8 0,
    pair := Vector.replicate 8 (.demand true false), timer := Vector.replicate 8 0, dem := 0, inDem := 0, cmd := 0, delaying := 0, wait := 0,
    expired := 0, sent := 0, seq := none, diff := false, good := 0 }

/-- A part as shipped: no password, no configuration, lock-out with CAUSE 11 (R492). -/
def Isl.reset : Isl :=
  { sealCh := .reset, wdnCh := .reset, mode := .lockout, checked := true, hbSeen := false, mstop := false, lineFault := false,
    early := [], vioLow := false, writing := none, cfg := [],
    digest := [], condCause := 11, condDetail := 0, auth := none, fails := 0, refusing := false, lastTag := none,
    nextCmd := none, queue := [], nextS := 1, pendCfg := none, pendPwd := none, pulse := none, pulseWait := [],
    tests := Vector.replicate 8 0 }

def Stw.reset : Stw :=
  { image := [], range := none, source := 0, ready := false, holdDraft := false, draft := false,
    stageEnd := 0, fromAddr := false, bootHost := false, machine := none, engines := [],
    apps := [], route := [], react := none, partId := 0 }

/-- The power-on reset stands (R562). -/
def Pwr.reset : Pwr := { por := true, nReset := false, nArmed := false, op := none, next := none, bowTick := 0
                         rstTick := 0, perst := false }

def Fol.reset : Fol :=
  { last := Vector.replicate 32 0, queue := [], dropped := 0, written := 0, post := 0, trig := 0 }

def Pcie.reset : Pcie := { d3 := false, msixEn := false, msixMask := false, aer := 0 }

def Hst.reset : Hst :=
  { mb := Vector.replicate 21 { words := [], tie := .none, waiting := false }
    queue := Vector.replicate 8 { tags := [], acked := [] }
    lbRead := none, lbWrite := none
    msix := Vector.replicate 64 { addr := 0, data := 0, masked := true }
    msixPend := 0, pcie := .reset, msiSent := []
    resp := Vector.replicate 21 .none, wait := Vector.replicate 21 [], fuseJob := Vector.replicate 21 none }

def State.reset : State :=
  { pending := [], tick := 0, free := 0, regs := [], mem := [], wmem := [], base := .reset,
    eng := Vector.replicate 16 .reset, ink := .reset,
    axcfg := Vector.replicate 256 .reset, ax := Vector.replicate 256 .reset, grp := Vector.replicate 32 .reset,
    wave := .reset, drafts := [], loads := [], pins := .reset, dct := .reset, lf := Vector.replicate 8 .reset,
    cap := Vector.replicate 16 { fifo := [], last := none, seq := 0 },
    tp := Vector.replicate 16 { cur := none, pend := none, i := 0, edge := none, high := false, stopping := false, took := none, rsv := 0 },
    sb := Vector.replicate 4 .reset, pln := .reset, isl := .reset, pwr := .reset, stw := .reset, mgn := .reset,
    fol := .reset, hst := .reset }

end Sys2Proof.Machine
end

