-- ==== Sys2Proof/Machine/Ops.lean ====
section
/-! DEFINITION. The named operations over registers, memories, free values and time that the meanings share. -/

namespace Sys2Proof.Machine

/-! ## Registers -/

/-- The register with key `a`. -/
def rd (s : State) (a : Nat) : Word := smGet resetOf s.regs a

/-- The register with key `a` set to `v`. -/
def wr (s : State) (a : Nat) (v : Word) : State := { s with regs := smSet resetOf s.regs a v }

/-- The field of `n` bits from bit `lo` up. -/
def rdf (s : State) (a lo n : Nat) : Nat := fld (rd s a) lo n

/-- That field set to the low bits of `v`. -/
def wrf (s : State) (a lo n v : Nat) : State := wr s a (put (rd s a) lo n v)

/-- Bit `i` of the register. -/
def rdb (s : State) (a i : Nat) : Bool := bit (rd s a) i

/-- Bit `i` set to `b`. -/
def wrb (s : State) (a i : Nat) (b : Bool) : State := wr s a (putBit (rd s a) i b)

/-- A counter field incremented, saturating (R539). -/
def incf (s : State) (a lo n : Nat) : State := wr s a (incFld (rd s a) lo n)

/-- Bits of `m` set in the register. -/
def orReg (s : State) (a : Nat) (m : Word) : State := wr s a (rd s a ||| m)

/-- Every register for which `p` holds back to its reset value. -/
def dropRegs (s : State) (p : Nat → Bool) : State := { s with regs := smDrop p s.regs }

/-- The registers at `a`, `a + 4`, ... set in turn. -/
def wrList (s : State) (a : Nat) : List Word → State
  | [] => s
  | w :: r => wrList (wr s a w) (a + 4) r

/-! ## Memories -/

/-- The 32-bit word of the main map at byte address `a` (R6). -/
def mrd32 (s : State) (a : Nat) : Word := s.mem.read32 a
/-- The 16-bit word of the main map at byte address `a` (R6). -/
def mrd16 (s : State) (a : Nat) : Half := s.mem.read16 a
/-- A 32-bit word stored (R6). -/
def mwr32 (s : State) (a : Nat) (v : Word) : State := { s with mem := s.mem.write32 a v }
/-- A 16-bit word stored (R6). -/
def mwr16 (s : State) (a : Nat) (v : Half) : State := { s with mem := s.mem.write16 a v }
/-- One byte stored. -/
def mwr8 (s : State) (a : Nat) (v : Byte) : State := { s with mem := s.mem.write a v }
/-- Words stored from `a` up. -/
def mwrWords (s : State) (a : Nat) (ws : List Word) : State := { s with mem := s.mem.writeWords a ws }

/-! ## Folds -/

/-- `f` applied for every element in turn. -/
def forAll {α : Type} (l : List α) (s : State) (f : State → α → State) : State := l.foldl f s

/-- The numbers below `n` as indices. -/
def fins (n : Nat) : List (Fin n) := List.finRange n

/-- `f` applied when `c` holds. -/
def when (c : Bool) (s : State) (f : State → State) : State := if c then f s else s

/-! ## Free values (log entry 2) -/

/-- A number the spec leaves open. -/
def takeNat (s : State) : Nat × State := (Config.freeNat s.free, { s with free := s.free + 1 })

/-- `n` words that the spec leaves open. -/
def takeWords : Nat → State → List Word × State
  | 0, s => ([], s)
  | n + 1, s =>
    let t := takeNat s
    let r := takeWords n t.2
    (BitVec.ofNat 32 t.1 :: r.1, r.2)

/-- A signed number the spec leaves open. -/
def takeInt (s : State) : Int × State := (Config.freeInt s.free, { s with free := s.free + 1 })

/-! ## Domains of power -/

/-- Whether power domain `d` is on (R575). -/
def pdOn (s : State) (d : Nat) : Bool := rdb s Reg.PWR_PD_STAT d

/-- The domain of Quill engine `e` (R12). -/
def pdOfEngine (e : Fin 16) : Nat := 2 + e.val / 4

/-- The domain of Scribe core `c` (R12). -/
def pdOfCore (c : Fin 16) : Nat := 6 + c.val / 4

/-! ## Time (R379, R386, R391) -/

/-- Units of 2^-24 ns in a second. -/
def unitsPerSec : Nat := 1000000000 * 2 ^ 24

/-- A time value in units of 2^-24 ns. -/
def BTime.units (t : BTime) : Nat := t.sec.toNat * unitsPerSec + t.ns.toNat * 2 ^ 24 + t.frac.toNat

/-- The time value of a number of units; the seconds wrap at 2^48 (R379). -/
def BTime.ofUnits (u : Nat) : BTime :=
  { sec := BitVec.ofNat 48 (u / unitsPerSec)
    ns := BitVec.ofNat 30 (u % unitsPerSec / 2 ^ 24)
    frac := BitVec.ofNat 24 u }

/-- Units after which the seconds wrap. -/
def timeWrap : Nat := 2 ^ 48 * unitsPerSec

/-- A time moved by a signed number of units. -/
def BTime.shift (t : BTime) (d : Int) : BTime :=
  BTime.ofUnits (((t.units : Int) + d) % (timeWrap : Int)).toNat

/-- The difference `t - u` in units. -/
def BTime.diff (t u : BTime) : Int := (t.units : Int) - (u.units : Int)

/-- A time in the layout of R391. -/
def BTime.words (t : BTime) : Word × Word × Word :=
  (t.ns.setWidth 32, t.sec.setWidth 32,
    BitVec.ofNat 32 (t.sec.toNat / 2 ^ 32 + (t.frac.toNat / 2 ^ 8) * 2 ^ 16))

/-- The entry of a domain or a channel; `false` is A. -/
def AB.get {α : Type} (p : AB α) (b : Bool) : α := if b then p.b else p.a
/-- That entry replaced. -/
def AB.set {α : Type} (p : AB α) (b : Bool) (x : α) : AB α := if b then { p with b := x } else { p with a := x }

/-- The active domain, true for B (R386). -/
def activeB (s : State) : Bool := rdb s Reg.PLN_TIME_STAT 16

/-- Present time of the active domain. -/
def now (s : State) : BTime := s.base.dom.get (activeB s)

/-- The stroke period in ns (R50, R53). -/
def periodNs (s : State) : Nat :=
  match s.base.period with
  | 0 => 15625
  | 1 => 25000
  | 2 => 31250
  | _ => 125000

/-- The freeze mark offset in ns of a PERIOD code (R53). -/
def freezeOfs : Nat → Nat
  | 0 => 10500
  | 1 => 16800
  | 2 => 21000
  | _ => 84000

/-- The release mark offset in ns of a PERIOD code (R53). -/
def releaseOfs : Nat → Nat
  | 0 => 15125
  | 1 => 24200
  | 2 => 30250
  | _ => 121000

/-- PERIOD written and in effect, with the mark offsets that show it (R50, R53). -/
def setPeriod (s : State) (p : Nat) : State :=
  let s := { s with base := { s.base with period := p % 4 } }
  wr (wr (wrf s Reg.BSL_STROKE_CFG 0 2 p) Reg.BSL_MARK_FRZ (BitVec.ofNat 32 (freezeOfs p)))
    Reg.BSL_MARK_REL (BitVec.ofNat 32 (releaseOfs p))

/-- Stroke number within the page (R51). -/
def strokeNo (s : State) : Nat := rdf s Reg.BSL_STROKE_NUM 0 6

/-- Page count (R51). -/
def pageNo (s : State) : Nat := rdf s Reg.BSL_STROKE_NUM 6 26

/-- Axis limit (R2, R164). -/
def axisLimit (s : State) : Nat := rdf s Reg.FUS_PART 0 9

/-- PAGE of the `n`-th page after page `p`; it wraps at 2^26 (R51). -/
def pageAfter (p n : Nat) : Nat := (p + n) % 2 ^ 26

/-- The stroke counted from page 0; it wraps with PAGE at 2^32 (R51). -/
def strokeAbs (s : State) : Nat := pageNo s * 64 + strokeNo s

/-- Stroke `due` has been reached in stroke `k`, both counted from page 0 and less than 2^31 strokes apart (R51). -/
def strokeReached (due k : Nat) : Bool := decide ((k + 2 ^ 32 - due % 2 ^ 32) % 2 ^ 32 < 2 ^ 31)

/-- The brown-out warning stands (R564). -/
def warning (s : State) : Bool := rdb s Reg.PWR_STAT 4

end Sys2Proof.Machine
end

