-- ==== Sys2Proof/Machine/View.lean ====
section
/-! DEFINITION. Registers whose value follows other state: what a read finds there at one instant. -/

namespace Sys2Proof.Machine

/-- STATE as QE_STAT codes it (R118). -/
def runCode : QRun → Nat
  | .idle => 0
  | .running => 1
  | .retrying => 2
  | .stopped => 3
  | .debug => 4

/-- QE_STAT of an engine (R118). -/
def qeStat (g : QEng) : Word :=
  BitVec.ofNat 32 (runCode g.run * 2 ^ 28 + g.pc.toNat * 2 ^ 16 + g.sr.toNat * 2 ^ 8 + g.axn.val)

/-- A slot uses a cam table or holds a pending switch to it (R210 USERS). -/
def usesCam (s : State) (t : Fin 64) (n : Fin 256) : Bool :=
  match s.dct.slot[n].cam with
  | some k => k.table == t || k.pend == some t
  | none => false

/-- USERS of a cam table (R210). -/
def camUsers (s : State) (t : Fin 64) : Nat := ((fins 256).filter (usesCam s t)).length

/-- REMAIN of WDN_AUTH_T: ms left of the 60 s authorisation (R485, R497). -/
def authLeft (s : State) : Nat :=
  match s.isl.auth with
  | some t => 60000 - (s.tick - t) / 1000000
  | none => 0

/-- SC_MTIME: Baseline ticks since the last reset of PD0 (R244; log entry 51). -/
def mtime (s : State) : Nat := (s.tick - s.pwr.rstTick) % 2 ^ 64

/-- PWR_CLK_STAT: a PLL is locked while its reference is present and its domain on (R571, R572, R579; log entry 49). -/
def clkStat (s : State) : Word :=
  let core := !s.pwr.por && !rdb s Reg.PWR_STAT 6
  let sd := fun (d : Nat) => !s.pwr.por && !rdb s Reg.PWR_STAT 7 && pdOn s d
  BitVec.ofNat 32 (core.toNat + 2 * (core && pdOn s 13).toNat + 4 * (sd 11).toNat + 8 * (sd 12).toNat)

/-! ## Axis tasks (R212, R213, R226, R227, R245) -/

/-- A drive axis of the Codex that this part has (R2, R212). -/
def driveAxis (s : State) (t : Nat) : Bool :=
  let c := s.axcfg[Fin.ofNat 256 t]
  c.used && !c.virt && decide (t < rdf s Reg.FUS_PART 0 9)

/-- Position of an axis in a list of axes. -/
def placeIn (l : List (Fin 256)) (t : Nat) : Nat := l.findIdx (fun n => n.val == t)

/-- INK_TCFG_t of an axis task: configured, engine, and position in the engine list (R245). -/
def axisTcfg (s : State) (t : Nat) : Word :=
  let e := s.axcfg[Fin.ofNat 256 t].engine
  if driveAxis s t then BitVec.ofNat 32 (2 ^ 31 + e.val * 2 ^ 16 + placeIn s.wave.engList[e] t) else 0

/-- INK_TSTAT_t of an axis task: 3 while it runs, the engine of the last dispatch, and its place in the group list as
the sequence of its submission (R227, R245; log entry 60). -/
def axisTstat (s : State) (t : Nat) : Word :=
  let n : Fin 256 := Fin.ofNat 256 t
  let c := s.axcfg[n]
  if driveAxis s t then
    let run := if s.ax[n].ent = .running then 3 else 0
    let core := if s.ink.task[Fin.ofNat 512 t].takes = 0 then 0 else c.engine.val
    BitVec.ofNat 32 (run * 2 ^ 29 + core * 2 ^ 24 + placeIn s.wave.grpList[c.group] t)
  else 0

/-- INK_LIG_STAT_l of a group ligature: entries released from the head, and entries that stand unreleased (R245). -/
def groupLig (s : State) (g : Fin 32) : Word :=
  let l := s.wave.grpList[g]
  let gone := (l.takeWhile (fun n => s.ax[n].ent == .released)).length
  let pend := (l.filter (fun n => s.ax[n].ent != .none && s.ax[n].ent != .released)).length
  BitVec.ofNat 32 (gone * 2 ^ 16 + pend)

/-- What a register of the map shows: QE_STAT, SC_MTIME, USERS, PWR_CLK_STAT and WDN_AUTH_T follow the state of their
blocks (R118, R210, R244, R497, R579), and so do the registers of axis tasks and group ligatures (R213, R245); on a
VB-M128 INK_AXS_n, DCT_ST_n, DCT_CFG_n and DCT_TRIM_n read 0 for n above 127 (R159, R164). -/
def regView (s : State) (a : Nat) : Word :=
  if inBank 0x010F0004 0x100000 16 a then qeStat s.eng[Fin.ofNat 16 ((a - 0x010F0004) / 0x100000)]
  else if inBank 0x020F0008 0x100000 16 a then BitVec.ofNat 32 (mtime s)
  else if inBank 0x020F000C 0x100000 16 a then BitVec.ofNat 32 (mtime s / 2 ^ 32)
  else if inBank 0x04001000 0x4 256 a || inBank 0x04001800 0x4 256 a then 0
  else if inBank 0x04002000 0x4 256 a then axisTcfg s ((a - 0x04002000) / 4)
  else if inBank 0x04003800 0x4 256 a then axisTstat s ((a - 0x04003800) / 4)
  else if inBank 0x04005000 0x10 32 a then 0
  else if inBank 0x04005004 0x10 32 a then groupLig s (Fin.ofNat 32 ((a - 0x04005004) / 16))
  else if inBank 0x04102400 0x4 64 a then put (rd s a) 0 9 (camUsers s (Fin.ofNat 64 ((a - 0x04102400) / 4)))
  else if (inBank 0x04008200 0x4 128 a || inBank 0x04101200 0x4 128 a || inBank 0x04101600 0x4 128 a
      || inBank 0x04101A00 0x4 128 a) && decide (rdf s Reg.FUS_PART 0 9 ≤ 128) then 0
  else if a = Reg.PWR_CLK_STAT then clkStat s
  else if a = Reg.WDN_AUTH_T then BitVec.ofNat 32 (authLeft s)
  else rd s a

end Sys2Proof.Machine
end

