-- ==== Sys2Proof/Machine/Folio.lean ====
section
/-! DEFINITION. Folio: channels, triggers and the trace memory (R426 to R439). -/

namespace Sys2Proof.Machine

/-- Base of the trace memory (R553). -/
def folBase : Nat := 0x05000000

def updFol (s : State) (f : Fol → Fol) : State := { s with fol := f s.fol }

def folState (s : State) : Nat := rdf s Reg.FOL_STAT 0 3
def setFolState (s : State) (v : Nat) : State := wrf s Reg.FOL_STAT 0 3 v

/-- A capture is running (R431, R437). -/
def folRunning (s : State) : Bool := pdOn s 15 && (folState s == 1 || folState s == 2 || folState s == 3)

def folSrc (s : State) (c : Fin 32) : Nat := rdf s (Reg.FOL_CH_SRC c) 16 3
def folSel (s : State) (c : Fin 32) : Nat := rdf s (Reg.FOL_CH_SRC c) 0 16

/-- The channels with a source, ascending. -/
def folEnabled (s : State) : List (Fin 32) := (fins 32).filter (fun c => decide (folSrc s c ≠ 0))

/-- Two 16-bit words, the first in bits [15:0]. -/
def pairWord (lo hi : Half) : Word := hi ++ lo

/-- Line levels of source 4 (R426). -/
def folLines (s : State) (sel : Nat) : Word :=
  if sel = 0 then
    BitVec.ofNat 32 ((List.range 8).foldl (fun a n =>
      a + (s.pins.lfA.getLsbD n).toNat * 2 ^ (3 * n) + (s.pins.lfB.getLsbD n).toNat * 2 ^ (3 * n + 1)
        + (s.pins.lfZ.getLsbD n).toNat * 2 ^ (3 * n + 2)) 0)
  else if sel = 1 then pairWord s.pins.cap s.pins.tp
  else 0

/-- The unmasked value of a channel (R426). A source-3 read has no side effect (R427). -/
def folValue (s : State) (c : Fin 32) : Word :=
  let sel := folSel s c
  let n : Fin 256 := Fin.ofNat 256 (sel / 256)
  match folSrc s c with
  | 1 =>
    let w := sel % 8
    pairWord (s.ax[n].fb[Fin.ofNat 16 (2 * w)]) (s.ax[n].fb[Fin.ofNat 16 (2 * w + 1)])
  | 2 => s.ax[n].sent.extractLsb' (if sel % 2 = 1 then 32 else 0) 32
  | 3 => regView s (rd s (Reg.FOL_CH_ADDR c)).toNat
  | 4 => folLines s sel
  | 5 => rd s (Reg.MGN_ACT (sel % 16))
  | _ => 0

/-- A channel's value under its mask (R426). -/
def folMasked (s : State) (c : Fin 32) : Word := folValue s c &&& rd s (Reg.FOL_CH_MASK c)

/-- The time tag of an entry without its KIND and channel: the active domain's time (R426, R429). -/
def folTag (s : State) (t : BTime) : Word × Word × Word :=
  (t.ns.setWidth 32, t.sec.setWidth 32, BitVec.ofNat 32 (t.sec.toNat / 2 ^ 32 + (activeB s).toNat * 2 ^ 31))

/-- An entry stored at END; the oldest is overwritten once the ring is full (R429, R434, log entry 23). -/
def folStore (s : State) (kind : Nat) (ch : Nat) (tag : Word × Word × Word) (v : Word) : State :=
  let i := rdf s Reg.FOL_IDX 0 16
  let s := mwrWords s (folBase + 16 * i)
    [put tag.1 30 2 kind, tag.2.1, put tag.2.2 16 5 ch, v]
  let s := wrf s Reg.FOL_IDX 0 16 (i + 1)
  let s := updFol s (fun f => { f with written := f.written + 1 })
  let s := when (decide (65536 ≤ s.fol.written)) s (fun s => wrf s Reg.FOL_IDX 16 16 (rdf s Reg.FOL_IDX 0 16))
  when (folState s == 1 && decide (rdf s Reg.FOL_PRE 0 17 ≤ s.fol.written)) s (fun s => setFolState s 2)

/-- A snapshot entry of every enabled channel, with the value that `val` gives it (R431, R434). -/
def folSnapshot (s : State) (t : BTime) (val : State → Fin 32 → Word) : State :=
  forAll (folEnabled s) s (fun s c =>
    let v := val s c
    updFol (folStore s 1 c (folTag s t) v) (fun f => { f with last := f.last.put c v }))

/-- The oldest queued change written to memory, with a gap entry behind it after drops (R430). -/
def folStoreNext (s : State) : State :=
  match s.fol.queue with
  | [] => s
  | e :: r =>
    let s := folStore (updFol s (fun f => { f with queue := r })) 0 e.ch e.tag e.val
    let n := s.fol.dropped
    if n = 0 then s
    else
      let s := folStore s 3 0 (folTag s (now s)) (BitVec.ofNat 32 n)
      let s := wrf s Reg.FOL_CNT 16 16 (satN 16 (rdf s Reg.FOL_CNT 16 16 + n))
      updFol s (fun f => { f with dropped := 0 })

/-- The changes that wait in the queue written to memory. -/
def folFlush (s : State) : State := forAll s.fol.queue s (fun s _ => folStoreNext s)

/-- The trigger of a capture in state 2; in state 1 it is ignored and counted (R432, R434, R435). The changes that wait in
the queue are older and are written before the marker, and the snapshot holds the values of the pre-trigger part: a change
at the trigger's own instant comes after it (R432, R438; log entry 127). -/
def folTrigger (s : State) (t : BTime) : State :=
  if !pdOn s 15 then s
  else if folState s == 1 then incf s Reg.FOL_CNT 0 16
  else if folState s == 2 then
    let s := folFlush s
    let i := rdf s Reg.FOL_IDX 0 16
    let s := folStore s 2 0 (folTag s t) (BitVec.ofNat 32 (rdf s Reg.FOL_TRIG 0 3))
    let s := updFol s (fun f => { f with trig := BitVec.ofNat 16 i, post := 0 })
    let s := folSnapshot s t (fun s c => s.fol.last[c])
    let d := takeNat s
    let dead := satN 16 d.1
    let s := wrf d.2 Reg.FOL_DEAD 0 16 dead
    let s := wrf s Reg.FOL_DEAD 16 16 (max dead (rdf s Reg.FOL_DEAD 16 16))
    setFolState s (if rdf s Reg.FOL_POST 0 17 = 0 then 4 else 3)
  else s

/-- A trigger event of source `src`, when the capture uses that source and `hit` holds (R433). -/
def folEvent (s : State) (src : Nat) (hit : State → Bool) : State :=
  when (rdf s Reg.FOL_TRIG 0 3 == src && hit s) s (fun s => folTrigger s (now s))

/-- A change put into the input queue, or dropped where the queue is full (R428, R430). -/
def folChange (s : State) (c : Fin 32) (t : BTime) : State :=
  let v := folMasked s c
  if v = s.fol.last[c] then s
  else if 64 ≤ s.fol.queue.length then updFol s (fun f => { f with dropped := f.dropped + 1 })
  else updFol s (fun f => { f with last := f.last.put c v, queue := f.queue ++ [{ ch := c, tag := folTag s t, val := v }] })

/-- The test of TSRC 1 on channel TCH (R433). -/
def folCompare (s : State) (src : Nat) : Bool :=
  let tch := rdf s Reg.FOL_TRIG 8 7
  if h : tch < 32 then
    let c : Fin 32 := ⟨tch, h⟩
    let eq := (folMasked s c &&& rd s Reg.FOL_TMASK) == rd s Reg.FOL_TCMP
    folSrc s c == src && (if rdb s Reg.FOL_TRIG 15 then !eq else eq)
  else false

/-- A sampling instant of source `src`, tagged `t`: its changes count as post-trigger entries where it is the trigger's own
(R428, R430, R432, R433). -/
def folSample (s : State) (src : Nat) (t : BTime) : State :=
  if folRunning s then
    let s := when (rdf s Reg.FOL_TRIG 0 3 == 1 && folCompare s src) s (fun s => folTrigger s t)
    when (folRunning s) s (fun s =>
      forAll ((folEnabled s).filter (fun c => folSrc s c == src)) s (fun s c => folChange s c t))
  else s

/-- One of the 100 MHz samples of the lines: source 4 is sampled at each, changed or not, so that a change dropped before
is found again (R426, R430). Which Baseline ticks they fall on is a DESIGN CHOICE (log entry 118). -/
def lineSample (s : State) : State := when (s.tick % 10 == 0) s (fun s => folSample s 4 (now s))

/-- The mailbox and window registers, which a source-3 channel may not name (R427). -/
def folBarred (a : Nat) : Bool := decide (0x04800100 ≤ a ∧ a < 0x04800150)

/-- The rules an ARM is tested against (R427, R433, R439). -/
def folArmOk (s : State) : Bool :=
  decide (rdf s Reg.FOL_TRIG 0 3 < 6) && decide (rdf s Reg.FOL_PRE 0 17 + rdf s Reg.FOL_POST 0 17 + 33 ≤ 65536)
    && (folEnabled s).all (fun c =>
      if folSrc s c == 3 then
        let a := (rd s (Reg.FOL_CH_ADDR c)).toNat
        decide (0x04000000 ≤ a ∧ a ≤ 0x04BFFFFC) && a % 4 == 0 && (regRow a).isSome && !folBarred a
      else true)

/-- ARM (R431, R436): a refused one sets CFG_ERR; a running capture ends in state 5 first. -/
def folArm (s : State) : State :=
  if !folArmOk s then wrb s Reg.FOL_STAT 31 true
  else
    let s := updFol (setFolState (wr s Reg.FOL_IDX 0) 1)
      (fun f => { f with queue := [], dropped := 0, written := 0, post := 0 })
    let s := folSnapshot s (now s) folMasked
    when (folState s == 1 && decide (rdf s Reg.FOL_PRE 0 17 ≤ s.fol.written)) s (fun s => setFolState s 2)

/-- STOP (R436). -/
def folStop (s : State) : State :=
  when (folRunning s) s (fun s => updFol (setFolState s 5) (fun f => { f with queue := [], dropped := 0 }))

/-- FORCE (R433). -/
def folForce (s : State) : State := folEvent s 0 (fun _ => true)

/-- A queued entry written to memory, with a gap entry after drops; the capture ends after POST change entries (R430,
R434). -/
def folWriteNext (s : State) : State :=
  if folRunning s then
    if s.fol.queue.isEmpty then s
    else
      let s := folStoreNext s
      if folState s == 3 then
        let s := updFol s (fun f => { f with post := f.post + 1 })
        when (decide (rdf s Reg.FOL_POST 0 17 ≤ s.fol.post)) s (fun s =>
          updFol (setFolState s 4) (fun f => { f with queue := [], dropped := 0 }))
      else s
  else s

/-! ## Meanings -/

/-- TRACE_ENTRY_WRITE (R429, R430, R434). -/
def execTraceEntryWrite (s : State) : Host.Outcome State Fault Refusal := .next (folWriteNext s)

end Sys2Proof.Machine
end

