-- ==== Sys2Proof/Machine/Baseline.lean ====
section
/-! DEFINITION. Baseline time and timed pulses (R379 to R400). -/

namespace Sys2Proof.Machine

def updBase (s : State) (f : Base → Base) : State := { s with base := f s.base }

/-- A domain as an index: 0 is A. -/
def domIdx (b : Bool) : Nat := if b then 1 else 0

/-- Time of domain `b`. -/
def domTime (s : State) (b : Bool) : BTime := s.base.dom.get b

/-- One Baseline tick: both domains advance by their increments (R379). -/
def baselineTick (s : State) : State :=
  let step := fun (b : Bool) => (s.base.dom.get b).shift (rd s (Reg.BSL_INC (domIdx b))).toNat
  let s := updBase s (fun k => { k with dom := ⟨step false, step true⟩ })
  { s with tick := s.tick + 1 }

/-- An increment written, clamped to 1 ns ± 1000 ppm (R380). -/
def setInc (s : State) (b : Bool) (v : Int) : State :=
  let lo : Int := 0x00FFBE77
  let hi : Int := 0x01004189
  let c := max lo (min hi v)
  let s := when (decide (c ≠ v)) s (fun s => wrb s Reg.BSL_DOM_STAT (3 + domIdx b) true)
  wr s (Reg.BSL_INC (domIdx b)) (BitVec.ofNat 32 c.toNat)

/-- Marks are running (R389). -/
def marks (s : State) : Bool := rdb s Reg.BSL_CTL 4

/-- The controller's node ID (R282). -/
def ctrlId (s : State) : Nat := rdf s Reg.PLN_CTRL_ID 0 8

/-- Node ID of a domain's master; 0 is none (R336). -/
def masterOf (s : State) (b : Bool) : Nat := rdf s Reg.PLN_TIME_STAT (8 * domIdx b) 8

/-- The controller is master of a domain. -/
def isTimeMaster (s : State) (b : Bool) : Bool := decide (ctrlId s ≠ 0) && masterOf s b == ctrlId s

/-- LOCKED of both domains follows (R384). -/
def showLocked (s : State) : State :=
  let on := fun b => isTimeMaster s b || decide (64 ≤ s.base.lockRun.get b)
  wrb (wrb s Reg.BSL_DOM_STAT 0 (on false)) Reg.BSL_DOM_STAT 1 (on true)

/-! ## Timed pulses (R392 to R398) -/

def updTp (s : State) (n : Fin 16) (f : TpSt → TpSt) : State := { s with tp := s.tp.upd n f }

def tpMode (p : TpProg) : Nat := fld p.cfg 2 2
def tpPol (p : TpProg) : Bool := bit p.cfg 0
def tpCount (p : TpProg) : Nat := fld p.cfg 16 16

/-- The domain a program counts in (R397). -/
def tpDom (s : State) (p : TpProg) : Bool :=
  match fld p.cfg 4 2 with
  | 0 => false
  | 1 => true
  | _ => activeB s

/-- Instant of pulse `i` of mode 2, truncated to 1 ns (R392). -/
def tpInstant (p : TpProg) (i : Nat) : Int :=
  let per : Nat := p.per.toNat * 2 ^ 24 + fld p.perf 0 16 * 2 ^ 8
  shr (p.t0 + i * per) 24 * 2 ^ 24

/-- The first pulse at or after `t`, from pulse `i` on (R395). -/
def tpFirst (p : TpProg) (i : Nat) (t : Int) : Nat :=
  let per : Nat := p.per.toNat * 2 ^ 24 + fld p.perf 0 16 * 2 ^ 8
  if t ≤ tpInstant p i then i
  else
    let k := ((t - p.t0) / (per : Int)).toNat
    if t ≤ tpInstant p k then k else if t ≤ tpInstant p (k + 1) then k + 1 else k + 2

/-- The output's level: POL between pulses, NOT POL in a pulse; Folio samples it (R392, R426). -/
def tpDrive (s : State) (n : Fin 16) (level : Bool) : State :=
  let s := { s with pins := { s.pins with tp :=
    if level then s.pins.tp ||| BitVec.ofNat 16 (2 ^ n.val) else s.pins.tp &&& ~~~(BitVec.ofNat 16 (2 ^ n.val)) } }
  folSample s 4 (now s)

def tpRunBit (s : State) (n : Fin 16) (b : Bool) : State := wrb s (Reg.TP_STAT n) 0 b
def tpLate (s : State) (n : Fin 16) : State := wrb s (Reg.TP_STAT n) 3 true

/-- No further edge: the program has ended. -/
def tpEnd (s : State) (n : Fin 16) : State := tpRunBit (updTp s n (fun k => { k with edge := none })) n false

/-- The edge of a stroke-relative program in the present stroke (R392, R398): none where the stroke is not its own, and
LATE where the pulse does not fit. -/
def tpStrokeEdge (s : State) (n : Fin 16) (p : TpProg) : State :=
  let own := strokeNo s % 2 ^ (fld p.cfg 12 3) == fld p.cfg 6 6
  if !marks s || !own then updTp s n (fun k => { k with edge := none })
  else if periodNs s < p.ns + p.wid.toNat then tpLate (updTp s n (fun k => { k with edge := none })) n
  else
    let e : Int := (s.base.latch.get (tpDom s p)).units + p.ns * 2 ^ 24
    updTp s n (fun k => { k with edge := if (domTime s (tpDom s p)).units ≤ e then some e else none })

/-- The next edge of the program from pulse `i` on, for a time `t` of its domain; pulses in the past are skipped
(R392, R395, R397). -/
def tpSchedule (s : State) (n : Fin 16) (p : TpProg) (i : Nat) (t : Int) : State :=
  match tpMode p with
  | 1 => if i = 0 ∧ t ≤ p.t0 then updTp s n (fun k => { k with edge := some p.t0 })
         else tpEnd (when (i == 0) s (fun s => tpLate s n)) n
  | 2 =>
    let j := tpFirst p i t
    let s := when (decide (j ≠ i)) s (fun s => tpLate s n)
    if tpCount p ≠ 0 ∧ tpCount p ≤ j then tpEnd s n
    else updTp s n (fun k => { k with i := j, edge := some (tpInstant p j) })
  | 3 => tpStrokeEdge s n p
  | _ => tpEnd s n

/-- A program is taken (R394, R395). -/
def tpTake (s : State) (n : Fin 16) (p : TpProg) : State :=
  let s := updTp s n (fun k => { k with
    cur := some p, pend := none, i := 0, edge := none, high := false, stopping := false, took := none })
  let s := wrb (tpRunBit s n true) (Reg.TP_STAT n) 1 false
  tpSchedule (tpDrive s n (tpPol p)) n p 0 (domTime s (tpDom s p)).units

/-- The program that the registers hold (R400). -/
def tpProg (s : State) (n : Fin 16) : TpProg :=
  let ns := rdf s (Reg.TP_T0_NS n) 0 30
  let sec := (rd s (Reg.TP_T0_SL n)).toNat + rdf s (Reg.TP_T0_SH n) 0 16 * 2 ^ 32
  { cfg := rd s (Reg.TP_CFG n), ns, t0 := ((sec * unitsPerSec + ns * 2 ^ 24 : Nat) : Int)
    per := rd s (Reg.TP_PER n), perf := rd s (Reg.TP_PERF n), wid := rd s (Reg.TP_WID n) }

/-- The rules of R393 on the program's values. -/
def tpOk (p : TpProg) : Bool :=
  decide (10 ≤ p.wid.toNat)
    && (tpMode p != 2 || decide ((p.wid.toNat + 10) * 2 ^ 16 ≤ p.per.toNat * 2 ^ 16 + fld p.perf 0 16))
    && (tpMode p != 3 || decide (fld p.cfg 6 6 < 2 ^ (fld p.cfg 12 3)))
    && decide (fld p.cfg 4 2 ≠ 3) && decide (fld p.cfg 12 3 ≤ 6)

/-- A committed program waits: a pulse is in progress, or a pending program is taken at this very instant and runs
(R394). -/
def tpWaits (s : State) (n : Fin 16) : Bool :=
  s.tp[n].high || (decide (s.tp[n].took = some s.tick) && rdb s (Reg.TP_STAT n) 0)

/-- GO (R393, R394). -/
def tpGo (s : State) (n : Fin 16) : State :=
  let p := tpProg s n
  if !tpOk p || decide (s.tp[n].rsv ≠ 0) then wrb s (Reg.TP_STAT n) 2 true
  else if tpWaits s n then wrb (updTp s n (fun k => { k with pend := some p })) (Reg.TP_STAT n) 1 true
  else tpTake s n p

/-- STOP (R396). -/
def tpStop (s : State) (n : Fin 16) : State :=
  let s := wrb (updTp s n (fun k => { k with pend := none })) (Reg.TP_STAT n) 1 false
  if s.tp[n].high then updTp s n (fun k => { k with stopping := true }) else tpEnd s n

/-- Reserved fields of the program register at offset `o` of an output (R400). -/
def tpReserved (o : Nat) : Word :=
  match o with
  | 0x00 => 0x8002#32
  | 0x04 => 0xC0000000#32
  | 0x0C => 0xFFFF0000#32
  | 0x14 => 0xFFFF0000#32
  | _ => 0

/-- A write of `w` to the program register at offset `o` of output `n`: whether it carries a reserved field other than 0
stands until that register's next write (R393). -/
def tpReservedWrite (s : State) (n : Fin 16) (o : Nat) (w : Word) : State :=
  updTp s n (fun k => { k with rsv := putBit k.rsv (o / 4) (decide (w &&& tpReserved o ≠ 0)) })

/-- A leading edge is reached (R392). -/
def tpLeading (s : State) (n : Fin 16) : State :=
  match s.tp[n].cur, s.tp[n].edge with
  | some p, some _ =>
    if s.tp[n].high || !pdOn s 14 then s
    else
      let s := updTp s n (fun k => { k with high := true, i := k.i + 1, edge := none })
      tpDrive (incf s (Reg.TP_STAT n) 16 16) n (!tpPol p)
  | _, _ => s

/-- A trailing edge: a pending program is taken, a stopped one ends, else the next edge is scheduled (R394, R396). -/
def tpTrailing (s : State) (n : Fin 16) : State :=
  match s.tp[n].cur with
  | none => s
  | some p =>
    if !s.tp[n].high then s
    else
      let stop := s.tp[n].stopping
      let s := updTp s n (fun k => { k with high := false, stopping := false })
      let s := tpDrive s n (tpPol p)
      match s.tp[n].pend with
      | some q => updTp (tpTake s n q) n (fun k => { k with took := some s.tick })
      | none =>
        if stop then tpEnd s n
        else if tpMode p = 3 then s
        else tpSchedule s n p s.tp[n].i (domTime s (tpDom s p)).units

/-- Stroke-relative outputs at a send mark: a pulse that still lasts there ends before the new stroke's own begins
(R392, R398). -/
def tpStroke (s : State) : State :=
  forAll (fins 16) s (fun s n =>
    match s.tp[n].cur with
    | some p => if tpMode p = 3 ∧ rdb s (Reg.TP_STAT n) 0 then tpStrokeEdge s n p else s
    | none => s)

/-- A domain has been stepped: an edge of an output counted in it that now lies in the past is lost; a program that
ends so gives way to a pending one (R394, R397). -/
def tpStepped (s : State) (b : Bool) : State :=
  forAll (fins 16) s (fun s n =>
    match s.tp[n].cur, s.tp[n].edge with
    | some p, some e =>
      let t : Int := (domTime s b).units
      if tpDom s p = b ∧ e < t then
        if tpMode p = 3 then tpLate (updTp s n (fun k => { k with edge := none })) n
        else
          let s := tpSchedule s n p s.tp[n].i t
          match s.tp[n].pend with
          | some q => if rdb s (Reg.TP_STAT n) 0 then s else tpTake s n q
          | none => s
      else s
    | _, _ => s)

/-- Instants of outputs counted in the active domain, converted at a change of it and truncated to 1 ns (R392, R397). -/
def tpConvert (s : State) (d : Int) : State :=
  let conv := fun (p : TpProg) => if fld p.cfg 4 2 = 2 then { p with t0 := p.t0 + d } else p
  forAll (fins 16) s (fun s n => updTp s n (fun k =>
    { k with
      edge := match k.cur with
        | some p => if fld p.cfg 4 2 = 2 then k.edge.map (fun e => shr (e + d) 24 * 2 ^ 24) else k.edge
        | none => k.edge
      cur := k.cur.map conv, pend := k.pend.map conv }))

/-- Power-off of PD14 cuts every pulse (R396). -/
def tpOff (s : State) : State :=
  forAll (fins 16) s (fun s n => updTp s n (fun _ =>
    { cur := none, pend := none, i := 0, edge := none, high := false, stopping := false, took := none, rsv := 0 }))

/-! ## Setting and steering (R381 to R384) -/

/-- A domain moved by `d` units, with STEPPED (R381, R397). -/
def stepDomain (s : State) (b : Bool) (t : BTime) : State :=
  let s := updBase s (fun k => { k with dom := k.dom.set b t })
  tpStepped (wrb s Reg.BSL_DOM_STAT (5 + domIdx b) true) b

/-- BSL_SET.GO (R381). -/
def bslSet (s : State) : State :=
  let b := rdb s Reg.BSL_SET 4
  let ns := rdf s Reg.BSL_SET_NS 0 30
  if (b = activeB s ∧ marks s) ∨ 1000000000 ≤ ns then wrb s Reg.BSL_DOM_STAT 7 true
  else stepDomain s b { sec := BitVec.ofNat 48 ((rd s Reg.BSL_SET_SL).toNat + rdf s Reg.BSL_SET_SH 0 16 * 2 ^ 32)
                        ns := BitVec.ofNat 30 ns, frac := 0 }

/-- A copy of a domain's master frame compared: `d` is local minus master in units (R382). -/
def phaseMeasure (s : State) (b : Bool) (d : Int) : State :=
  let e := satI 31 (shr d 16)
  let s := wr s (Reg.BSL_PHERR (domIdx b)) (BitVec.ofNat 32 (unsignedOf 31 e))
  let run := if e.natAbs ≤ 2560 then min 64 (s.base.lockRun.get b + 1) else 0
  showLocked (updBase s (fun k => { k with
    seen := k.seen.set b true, errs := k.errs.set b (k.errs.get b ++ [some e]), lockRun := k.lockRun.set b run }))

/-- The end of a stroke: a domain without a copy has MISS set (R382). -/
def phaseStroke (s : State) (b : Bool) : State :=
  let s := when (!s.base.seen.get b) s (fun s =>
    let s := wrb s (Reg.BSL_PHERR (domIdx b)) 31 true
    updBase s (fun k => { k with errs := k.errs.set b (k.errs.get b ++ [none]) }))
  updBase s (fun k => { k with seen := k.seen.set b false })

/-- The servo of one domain over the last 8 strokes (R383). -/
def servoDomain (s : State) (b : Bool) : State :=
  if masterOf s b = 0 ∨ isTimeMaster s b then s
  else
    let l := s.base.errs.get b
    let es := ((l.drop (l.length - 8)).filterMap id)
    let s := updBase s (fun k => { k with errs := k.errs.set b [] })
    if es.isEmpty then s
    else
      let e : Rat := (es.foldl (· + ·) 0 : Int) / ((es.length * 256 : Nat) : Rat)
      let big : Bool := decide (1000 < e) || decide (e < -1000)
      if !marks s && big then
        let s := updBase s (fun k => { k with rate := k.rate.set b 0 })
        stepDomain s b { (s.base.dom.get b).shift (-(e * 2 ^ 24)).floor with frac := 0 }
      else
        let t8 : Rat := ((8 * periodNs s : Nat) : Rat)
        let kp := rdf s Reg.BSL_SERVO_CFG 8 8
        let ki := rdf s Reg.BSL_SERVO_CFG 0 8
        let r := s.base.rate.get b + e / (((2 ^ ki : Nat) : Rat) * t8)
        let s := updBase s (fun k => { k with rate := k.rate.set b r })
        setInc s b (((1 - r - e / (((2 ^ kp : Nat) : Rat) * t8)) * 2 ^ 24).floor)

/-- The Steward's servo (R383). -/
def servo (s : State) : State :=
  if rdb s Reg.BSL_CTL 1 then s else servoDomain (servoDomain s false) true

/-! ## Meanings -/

/-- SERVO (R383). -/
def execServo (s : State) : Host.Outcome State Fault Refusal := .next (servo s)
/-- LEADING_EDGE (R392). -/
def execLeadingEdge (n : Fin 16) (s : State) : Host.Outcome State Fault Refusal := .next (tpLeading s n)
/-- TRAILING_EDGE (R394, R396). -/
def execTrailingEdge (n : Fin 16) (s : State) : Host.Outcome State Fault Refusal := .next (tpTrailing s n)

end Sys2Proof.Machine
end

