-- ==== Sys2Proof/Machine/DuctusPlan.lean ====
section
/-! DEFINITION. The planner of Ductus: jerk-limited profiles of whole strokes in exact arithmetic (R181 to R190, R604).

Quantities are rationals in counts and strokes. Where an ideal duration or distance holds a square root, it is compared
exactly. The plan is solved exactly for the rounded durations, and every limit is tested exactly (log entry 24). Where
R182 leaves a choice between plans, a free number decides (log entry 25). -/

namespace Sys2Proof.Machine

/-! ## Square roots, compared exactly -/

/-- Bits of the integer square root from bit `k` down. -/
def isqrtBits (n : Nat) : Nat → Nat → Nat
  | 0, r => r
  | k + 1, r => if (r + 2 ^ k) * (r + 2 ^ k) ≤ n then isqrtBits n k (r + 2 ^ k) else isqrtBits n k r

/-- The integer square root of a number below 2^240. -/
def isqrt (n : Nat) : Nat := isqrtBits n 120 0

/-- The square root of a rational, rounded down to 2^-40. -/
def rootBelow (x : Rat) : Rat := mkRat (isqrt (x * 2 ^ 80).floor.toNat) (2 ^ 40)

/-- The absolute value of a rational. -/
def ratAbs (x : Rat) : Rat := if x < 0 then -x else x

/-- The sign of a rational. -/
def ratSign (x : Rat) : Int := if x < 0 then -1 else if x = 0 then 0 else 1

/-- The sign of a sum of two terms, from their signs and from the sign of the difference of their squares. -/
def sumSign (s t squares : Int) : Int := if s * t < 0 then s * squares else if s = 0 then t else s

/-- The sign of a + b√y. -/
def rootSign (a b y : Rat) : Int := sumSign (ratSign a) (ratSign (b * y)) (ratSign (a * a - b * b * y))

/-- A value r + c√y. -/
structure Surd where
  r : Rat
  c : Rat
  y : Rat

/-- The sum of two values is at most `d`. -/
def surdSumLe (u w : Surd) (d : Rat) : Bool :=
  let a := u.r + w.r - d
  decide (sumSign (rootSign a u.c u.y) (ratSign (w.c * w.y))
    (rootSign (a * a + u.c * u.c * u.y - w.c * w.c * w.y) (2 * a * u.c) u.y) ≤ 0)

/-- A duration in whole strokes, rounded up (R182). -/
def strokesUp (x : Rat) : Nat := x.ceil.toNat

/-- The duration (√y - b)/j in whole strokes, rounded up: the least `n` with n·j + b at or above √y. -/
def strokesRoot (y b j : Rat) : Nat :=
  let n := strokesUp ((rootBelow y - b) / j)
  let e := n * j + b
  if 0 ≤ e ∧ y ≤ e * e then n else n + 1

/-- Limits of a plan in counts and strokes. -/
structure PlanLim where
  v : Rat
  a : Rat
  d : Rat
  j : Rat

/-- The limits a slot holds (R180). -/
def planLim (l : DctLim) : PlanLim :=
  { v := mkRat l.v (2 ^ 16), a := mkRat l.a (2 ^ 24), d := mkRat l.d (2 ^ 24), j := mkRat l.j (2 ^ 32) }

/-! ## Ramps: three segments that bring (v0, a0) to (vt, 0) -/

/-- The velocity that taking `a0` straight to 0 would give. -/
def restV (v0 a0 j : Rat) : Rat := v0 + a0 * ratAbs a0 / (2 * j)

/-- Sign of the acceleration that leads to `vt`. -/
def rampSign (v0 a0 vt j : Rat) : Int := ratSign (vt - restV v0 a0 j)

/-- The square of the peak acceleration that brings an acceleration `b` to rest over a change `dv` of the velocity. -/
def peakSquare (b dv j : Rat) : Rat := j * dv + b * b / 2

/-- Ideal durations of a ramp whose acceleration reaches its limit, in the frame of its direction (R181, R183). -/
def limitedIdeal (b dv amax j : Rat) : Rat × Rat × Rat :=
  let t1 := ratAbs (amax - b) / j
  let t3 := amax / j
  (t1, (dv - (b + amax) / 2 * t1 - amax / 2 * t3) / amax, t3)

/-- Ideal durations of the three segments, each rounded up to whole strokes (R181 to R183). -/
def rampStrokes (v0 a0 vt amax j : Rat) : Nat × Nat × Nat :=
  let g := rampSign v0 a0 vt j
  if g = 0 then (0, 0, strokesUp (ratAbs a0 / j))
  else
    let b := a0 * g
    let dv := (vt - v0) * g
    let y := peakSquare b dv j
    if y ≤ amax * amax then (strokesRoot y b j, 0, strokesRoot y 0 j)
    else
      let t := limitedIdeal b dv amax j
      (strokesUp t.1, strokesUp t.2.1, strokesUp t.2.2)

/-- Displacement of a ramp with given durations, peak and jerks. -/
def segsDist (n1 n2 n3 pk j1 j3 v0 a0 : Rat) : Rat :=
  let v1 := v0 + a0 * n1 + j1 * n1 * n1 / 2
  let v2 := v1 + pk * n2
  (v0 * n1 + a0 * n1 * n1 / 2 + j1 * n1 * n1 * n1 / 6) + (v1 * n2 + pk * n2 * n2 / 2)
    + (v2 * n3 + pk * n3 * n3 / 2 + j3 * n3 * n3 * n3 / 6)

/-- Displacement of the ideal ramp. With a peak √y below its limit it is
(v0·j·(2√y - b) + y√y - b²√y + b³/3)/j² in the frame of its direction. -/
def rampReach (v0 a0 vt amax j : Rat) : Surd :=
  let g := rampSign v0 a0 vt j
  if g = 0 then ⟨segsDist 0 0 (ratAbs a0 / j) a0 0 (-(ratSign a0 : Rat) * j) v0 a0, 0, 0⟩
  else
    let b := a0 * g
    let v := v0 * g
    let dv := (vt - v0) * g
    let y := peakSquare b dv j
    if y ≤ amax * amax then ⟨g * (b * b * b / 3 - v * j * b) / (j * j), g * (2 * v * j + y - b * b) / (j * j), y⟩
    else
      let t := limitedIdeal b dv amax j
      ⟨g * segsDist t.1 t.2.1 t.2.2 amax (if b ≤ amax then j else -j) (-j) v b, 0, 0⟩

/-- Peak acceleration and the jerks of the first and third segment that reach `vt` exactly in the given durations;
none where the durations admit no solution (R182). -/
def rampSolve (n1 n2 n3 : Nat) (v0 a0 vt : Rat) : Option (Rat × Rat × Rat) :=
  let den : Rat := (n1 : Rat) / 2 + n2 + (n3 : Rat) / 2
  if den = 0 then (if v0 = vt ∧ a0 = 0 then some (0, 0, 0) else none)
  else
    let pk := (vt - v0 - a0 * n1 / 2) / den
    if (n1 = 0 ∧ pk ≠ a0) ∨ (n3 = 0 ∧ pk ≠ 0) then none
    else some (pk, if n1 = 0 then 0 else (pk - a0) / n1, if n3 = 0 then 0 else -pk / n3)

/-- The velocity furthest from 0 in the samples of a first segment that takes `a0` through 0. -/
def turnV (v0 a0 : Rat) (r : Rat × Rat × Rat) : Rat :=
  if a0 * r.1 < 0 then
    let at' := fun (m : Rat) => ratAbs (v0 + a0 * m + r.2.1 * m * m / 2)
    let m := -a0 / r.2.1
    max (at' m.floor) (at' m.ceil)
  else 0

/-- A solved ramp keeps its limits of acceleration and jerk. -/
def rampOk (amax j : Rat) (r : Rat × Rat × Rat) : Bool :=
  decide (ratAbs r.1 ≤ amax) && decide (ratAbs r.2.1 ≤ j) && decide (ratAbs r.2.2 ≤ j)

/-- A solved ramp keeps to a velocity, or passes it no further than its state leads to under the limit of jerk. -/
def turnOk (vmax j v0 a0 : Rat) (r : Rat × Rat × Rat) : Bool :=
  decide (turnV v0 a0 r ≤ max vmax (max (ratAbs v0) (ratAbs (restV v0 a0 j))))

/-- Durations lengthened by `s` strokes in all over the first and third segment. -/
def lengthen (n : Nat × Nat × Nat) (s : Nat) : List (Nat × Nat × Nat) :=
  (List.range (s + 1)).map (fun x => (n.1 + x, n.2.1, n.2.2 + (s - x)))

/-- The element a free number picks. -/
def pickFrom {α : Type} (fr : Nat) (l : List α) : Option α := l[fr % l.length]?

/-- The first non-empty list of candidates over total lengthenings `s`, `s + 1`, ... -/
def firstFit {α : Type} (cands : Nat → List α) : Nat → Nat → List α
  | 0, s => cands s
  | k + 1, s => match cands s with
    | [] => firstFit cands k (s + 1)
    | l => l

/-- A lengthening by which a ramp has a solution: the first segment then has time to bring `a0` near 0, and the third
keeps the peak small. -/
def rampBound (v0 a0 vt amax j : Rat) : Nat :=
  let n := strokesUp (ratAbs a0 / j) + 2
  n + 2 * strokesUp ((ratAbs (vt - v0) + ratAbs a0 * n) / min amax j) + 2

/-- The total lengthening of both ramps of a reduced move that is tried before one ramp alone is lengthened (log entry
24). -/
def mostLengthened : Nat := 10

/-- Durations and jerks of a ramp under the limits: the rounded durations where they admit a solution, otherwise the
least lengthening that does (R182). A ramp that passes `vmax` in every such plan passes it (log entry 24). None only where
a limit is 0, which no record or load gives. -/
def rampFit (fr : Nat) (v0 a0 vt vmax amax j : Rat) : Option ((Nat × Nat × Nat) × (Rat × Rat × Rat)) :=
  let cand := fun ok s => (lengthen (rampStrokes v0 a0 vt amax j) s).filterMap (fun m =>
    (rampSolve m.1 m.2.1 m.2.2 v0 a0 vt).bind (fun r =>
      if rampOk amax j r && (!ok || turnOk vmax j v0 a0 r) then some (m, r) else none))
  let most := rampBound v0 a0 vt amax j
  match pickFrom fr (firstFit (cand true) most 0) with
  | some x => some x
  | none => pickFrom fr (firstFit (cand false) most 0)

/-- Displacement of a solved ramp. -/
def rampDist (n : Nat × Nat × Nat) (r : Rat × Rat × Rat) (v0 a0 : Rat) : Rat :=
  segsDist n.1 n.2.1 n.2.2 r.1 r.2.1 r.2.2 v0 a0

/-- A value in units of 2^-48, truncated (R604). -/
def to48 (x : Rat) : Int := (x * 2 ^ 48).floor

/-- The non-empty segments of a ramp with labels from `lab` up; `sg` mirrors a negative move. -/
def rampSegs (lab : Nat) (n : Nat × Nat × Nat) (r : Rat × Rat × Rat) (vt sg : Rat) : List Seg :=
  ([{ lab := lab, n := n.1, j := sg * r.2.1, vend := none },
    { lab := lab + 1, n := n.2.1, j := 0, vend := none },
    { lab := lab + 2, n := n.2.2, j := sg * r.2.2, vend := some (to48 (sg * vt)) }] : List Seg).filter (fun g => g.n ≠ 0)

/-- What stands for a plan that a limit of 0 rules out: the motion goes on as it is (log entry 24). -/
def noPlan : List Seg := [{ lab := 1, n := 2 ^ 40, j := 0, vend := none }]

/-- A ramp from (v0, a0) to vt: segments 1 to 3 under A_MAX where it speeds up, 5 to 7 under D_MAX where it slows down
(R184). -/
def planRamp (fr : Nat) (v0 a0 vt : Rat) (l : PlanLim) : List Seg :=
  let g := rampSign v0 a0 vt l.j
  let up := decide (0 ≤ (if g = 0 then (if a0 < 0 then -1 else 1) else g) * v0)
  match rampFit fr v0 a0 vt (ratAbs vt) (if up then l.a else l.d) l.j with
  | some f => rampSegs (if up then 1 else 5) f.1 f.2 vt 1
  | none => noPlan

/-- The ramp to rest under a deceleration and a jerk, and its displacement (R186, R191). -/
def planStop (fr : Nat) (v0 a0 d j : Rat) : Option (List Seg × Rat) :=
  (rampFit fr v0 a0 0 0 d j).map (fun f => (rampSegs 5 f.1 f.2 0 1, rampDist f.1 f.2 v0 a0))

/-- VELOCITY: a target of the opposite sign first brings the velocity to 0 (R184). -/
def planVelocity (fr : Nat) (v0 a0 vt : Rat) (l : PlanLim) : List Seg :=
  if v0 * vt < 0 then planRamp fr v0 a0 0 l ++ planRamp fr 0 0 vt l else planRamp fr v0 a0 vt l

/-! ## Moves (R181 to R183) -/

/-- A distance below which what is left is absorbed in the last sample (R182). -/
def absorb : Rat := mkRat 1 (2 ^ 16)

/-- The segments of a move from its two ramps and its cruise. -/
def moveSegs (sg : Rat) (nu : Nat × Nat × Nat) (ru : Rat × Rat × Rat) (v : Rat) (n4 : Nat) (nd : Nat × Nat × Nat)
    (rd : Rat × Rat × Rat) : List Seg :=
  rampSegs 1 nu ru v sg ++ (if n4 = 0 then [] else [{ lab := 4, n := n4, j := 0, vend := some (to48 (sg * v)) }])
    ++ rampSegs 5 nd rd 0 sg

/-- Durations of both ramps lengthened by `s` strokes in all. -/
def lengthenBoth (nu nd : Nat × Nat × Nat) (s : Nat) : List ((Nat × Nat × Nat) × (Nat × Nat × Nat)) :=
  (List.range (s + 1)).flatMap (fun x => (lengthen nu x).flatMap (fun u => (lengthen nd (s - x)).map (fun d => (u, d))))

/-- Durations of both ramps of a move at V, lengthened by `s` strokes in all. Segments 1 to 3 are empty where V is kept
(R182). -/
def lengthenAtV (keep : Bool) (nu nd : Nat × Nat × Nat) (s : Nat) : List ((Nat × Nat × Nat) × (Nat × Nat × Nat)) :=
  if keep then (lengthen nd s).map (fun d => ((0, 0, 0), d)) else lengthenBoth nu nd s

/-- A lengthening past which no move at V lands on the distance: a ramp between 0 and V covers at least a third of V in
each stroke, and one that turns back from `a0` goes no faster than V allows (R182; log entry 24). -/
def atVBound (v0 a0 dist : Rat) (l : PlanLim) : Nat :=
  8 * strokesUp (dist / l.v) + rampBound v0 a0 l.v (min l.a l.d) l.j
    + (if a0 = 0 then 0 else 16 * strokesUp ((l.v + ratAbs v0 + ratAbs (restV v0 a0 l.j)) / ratAbs a0))

/-- The move at V itself: two ramps, lengthened as far as needed, and whole strokes of cruise that land on the distance
(R182). -/
def moveAtV (fr : Nat) (sg v0 a0 dist amax : Rat) (l : PlanLim) : Option (List Seg) :=
  let keep := decide (v0 = l.v ∧ a0 = 0)
  let cand := fun s => (lengthenAtV keep (rampStrokes v0 a0 l.v amax l.j) (rampStrokes l.v 0 0 l.d l.j) s).filterMap (fun x =>
    (rampSolve x.1.1 x.1.2.1 x.1.2.2 v0 a0 l.v).bind (fun ru =>
      (rampSolve x.2.1 x.2.2.1 x.2.2.2 l.v 0 0).bind (fun rd =>
        let rest := dist - rampDist x.1 ru v0 a0 - rampDist x.2 rd l.v 0
        let n4 := ((rest + absorb) / l.v).floor
        if rampOk amax l.j ru && turnOk l.v l.j v0 a0 ru && rampOk l.d l.j rd && decide (0 ≤ n4)
            && decide (ratAbs (rest - l.v * n4) < absorb) then
          some (moveSegs sg x.1 ru l.v n4.toNat x.2 rd) else none)))
  pickFrom fr (firstFit cand (atVBound v0 a0 dist l) 0)

/-- The limit under which a ramp from `v0` to `v` runs. -/
def rampLimit (v0 v : Rat) (l : PlanLim) : Rat := if v0 ≤ v then l.a else l.d

/-- The ideal move that reaches velocity `v` stops within the distance. -/
def stopsWithin (v0 a0 dist v : Rat) (l : PlanLim) : Bool :=
  surdSumLe (rampReach v0 a0 v (rampLimit v0 v l) l.j) (rampReach v 0 0 l.d l.j) dist

/-- The largest velocity from which the ideal move still stops on the distance (R182), in a bisection between `lo`, from
which it does, and `hi`. -/
def largestV (v0 a0 dist : Rat) (l : PlanLim) : Nat → Rat → Rat → Rat
  | 0, lo, _ => lo
  | k + 1, lo, hi =>
    let mid := (lo + hi) / 2
    if stopsWithin v0 a0 dist mid l then largestV v0 a0 dist l k mid hi else largestV v0 a0 dist l k lo mid

/-- With all durations given, the velocity that lands on the distance with the fewest strokes of cruise, and the
segments; none where a limit is broken (R182). -/
def moveSolve (sg v0 a0 dist amax : Rat) (l : PlanLim) (nu nd : Nat × Nat × Nat) : Option (Rat × List Seg) :=
  let dist0 := fun v => (rampSolve nu.1 nu.2.1 nu.2.2 v0 a0 v).bind (fun ru =>
    (rampSolve nd.1 nd.2.1 nd.2.2 v 0 0).map (fun rd => (ru, rd, rampDist nu ru v0 a0 + rampDist nd rd v 0)))
  (dist0 0).bind (fun e0 => (dist0 1).bind (fun e1 =>
    let k := e1.2.2 - e0.2.2
    let n4 := ((dist - e0.2.2) / l.v - k).ceil.toNat
    if k + n4 = 0 then none
    else
      let v := (dist - e0.2.2) / (k + n4)
      (dist0 v).bind (fun e =>
        if decide (0 < v) && decide (v ≤ l.v) && rampOk amax l.j e.1 && turnOk l.v l.j v0 a0 e.1
            && rampOk l.d l.j e.2.1 then
          some (v, moveSegs sg nu e.1 v n4 nd e.2.1) else none)))

/-- Durations of one of the two ramps lengthened by `s` strokes in all. -/
def lengthenOne (nu nd : Nat × Nat × Nat) (s : Nat) : List ((Nat × Nat × Nat) × (Nat × Nat × Nat)) :=
  (lengthen nu s).map (fun u => (u, nd)) ++ (lengthen nd s).map (fun d => (nu, d))

/-- The candidates with the largest velocity. -/
def fastest (l : List (Rat × List Seg)) : List (List Seg) :=
  let top := l.foldl (fun t x => max t x.1) 0
  (l.filter (fun x => x.1 = top)).map (·.2)

/-- A move at a velocity reduced as far as the distance asks; `most` bounds the lengthening (R182). -/
def moveReduced (fr : Nat) (sg v0 a0 dist v : Rat) (l : PlanLim) (most : Nat) : Option (List Seg) :=
  let amax := rampLimit v0 v l
  let some1 := fun (n : Nat × Nat × Nat) => (max n.1 1, n.2.1, max n.2.2 1)
  let nu := some1 (rampStrokes v0 a0 v amax l.j)
  let nd := some1 (rampStrokes v 0 0 l.d l.j)
  let cand := fun ns => fastest (ns.filterMap (fun x => moveSolve sg v0 a0 dist amax l x.1 x.2))
  match pickFrom fr (firstFit (fun s => cand (lengthenBoth nu nd s)) mostLengthened 0) with
  | some x => some x
  | none => pickFrom fr (firstFit (fun s => cand (lengthenOne nu nd s)) most (mostLengthened + 1))

/-- A move over a positive distance in the frame of its direction, whose stop does not pass the target (R182, R183). -/
def planForward (fr : Nat) (sg v0 a0 dist : Rat) (l : PlanLim) (most : Nat) : Option (List Seg) :=
  let fits := stopsWithin v0 a0 dist l.v l
  match if fits then moveAtV fr sg v0 a0 dist (rampLimit v0 l.v l) l else none with
  | some x => some x
  | none => moveReduced fr sg v0 a0 dist (if fits then l.v else largestV v0 a0 dist l 100 0 l.v) l most

/-- A move from rest. One long ramp brings any distance under the limits. -/
def planFromRest (fr : Nat) (sg dist : Rat) (l : PlanLim) : List Seg :=
  (planForward fr sg 0 0 dist l (4 * strokesUp (dist / min l.j (min l.a l.d)) + 16)).getD noPlan

/-- A move that slows down as a stop does, to a velocity from which a second ramp, lengthened as far as needed, ends on the
target (R182; log entry 24). -/
def planSlower (fr : Nat) (sg v0 a0 dist : Rat) (l : PlanLim) : Option (List Seg) :=
  (rampFit fr v0 a0 0 0 l.d l.j).bind (fun f =>
    pickFrom fr (firstFit (fun s => (lengthen (1, 0, 1) s).filterMap (fun nd =>
      (moveSolve sg v0 a0 dist l.d l f.1 nd).map (·.2))) (4 * strokesUp (dist / min l.j l.d) + 16) 0))

/-- What a planned move does: its segments, and whether they end at a reversal point (R186). -/
structure MovePlan where
  segs : List Seg
  /-- Displacement to the reversal point, where the stop lies beyond the target. -/
  reversal : Option Rat

/-- A move over the signed distance from (v0, a0) (R182, R186). A move that whole strokes cannot lead to its target in one
piece under the limits comes to rest before it and goes on from there (log entry 24). -/
def planMove (fr : Nat) (v0 a0 dist : Rat) (l : PlanLim) : MovePlan :=
  let dir : Rat := if v0 ≠ 0 then ratSign v0 else if a0 ≠ 0 then ratSign a0 else if dist < 0 then -1 else 1
  if v0 = 0 ∧ a0 = 0 then
    if dist = 0 then ⟨[], none⟩ else ⟨planFromRest fr dir (dir * dist) l, none⟩
  else
    match planStop fr v0 a0 l.d l.j with
    | none => ⟨noPlan, none⟩
    | some st =>
      let off := dir * (dist - st.2)
      if ratAbs off < absorb then ⟨st.1, none⟩
      else if off < 0 then ⟨st.1, some st.2⟩
      else
        match planForward fr dir (dir * v0) (dir * a0) (dir * dist) l 64 with
        | some x => ⟨x, none⟩
        | none =>
          match planSlower fr dir (dir * v0) (dir * a0) (dir * dist) l with
          | some x => ⟨x, none⟩
          | none => ⟨st.1 ++ planFromRest fr dir off l, none⟩

/-! ## Running a profile (R181, R604) -/

/-- The sample `m` strokes into a segment, truncated to 2^-48 count (R181, R604). -/
def segSample (p0 v0 a0 : Int) (j : Rat) (m : Nat) : Int × Int × Int :=
  let jj := j * 2 ^ 48
  let m' : Rat := m
  ((p0 + v0 * m + a0 * m' * m' / 2 + jj * m' * m' * m' / 6).floor, (v0 + a0 * m + jj * m' * m' / 2).floor,
    (a0 + jj * m').floor)

/-- State of a profile at its present sample. At the end of a ramp or cruise the velocity is the planned one and the
acceleration 0, as R182 and R184 have it reached exactly, in place of the truncated sample of R604 (log entry 24). -/
def profState (p : Prof) : Int × Int × Int :=
  match p.segs with
  | [] => (p.p0 + p.v0 * p.m, p.v0, p.a0)
  | g :: _ =>
    let x := segSample p.p0 p.v0 p.a0 g.j p.m
    if p.m = g.n then
      match g.vend with
      | some v => (x.1, v, 0)
      | none => x
    else x

/-- The segment number a profile shows (R210 SEG): the segment that ends, at a sample between two. -/
def profSeg (p : Prof) : Nat :=
  match p.segs with
  | [] => 0
  | g :: _ => g.lab

/-- The profile one stroke later. -/
def profNext (p : Prof) : Prof :=
  match p.segs with
  | [] => { p with m := p.m + 1 }
  | g :: r =>
    if p.m < g.n then { p with m := p.m + 1 }
    else
      let x := profState p
      { p with p0 := x.1, v0 := x.2.1, a0 := x.2.2, segs := r, m := 1 }

/-- All segments of a profile are done. -/
def profDone (p : Prof) : Bool :=
  match p.segs with
  | [] => true
  | [g] => p.m == g.n
  | _ => false

end Sys2Proof.Machine
end

