-- ==== Sys2Proof/Machine/Crc.lean ====
section
/-! DEFINITION. Checks over bytes: CRC-32 (R203, R250, R291), CRC-32C (R303), SHA-256 (R252, R492) and the verification
of an ECDSA signature over NIST P-256 (R252). -/

namespace Sys2Proof.Machine

/-- One bit of a reflected CRC of 32 bits with the reflected polynomial `poly`. -/
def crcBit (poly : Word) (c : Word) : Word :=
  if c.getLsbD 0 then (c >>> 1) ^^^ poly else c >>> 1

/-- `n` bits of the CRC. -/
def crcBits (poly : Word) : Nat → Word → Word
  | 0, c => c
  | n + 1, c => crcBits poly n (crcBit poly c)

/-- The CRC register after the bytes. -/
def crcRun (poly : Word) : Word → List Byte → Word
  | c, [] => c
  | c, b :: r => crcRun poly (crcBits poly 8 (c ^^^ b.setWidth 32)) r

/-- CRC-32 with the IEEE 802.3 polynomial 0x04C1_1DB7, initial value 0xFFFF_FFFF and final complement (R203, R250). -/
def crc32 (bs : List Byte) : Word := ~~~ (crcRun 0xEDB88320#32 0xFFFFFFFF#32 bs)

/-- CRC-32C with the polynomial 0x1EDC_6F41 (R303). -/
def crc32c (bs : List Byte) : Word := ~~~ (crcRun 0x82F63B78#32 0xFFFFFFFF#32 bs)

/-! SHA-256 as FIPS 180-4 defines it (R252, R492). PRESUMED in its constants: the spec names the standard. -/

/-- The round constants of SHA-256. -/
def shaK : List Word := [
  0x428a2f98#32, 0x71374491#32, 0xb5c0fbcf#32, 0xe9b5dba5#32, 0x3956c25b#32, 0x59f111f1#32, 0x923f82a4#32, 0xab1c5ed5#32,
  0xd807aa98#32, 0x12835b01#32, 0x243185be#32, 0x550c7dc3#32, 0x72be5d74#32, 0x80deb1fe#32, 0x9bdc06a7#32, 0xc19bf174#32,
  0xe49b69c1#32, 0xefbe4786#32, 0x0fc19dc6#32, 0x240ca1cc#32, 0x2de92c6f#32, 0x4a7484aa#32, 0x5cb0a9dc#32, 0x76f988da#32] ++ [
  0x983e5152#32, 0xa831c66d#32, 0xb00327c8#32, 0xbf597fc7#32, 0xc6e00bf3#32, 0xd5a79147#32, 0x06ca6351#32, 0x14292967#32,
  0x27b70a85#32, 0x2e1b2138#32, 0x4d2c6dfc#32, 0x53380d13#32, 0x650a7354#32, 0x766a0abb#32, 0x81c2c92e#32, 0x92722c85#32,
  0xa2bfe8a1#32, 0xa81a664b#32, 0xc24b8b70#32, 0xc76c51a3#32, 0xd192e819#32, 0xd6990624#32, 0xf40e3585#32, 0x106aa070#32] ++ [
  0x19a4c116#32, 0x1e376c08#32, 0x2748774c#32, 0x34b0bcb5#32, 0x391c0cb3#32, 0x4ed8aa4a#32, 0x5b9cca4f#32, 0x682e6ff3#32,
  0x748f82ee#32, 0x78a5636f#32, 0x84c87814#32, 0x8cc70208#32, 0x90befffa#32, 0xa4506ceb#32, 0xbef9a3f7#32, 0xc67178f2#32]

/-- The eight working words of SHA-256. -/
structure Sha where
  a : Word
  b : Word
  c : Word
  d : Word
  e : Word
  f : Word
  g : Word
  h : Word
deriving DecidableEq, Repr

/-- The initial hash value. -/
def shaInit : Sha :=
  { a := 0x6a09e667#32, b := 0xbb67ae85#32, c := 0x3c6ef372#32, d := 0xa54ff53a#32,
    e := 0x510e527f#32, f := 0x9b05688c#32, g := 0x1f83d9ab#32, h := 0x5be0cd19#32 }

/-- One round with the constant plus message word `kw`. -/
def shaRound (s : Sha) (kw : Word) : Sha :=
  let s1 := s.e.rotateRight 6 ^^^ s.e.rotateRight 11 ^^^ s.e.rotateRight 25
  let ch := (s.e &&& s.f) ^^^ (~~~ s.e &&& s.g)
  let t1 := s.h + s1 + ch + kw
  let s0 := s.a.rotateRight 2 ^^^ s.a.rotateRight 13 ^^^ s.a.rotateRight 22
  let mj := (s.a &&& s.b) ^^^ (s.a &&& s.c) ^^^ (s.b &&& s.c)
  { a := t1 + (s0 + mj), b := s.a, c := s.b, d := s.c, e := s.d + t1, f := s.e, g := s.f, h := s.g }

/-- The rounds over the constants, with the sliding window of the 16 next message words. -/
def shaRounds : Sha → List Word → List Word → Sha
  | s, [], _ => s
  | s, k :: ks, win =>
    let w0 := win.headD 0#32
    let w1 := win.getD 1 0#32
    let w9 := win.getD 9 0#32
    let w14 := win.getD 14 0#32
    let sg0 := w1.rotateRight 7 ^^^ w1.rotateRight 18 ^^^ (w1 >>> 3)
    let sg1 := w14.rotateRight 17 ^^^ w14.rotateRight 19 ^^^ (w14 >>> 10)
    shaRounds (shaRound s (k + w0)) ks (win.tail ++ [w0 + sg0 + w9 + sg1])

/-- The hash value after one block of 16 words. -/
def shaBlock (s : Sha) (ws : List Word) : Sha :=
  let t := shaRounds s shaK ws
  { a := s.a + t.a, b := s.b + t.b, c := s.c + t.c, d := s.d + t.d,
    e := s.e + t.e, f := s.f + t.f, g := s.g + t.g, h := s.h + t.h }

/-- The message words of bytes, most significant byte first. -/
def beWords : Nat → List Byte → List Word
  | 0, _ => []
  | _, [] => []
  | n + 1, bs => BitVec.ofNat 32 (beNat 0 (bs.take 4)) :: beWords n (bs.drop 4)

/-- The blocks of 16 words, at most `n` of them. -/
def shaBlocks : Nat → Sha → List Word → Sha
  | 0, s, _ => s
  | _, s, [] => s
  | n + 1, s, ws => shaBlocks n (shaBlock s (ws.take 16)) (ws.drop 16)

/-- The big-endian bytes of a number, `n` of them. -/
def beBytes (n v : Nat) : List Byte := (leBytes n v).reverse

/-- The SHA-256 digest of a list of bytes, 32 bytes. -/
def sha256 (bs : List Byte) : List Byte :=
  let len := bs.length
  let pad := (119 - len % 64) % 64
  let msg := bs ++ [0x80#8] ++ List.replicate pad 0#8 ++ beBytes 8 (8 * len)
  let n := msg.length
  let s := shaBlocks (n / 64 + 1) shaInit (beWords (n / 4 + 1) msg)
  beBytes 4 s.a.toNat ++ beBytes 4 s.b.toNat ++ beBytes 4 s.c.toNat ++ beBytes 4 s.d.toNat ++
  beBytes 4 s.e.toNat ++ beBytes 4 s.f.toNat ++ beBytes 4 s.g.toNat ++ beBytes 4 s.h.toNat

/-! ECDSA over NIST P-256 (R252), as FIPS 186-5 defines it. -/

/-- The field prime of P-256. -/
def p256P : Nat := 0xffffffff00000001000000000000000000000000ffffffffffffffffffffffff
/-- The order of the base point. -/
def p256N : Nat := 0xffffffff00000000ffffffffffffffffbce6faada7179e84f3b9cac2fc632551
/-- The coefficient b of the curve y² = x³ − 3x + b. -/
def p256B : Nat := 0x5ac635d8aa3a93e7b3ebbd55769886bc651d06b0cc53b0f63bce3c3e27d2604b
/-- The base point. -/
def p256G : Nat × Nat :=
  (0x6b17d1f2e12c4247f8bce6e563a440f277037d812deb33a0f4a13945d898c296,
   0x4fe342e2fe1a7f9b8ee7eb4a7c0f9e162bce33576b315ececbb6406837bf51f5)

/-- b^e modulo m, over the `n` low bits of e. -/
def powMod (m : Nat) : Nat → Nat → Nat → Nat
  | 0, _, _ => 1 % m
  | n + 1, b, e =>
    let r := powMod m n (b * b % m) (e / 2)
    if e % 2 = 1 then r * b % m else r

/-- The inverse modulo a prime m, by Fermat. -/
def invMod (m a : Nat) : Nat := powMod m 256 (a % m) (m - 2)

/-- Addition on the curve; `none` is the point at infinity. -/
def p256Add : Option (Nat × Nat) → Option (Nat × Nat) → Option (Nat × Nat)
  | none, q => q
  | p, none => p
  | some (x1, y1), some (x2, y2) =>
    if x1 = x2 ∧ (y1 + y2) % p256P = 0 then none
    else
      let l := if x1 = x2 then (3 * x1 * x1 + (p256P - 3)) * invMod p256P (2 * y1) % p256P
               else (y2 + p256P - y1) * invMod p256P (x2 + p256P - x1) % p256P
      let x3 := (l * l + 2 * p256P - x1 - x2) % p256P
      let y3 := (l * (x1 + p256P - x3) + p256P - y1) % p256P
      some (x3, y3)

/-- Multiple of a point by the `n` low bits of k. -/
def p256Mul : Nat → Nat → Option (Nat × Nat) → Option (Nat × Nat)
  | 0, _, _ => none
  | n + 1, k, p =>
    let r := p256Mul n (k / 2) (p256Add p p)
    if k % 2 = 1 then p256Add r p else r

/-- Whether (r, s) is a signature of the message under the public key (x, y) (R252). -/
def ecdsaVerify (x y r s : Nat) (msg : List Byte) : Bool :=
  let onCurve := decide (x < p256P) && decide (y < p256P) &&
    decide (y * y % p256P = (x * x * x + (p256P - 3) * x + p256B) % p256P)
  if onCurve && decide (0 < r) && decide (r < p256N) && decide (0 < s) && decide (s < p256N) then
    let z := beNat 0 (sha256 msg)
    let w := invMod p256N s
    match p256Add (p256Mul 256 (z * w % p256N) (some p256G)) (p256Mul 256 (r * w % p256N) (some (x, y))) with
    | none => false
    | some (px, _) => decide (px % p256N = r)
  else false

end Sys2Proof.Machine
end

