-- ==== Sys2Proof/Machine/HostQueue.lean ====
section
/-! DEFINITION. Host interrupts, and the acknowledgement of command-queue entries (R545 to R551). -/

namespace Sys2Proof.Machine

/-- The host record changed. -/
def updHst (s : State) (f : Hst → Hst) : State := { s with hst := f s.hst }

/-- A command queue's record changed. -/
def updQueue (s : State) (q : Fin 8) (f : HQueue → HQueue) : State :=
  updHst s (fun h => { h with queue := h.queue.upd q f })

/-- A response left for a master (R534). -/
def respond (s : State) (m : Master) (r : Resp) : State := updHst s (fun h => { h with resp := h.resp.put m r })

/-- The PCIe part is reset: the configuration space, the MSI-X table and the link layer (R527). -/
def pcieReset (s : State) : State :=
  updHst s (fun h => { h with msix := Hst.reset.msix, msixPend := 0, pcie := Hst.reset.pcie })

/-- The vector that HST_VEC maps source `b` to (R551). -/
def vectorOf (s : State) (b : Nat) : Fin 64 := Fin.ofNat 64 (rdf s (Reg.HST_VEC (b / 4)) (8 * (b % 4)) 6)

/-- PD13 is off, or PE_PERST_N holds it in reset (R577, R587). -/
def pcieDown (s : State) : Bool := !pdOn s 13 || !s.pwr.perst

/-- The function sends MSI-X messages: it is not in reset, in D0, and MSI-X is enabled (R525, R551, R587; log entry 129). -/
def msixLive (s : State) : Bool := !pcieDown s && !s.hst.pcie.d3 && s.hst.pcie.msixEn

/-- A vector is masked by itself or by the Function Mask (R551; log entries 8 and 129). -/
def vectorMasked (s : State) (v : Fin 64) : Bool := s.hst.pcie.msixMask || s.hst.msix[v].masked

/-- A vector sent once as an MSI-X message; a masked one becomes pending, as the PCIe Base specification has it
(R551; log entry 8). -/
def sendVector (s : State) (v : Fin 64) : State :=
  if !msixLive s then s
  else if vectorMasked s v then updHst s (fun h => { h with msixPend := h.msixPend ||| BitVec.ofNat 64 (2 ^ v.val) })
  else updHst s (fun h => { h with msiSent := h.msiSent ++ [v] })

/-- A vector that is pending and no longer masked is sent (R551; log entry 8). -/
def sendPending (s : State) (v : Fin 64) : State :=
  if msixLive s && !vectorMasked s v && s.hst.msixPend.getLsbD v then
    sendVector (updHst s (fun h => { h with msixPend := h.msixPend &&& ~~~(BitVec.ofNat 64 (2 ^ v.val)) })) v
  else s

/-- Source `b` of HST_IRQ_PEND set; when the bit rises while enabled and ROUTE is 0 its vector is sent (R551). -/
def hstIrq (s : State) (b : Nat) : State :=
  let rises := !rdb s Reg.HST_IRQ_PEND b && rdb s Reg.HST_IRQ_EN b
  let s := wrb s Reg.HST_IRQ_PEND b true
  when (rises && !rdb s Reg.HST_CTL 0) s (fun s => sendVector s (vectorOf s b))

/-- The level of LB_IRQ_N: held low with ROUTE 1 while PEND AND EN is not 0 (R551). -/
def lbIrqN (s : State) : Bool :=
  !(rdb s Reg.HST_CTL 0 && decide (rd s Reg.HST_IRQ_PEND &&& rd s Reg.HST_IRQ_EN ≠ 0))

/-- Scriptorium address of entry `i` of queue `q` (R545, R546). -/
def entryAddr (s : State) (q : Fin 8) (i : Nat) : Nat := rdf s (Reg.HST_Q_CFG q) 16 16 * 64 + i * 64

/-- Word 12 of an acknowledged entry (R546). -/
def ackWord (tag : Half) (result : Byte) (rep mismatch : Bool) : Word :=
  BitVec.ofNat 32 (2 ^ 31 + rep.toNat * 2 ^ 30 + mismatch.toNat * 2 ^ 29 + result.toNat * 2 ^ 16 + tag.toNat)

/-- RD moved past every acknowledged entry at the head (R545). -/
def advanceRd (q : Fin 8) : Nat → State → State
  | 0, s => s
  | n + 1, s =>
    let rdi := rdf s (Reg.HST_Q_RD q) 0 8
    let i : Byte := BitVec.ofNat 8 rdi
    if s.hst.queue[q].acked.contains i then
      let s := updQueue s q (fun k => { k with acked := k.acked.filter (· ≠ i) })
      let len := rdf s (Reg.HST_Q_CFG q) 0 8
      advanceRd q n (wrf s (Reg.HST_Q_RD q) 0 8 (if rdi ≥ len then 0 else rdi + 1))
    else s

/-- The acknowledgement of the entry at ring index `i`: word 12, RD, and the host interrupt (R545, R546, R551). -/
def ackEntry (s : State) (q : Fin 8) (i : Byte) (w : Word) : State :=
  let s := when (pdOn s 10) s (fun s => mwr32 s (entryAddr s q i.toNat + 48) w)
  let s := updQueue s q (fun k => { k with acked := i :: k.acked })
  hstIrq (advanceRd q 256 s) q.val

/-- The result of the entry accepted with `tag` becomes known: it and its waiting repeats are acknowledged (R548). -/
def ackTag (s : State) (q : Fin 8) (tag : Half) (result : Nat) : State :=
  let r := BitVec.ofNat 8 result
  match s.hst.queue[q].tags.find? (fun t => t.tag == tag && t.result.isNone) with
  | none => s
  | some t =>
    let s := updQueue s q (fun k => { k with tags := k.tags.map (fun u =>
      if u.tag == tag && u.result.isNone then { u with result := some r, repeats := [] } else u) })
    let s := ackEntry s q t.idx (ackWord tag r false false)
    forAll t.repeats s (fun s x => ackEntry s q x.1 (ackWord tag r true x.2))

/-- A result delivered to where the request came from (R547). -/
def answer (s : State) (src : ReqSrc) (result : Nat) : State :=
  match src with
  | .software => s
  | .queue q tag => ackTag s q tag result

end Sys2Proof.Machine
end

