-- ==== Sys2Proof/Machine/Inkwell.lean ====
section
/-! DEFINITION. Inkwell's task contexts, ready lists, dispatch queues and ligatures, and the Scribe cores' own state
(R212 to R246). -/

namespace Sys2Proof.Machine

/-! ## Interrupt bits of the Scribe cores (R246) -/

/-- Bit `b` of SC_IRQ_PEND of core `c` set; a core whose domain is off takes none (R575). -/
def scIrq (s : State) (c : Fin 16) (b : Nat) : State :=
  when (pdOn s (pdOfCore c)) s (fun s => wrb s (Reg.SC_IRQ_PEND c) b true)

/-- The same bit set for every core. -/
def scIrqAll (s : State) (b : Nat) : State := forAll (fins 16) s (fun s c => scIrq s c b)

/-- SC_IRQ_PEND.QUEUE and INK_QSTAT.COUNT follow the queue of core `c`; PEAK keeps the largest COUNT (R245, R246). -/
def showQueue (s : State) (c : Fin 16) : State :=
  let n := s.ink.core[c].queue.length
  let s := wrb s (Reg.SC_IRQ_PEND c) 0 (decide (n ≠ 0))
  let s := wrf s (Reg.INK_QSTAT c) 8 4 n
  when (decide (rdf s (Reg.INK_QSTAT c) 16 4 < n)) s (fun s => wrf s (Reg.INK_QSTAT c) 16 4 n)

/-- Whether the machine external interrupt of core `c` is pending (R244). -/
def scExternal (s : State) (c : Fin 16) : Bool := rd s (Reg.SC_IRQ_PEND c) &&& rd s (Reg.SC_IRQ_EN c) ≠ 0

/-- Whether the machine timer interrupt of core `c` is pending (R244). -/
def scTimer (s : State) (c : Fin 16) : Bool :=
  (rd s (Reg.SC_MTIMECMP_HI c)).toNat * 2 ^ 32 + (rd s (Reg.SC_MTIMECMP_LO c)).toNat ≤ mtime s

/-- Whether the machine software interrupt of core `c` is pending (R244). -/
def scSoftware (s : State) (c : Fin 16) : Bool := rdb s (Reg.SC_MSIP c) 0

/-! ## Traps of the Scribe cores (R242, R244; log entry 97) -/

/-- The CSR mip of core `c` (R244). -/
def hartMip (s : State) (c : Fin 16) : Word :=
  BitVec.ofNat 32 (2 ^ 3 * (scSoftware s c).toNat + 2 ^ 7 * (scTimer s c).toNat + 2 ^ 11 * (scExternal s c).toNat)

def updHart (s : State) (c : Fin 16) (f : Hart → Hart) : State :=
  { s with ink := { s.ink with core := s.ink.core.upd c (fun k => { k with hart := f k.hart }) } }

/-- The core runs instructions, or waits for an interrupt (R246). -/
def coreLive (s : State) (c : Fin 16) : Bool :=
  let st := rdf s (Reg.SC_STAT c) 28 4
  pdOn s (pdOfCore c) && (st == 1 || st == 2)

/-- Entry into a trap: the pc, the interrupt enable and the cause are saved, interrupts are off, and the handler's address
is taken from mtvec, for an interrupt in vectored mode from its table. -/
def hartTrap (cause tval : Word) (h : Hart) : Hart :=
  let base := h.mtvec &&& 0xFFFFFFFC#32
  let table := bit h.mtvec 0 && bit cause 31
  { h with
    mepc := h.pc, mcause := cause, mtval := tval, mpie := h.mie, mie := false, load := none
    pc := if table then base + 4#32 * (cause &&& 0x7FFFFFFF#32) else base }

/-- Return from a trap: MRET. -/
def hartReturn (h : Hart) : Hart := { h with pc := h.mepc, mie := h.mpie, mpie := true }

/-- An exception of core `c` while it is live. -/
def coreTrap (s : State) (c : Fin 16) (cause tval : Word) : State :=
  when (coreLive s c) s (fun s => updHart (wrf s (Reg.SC_STAT c) 28 4 1) c (hartTrap cause tval))

/-- A core that waits for an interrupt runs on once one that it enables is pending. -/
def coreWake (s : State) (c : Fin 16) : State :=
  when (rdf s (Reg.SC_STAT c) 28 4 == 2 && hartMip s c &&& s.ink.core[c].hart.ie != 0) s
    (fun s => wrf s (Reg.SC_STAT c) 28 4 1)

/-! ## Task states -/

/-- STATE of task `t` (R216). -/
def taskState (s : State) (t : Fin 512) : Nat := rdf s (Reg.INK_TSTAT t) 29 3
def setTaskState (s : State) (t : Fin 512) (v : Nat) : State := wrf s (Reg.INK_TSTAT t) 29 3 v

def taskEn (s : State) (t : Fin 512) : Bool := rdb s (Reg.INK_TCFG t) 31
def taskPrio (s : State) (t : Fin 512) : Fin 4 := Fin.ofNat 4 (rdf s (Reg.INK_TCFG t) 28 2)

/-- The ready condition of R214. -/
def readyCond (s : State) (t : Fin 512) : Bool :=
  let f := rd s (Reg.INK_TFLAG t)
  let m := rd s (Reg.INK_TMASK t)
  if rdb s (Reg.INK_TCFG t) 30 then decide (f &&& m = m) && decide (m ≠ 0) else decide (f &&& m ≠ 0)

/-- A record of a task changed. -/
def updTask (s : State) (t : Fin 512) (f : Task → Task) : State :=
  { s with ink := { s.ink with task := s.ink.task.upd t f } }
/-- A core's record changed. -/
def updCore (s : State) (c : Fin 16) (f : CoreSt → CoreSt) : State :=
  { s with ink := { s.ink with core := s.ink.core.upd c f } }
/-- A ready list changed. -/
def updReady (s : State) (p : Fin 4) (f : List (Fin 512) → List (Fin 512)) : State :=
  { s with ink := { s.ink with ready := s.ink.ready.upd p f } }
/-- The entries of a ligature changed. -/
def updLig (s : State) (l : Fin 64) (f : List LigEntry → List LigEntry) : State :=
  { s with ink := { s.ink with lig := s.ink.lig.upd l f } }

/-- A new instant begins: what becomes ready from here on became ready after all that stands in the lists (R219). -/
def newInstant (s : State) : State := { s with ink := { s.ink with nextReady := s.ink.nextReady + 1 } }

/-- Task `u` stands before task `t` in a ready list: it became ready earlier, or at the same instant and has the lower
number (R219). Instants at different ticks differ even under one number. -/
def readyBefore (s : State) (t u : Fin 512) : Bool :=
  let a := s.ink.task[u]
  let b := s.ink.task[t]
  decide (a.readySeq < b.readySeq ∨ (a.readySeq = b.readySeq ∧ (a.readyTick < b.readyTick ∨
    (a.readyTick = b.readyTick ∧ u.val < t.val))))

/-- Task `t` in its place in the ready list of its priority (R219). -/
def enterReady (s : State) (t : Fin 512) : State :=
  updReady s (taskPrio s t) (fun l => l.takeWhile (readyBefore s t) ++ t :: l.dropWhile (readyBefore s t))

/-- Task `t` out of the ready lists. -/
def leaveReady (s : State) (t : Fin 512) : State := forAll (fins 4) s (fun s p => updReady s p (·.filter (· ≠ t)))

/-- An application task in state waiting whose condition holds becomes ready (R214, R219). -/
def testReady (s : State) (t : Fin 512) : State :=
  if 256 ≤ t.val ∧ taskState s t = 0 ∧ taskEn s t ∧ readyCond s t then
    let s := setTaskState s t 1
    enterReady (updTask s t (fun k => { k with readyTick := s.tick, readySeq := s.ink.nextReady })) t
  else s

/-- A task returns to waiting, or to disabled, and its ready condition is tested again (R216). -/
def toWaiting (s : State) (t : Fin 512) : State :=
  testReady (setTaskState s t (if taskEn s t then 0 else 5)) t

/-- Flags set on an application task, without the ready test (R215). -/
def orFlags (s : State) (t : Fin 512) (m : Word) : State :=
  when (decide (256 ≤ t.val)) s (fun s => orReg s (Reg.INK_TFLAG t) m)

/-- A write of INK_TSET_t (R213, R215). -/
def setFlags (s : State) (t : Fin 512) (m : Word) : State := testReady (orFlags (newInstant s) t m) t

/-- The routes an event takes: task and flag bit of each enabled route that names the event (R217). -/
def routesOf (s : State) (code : Nat) : List (Nat × Nat) :=
  (List.range 128).filterMap (fun r =>
    let v := rd s (Reg.INK_EVR r)
    if bit v 31 && fld v 16 8 == code then some (fld v 7 9, fld v 0 5) else none)

/-- An event of R218: every enabled route that names it sets its flag at the same instant, and the tasks that become
ready stand in order of task number (R217, R219). -/
def raiseEvent (s : State) (code : Nat) : State :=
  if pdOn s 10 then
    let rs := routesOf s code
    let s := forAll rs s (fun s r => orFlags s (Fin.ofNat 512 r.1) (BitVec.ofNat 32 (2 ^ r.2)))
    forAll ((fins 512).filter (fun t => rs.any (fun r => r.1 == t.val))) s testReady
  else s

/-! ## Operations in flight (R234, INK_INFL) -/

/-- COUNT changed by `d`; PEAK keeps the largest. -/
def addInfl (s : State) (d : Int) : State :=
  let n := ((rdf s Reg.INK_INFL 16 9 : Int) + d).toNat
  let s := wrf s Reg.INK_INFL 16 9 n
  when (decide (rdf s Reg.INK_INFL_PEAK 0 9 < n)) s (fun s => wrf s Reg.INK_INFL_PEAK 0 9 n)

/-- Application entries in flight (R235): submitted to a ligature and not released. -/
def appInFlight (s : State) : Nat := (s.ink.lig.toList.map List.length).sum

/-! ## Ligatures of application tasks (R226 to R233) -/

/-- The words of a ring entry (R232). -/
def ligWords (e : LigEntry) : List Word :=
  [BitVec.ofNat 32 (e.seq.toNat * 2 ^ 16 + e.failed.toNat * 2 ^ 15 + e.task.val), e.res.1, e.res.2.1, e.res.2.2]

/-- The ring index after `i` of a ligature whose LEN field is `len`. -/
def ringNext (len i : Nat) : Nat := if i ≥ len then 0 else i + 1

/-- A ligature's ring cannot take another entry (R233). -/
def ligFull (s : State) (l : Fin 64) : Bool :=
  ringNext (rdf s (Reg.INK_LIG_CFG l) 4 10) (rdf s (Reg.INK_LIG_RING l) 16 10) == rdf s (Reg.INK_LIG_RING l) 0 10

/-- One entry released: written to the ring, counted, its event raised and its task back in waiting (R232). -/
def ligReleaseOne (s : State) (l : Fin 64) (e : LigEntry) : State :=
  let cfg := rd s (Reg.INK_LIG_CFG l)
  let w := rdf s (Reg.INK_LIG_RING l) 16 10
  let s := mwrWords s (fld cfg 14 18 * 16 + w * 16) (ligWords e)
  let s := wrf s (Reg.INK_LIG_RING l) 16 10 (ringNext (fld cfg 4 10) w)
  let s := wrf s (Reg.INK_LIG_STAT l) 16 16 (e.seq.toNat + 1)
  let s := wrf s (Reg.INK_LIG_STAT l) 0 9 (rdf s (Reg.INK_LIG_STAT l) 0 9 - 1)
  let s := updLig s l List.tail
  let s := addInfl s (-1)
  toWaiting (raiseEvent s (0x80 + l.val)) e.task

/-- Complete entries at the head are released in order while the ring has room (R228, R233). -/
def ligRelease (l : Fin 64) : List LigEntry → State → State
  | [], s => s
  | e :: r, s =>
    if e.complete then
      if ligFull s l then wrb s (Reg.INK_LIG_RING l) 31 true
      else ligRelease l r (ligReleaseOne s l e)
    else s

/-- Release of ligature `l` as far as it can go; a failed operation holds it (R228, R503). -/
def ligRun (s : State) (l : Fin 64) : State := if s.ink.held.contains l then s else ligRelease l s.ink.lig[l] s

/-- The ligature that holds an entry of task `t` not yet complete. -/
def ligOf (s : State) (t : Fin 512) : Option (Fin 64) :=
  (fins 64).find? (fun l => s.ink.lig[l].any (fun e => e.task == t && !e.complete))

/-- The task is released through a ligature (R226). -/
def taskLig (s : State) (t : Fin 512) : Option (Fin 64) :=
  if rdb s (Reg.INK_TCFG t) 21 then some (Fin.ofNat 64 (rdf s (Reg.INK_TCFG t) 22 6)) else none

/-- A task submitted to its ligature with the next sequence number (R227). A task that a stopped core gave back keeps
the entry it has (log entry 20). -/
def submit (s : State) (t : Fin 512) : State :=
  match taskLig s t, ligOf s t with
  | some l, none =>
    let st := rd s (Reg.INK_LIG_STAT l)
    let seq := BitVec.ofNat 16 (fld st 16 16 + s.ink.lig[l].length)
    let s := updLig s l (· ++ [{ task := t, seq := seq, complete := false, failed := false, res := (0, 0, 0) }])
    let s := wrf s (Reg.INK_LIG_STAT l) 0 9 (rdf s (Reg.INK_LIG_STAT l) 0 9 + 1)
    addInfl (wrf s (Reg.INK_TSTAT t) 0 16 seq.toNat) 1
  | _, _ => s

/-! ## Dispatch to the cores (R220 to R225) -/

/-- A task in a ligature may be placed only below the limit of R235. -/
def mayPlace (s : State) (t : Fin 512) : Bool :=
  match taskLig s t, ligOf s t with
  | some _, none => decide (appInFlight s < 256 - rdf s Reg.INK_INFL 0 9)
  | _, _ => true

/-- The ready task core `c` is given next: the first of the highest list that runs on it and may be placed (R220). -/
def pickFor (s : State) (c : Fin 16) : Option (Fin 512) :=
  (fins 4).findSome? (fun p => s.ink.ready[p].find? (fun t => rdb s (Reg.INK_TCFG t) c && mayPlace s t))

/-- A core's queue has room (R220). -/
def hasRoom (s : State) (c : Fin 16) : Bool := s.ink.core[c].queue.length < rdf s (Reg.INK_QSTAT c) 0 4

/-- One placement: the lowest core with room and an eligible task takes it (R220, R227). -/
def placeOne (s : State) : State :=
  if pdOn s 10 && rdb s Reg.INK_CTL 0 then
    match (fins 16).findSome? (fun c => if hasRoom s c then (pickFor s c).map (fun t => (c, t)) else none) with
    | some (c, t) =>
      let s := submit s t
      let s := leaveReady s t
      let s := setTaskState s t 2
      let s := wrf s (Reg.INK_TSTAT t) 24 4 c
      showQueue (updCore s c (fun k => { k with queue := k.queue ++ [t] })) c
    | none => s
  else s

/-- What core `c` reads at INK_TAKE_c, with the effects of the read (R221, R224, R239). -/
def coreTake (s : State) (c : Fin 16) : Word × State :=
  let k := s.ink.core[c]
  match k.running, k.queue with
  | some _, _ => (0, wrb s (Reg.INK_QSTAT c) 31 true)
  | none, [] => (0, s)
  | none, t :: q =>
    let waited := (s.tick - s.ink.task[t].readyTick) / 1000
    let m := rd s (Reg.INK_TMASK t)
    let f := rd s (Reg.INK_TFLAG t)
    let s := updCore s c (fun k => { k with
      queue := q, running := some t, takes := k.takes + 1, maxWait := max k.maxWait waited, busyFrom := s.tick })
    let s := updTask s t (fun k => { k with startTick := s.tick, takes := k.takes + 1 })
    let s := setTaskState s t 3
    let s := wr (wr s (Reg.INK_TAKEF c) (f &&& m)) (Reg.INK_TFLAG t) (f &&& ~~~m)
    let s := wrf s (Reg.INK_WAIT c) 0 16 (satN 16 waited)
    (BitVec.ofNat 32 (2 ^ 31 + t.val), showQueue s c)

/-- The running task of core `c` ends, with or without failure (R223, R228, R231). -/
def endTask (s : State) (c : Fin 16) (failed : Bool) : State :=
  match s.ink.core[c].running with
  | none => s
  | some t =>
    let s := updCore s c (fun k => { k with running := none, busyNs := k.busyNs + (s.tick - k.busyFrom) })
    let s := updTask s t (fun u => { u with runNs := u.runNs + BitVec.ofNat 64 (s.tick - u.startTick) })
    let res := (rd s (Reg.INK_RES0 c), rd s (Reg.INK_RES1 c), rd s (Reg.INK_RES2 c))
    match ligOf s t with
    | some l =>
      let s := setTaskState s t 4
      ligRun (updLig s l (·.map (fun e =>
        if e.task == t && !e.complete then { e with complete := true, failed := failed, res := res } else e))) l
    | none => toWaiting s t

/-- A write to INK_DONE_c: both bits at 1 act as FAIL; with no task running ERR is set (R223, R224). -/
def coreDone (s : State) (c : Fin 16) (v : Word) : State :=
  if !bit v 0 && !bit v 1 then s
  else if s.ink.core[c].running.isNone then wrb s (Reg.INK_QSTAT c) 31 true
  else endTask (newInstant s) c (bit v 1)

/-- A task put back into its ready list, ahead of every task that became ready after it (R225). -/
def backToReady (s : State) (t : Fin 512) : State := enterReady (setTaskState s t 1) t

/-- Core `c` stops: its queue returns to the ready lists, and its running task ends as if FAIL were written (R225). -/
def coreStop (s : State) (c : Fin 16) : State :=
  let q := s.ink.core[c].queue
  let s := showQueue (updCore s c (fun k => { k with queue := [] })) c
  endTask (forAll q s backToReady) c true

/-- A write of SC_CTL.RUN: a change from 0 to 1 starts the core at its reset vector; 0 holds it in reset (R246). -/
def scSetRun (s : State) (c : Fin 16) (run : Bool) : State :=
  let was := rdb s (Reg.SC_CTL c) 0
  let s := wrb s (Reg.SC_CTL c) 0 run
  if run && !was then
    wrf (updCore s c (fun k => { k with hart := Hart.reset })) (Reg.SC_STAT c) 28 4 1
  else if !run && was then coreStop (wrf s (Reg.SC_STAT c) 28 4 0) c
  else s

/-- Page boundary: the statistics of the ended page are shown and the next page's begin (R245). BUSY of a core busy for the
whole page reads 1023, the largest that its field holds: DESIGN CHOICE, as R245 states no saturation for it (log entry
126). -/
def inkPage (s : State) (pageNs : Nat) : State :=
  forAll (fins 16) s (fun s c =>
    let k := s.ink.core[c]
    let busy := k.busyNs + (if k.running.isSome then s.tick - k.busyFrom else 0)
    let s := wrf s (Reg.INK_WAIT c) 16 16 (satN 16 k.maxWait)
    let s := wrf s (Reg.INK_LOAD c) 16 10 (satN 10 (busy * 1024 / pageNs))
    let s := wrf s (Reg.INK_LOAD c) 0 16 (satN 16 k.takes)
    updCore s c (fun k => { k with busyNs := 0, takes := 0, maxWait := 0, busyFrom := s.tick }))

/-- A write of a task's configuration or mask that the access rules let through: a ready task stands in the list of its
present priority (R214, R216, R219, log entry 21). -/
def taskConfigured (s : State) (t : Fin 512) : State :=
  let s := newInstant s
  if taskEn s t then
    if taskState s t = 5 then toWaiting s t
    else if taskState s t = 1 then enterReady (leaveReady s t) t
    else testReady s t
  else if taskState s t = 0 then setTaskState s t 5
  else if taskState s t = 1 then setTaskState (leaveReady s t) t 5
  else s

/-! ## Meanings -/

/-- QUEUE_PLACEMENT (R220). -/
def execQueuePlacement (s : State) : Host.Outcome State Fault Refusal := .next (placeOne s)

end Sys2Proof.Machine
end

