-- ==== Sys2Proof/Machine/Margin.lean ====
section
/-! DEFINITION. Margin: sources, classes, reactions and the fault history (R498 to R524). -/

namespace Sys2Proof.Machine

/-- How a source is treated (R501). -/
inductive SrcKind where
  | reserved | event | condition | transient
deriving DecidableEq, Repr

/-- Kinds of the sources 0x110 to 0x134, in order (R501). -/
def srcKinds110 : List SrcKind :=
  [.event, .event, .condition, .condition, .event, .event, .transient, .transient, .transient, .event, .transient,
    .event, .transient, .event, .transient, .event, .event, .event, .event, .event, .event, .event, .event, .event,
    .condition, .reserved, .reserved, .reserved, .reserved, .reserved, .reserved, .reserved, .condition, .event,
    .condition, .condition, .condition]

/-- The kind of source `n` (R501). -/
def srcKind (n : Nat) : SrcKind :=
  if n < 0x20 then .event
  else if n < 0x40 then .condition
  else if n < 0x80 then .event
  else if n < 0x90 then .transient
  else if n < 0xA0 then .event
  else if n < 0xB0 then .transient
  else if n < 0x110 then .condition
  else if n = 0x1FF then .event
  else srcKinds110.getD (n - 0x110) .reserved

/-- Sources that report a lasting fault (R501, R520). -/
def srcLasting (n : Nat) : Bool :=
  decide (0x90 ≤ n ∧ n < 0xA0) || decide (0xB0 ≤ n ∧ n < 0xC0) || n == 0x119 || n == 0x11B || n == 0x11D || n == 0x11F

/-- The power domain of a source's block, where its isolation holds the pair at idle (R500). -/
def srcDomain (n : Nat) : Option Nat :=
  if 0x80 ≤ n ∧ n < 0xA0 then some (2 + n % 16 / 4)
  else if 0xA0 ≤ n ∧ n < 0xC0 then some (6 + n % 16 / 4)
  else if 0xC0 ≤ n ∧ n < 0x100 then some 10
  else if 0x100 ≤ n ∧ n < 0x110 then some 14
  else if n = 0x114 ∨ n = 0x116 ∨ n = 0x110 then some 11
  else if n = 0x115 ∨ n = 0x117 ∨ n = 0x111 then some 12
  else if 0x118 ≤ n ∧ n < 0x11E then some 10
  else if n = 0x11F then some 15
  else none

/-- Sources of node loss (R501). -/
def nodeLosses : List Nat := (List.range 32).map (0x20 + ·)

/-- Condition sources of the blocks that a restart resets (R501, R569). -/
def restartConds : List Nat := nodeLosses ++ (List.range 0x60).map (0xB0 + ·) ++ [0x112, 0x113]

/-- Whether the sources of a source's block can report (R500). -/
def srcOn (s : State) (n : Nat) : Bool :=
  match srcDomain n with
  | some d => pdOn s d
  | none => true

/-- The set of one group. -/
def groupBit (g : Nat) : Word := BitVec.ofNat 32 (2 ^ (g % 32))

/-- Groups of the axes that `p` picks. -/
def groupsWhere (s : State) (p : Fin 256 → Bool) : Word :=
  ((fins 256).filter (fun n => s.axcfg[n].used && p n)).foldl (fun w n => w ||| groupBit s.axcfg[n].group) 0

/-- A source's own groups (R501). -/
def ownGroups (s : State) (n : Nat) : Word :=
  if n < 0x80 then groupBit n
  else if 0x90 ≤ n ∧ n < 0xA0 then
    groupsWhere s (fun a => !s.axcfg[a].virt && s.axcfg[a].engine.val == n - 0x90)
  else if 0xC0 ≤ n ∧ n < 0x100 then groupsWhere s (usesCam s (Fin.ofNat 64 (n - 0xC0)))
  else if n = 0x119 ∨ n = 0x11B then 0xFFFFFFFF#32
  else 0

def updMgn (s : State) (f : Mgn → Mgn) : State := { s with mgn := f s.mgn }

/-- Class of a source; 0xFF is none (R505). -/
def classOf (s : State) (n : Nat) : Nat := smGet (fun _ => 0xFF) s.mgn.srcMap n

def clsState (s : State) (c : Nat) : Nat := rdf s (Reg.MGN_CLS c) 29 3
def clsLevel (s : State) (c : Nat) : Nat := rdf s (Reg.MGN_CLS c) 26 3

/-- STATE of a class written, with its bit in MGN_PEND (R523). -/
def setClsState (s : State) (c v : Nat) : State :=
  wrb (wrf s (Reg.MGN_CLS c) 29 3 v) (Reg.MGN_PEND (c / 32)) (c % 32) (decide (v ≠ 0))

/-- A source is active, as MGN_ACT shows it. -/
def srcActive (s : State) (n : Nat) : Bool := rdb s (Reg.MGN_ACT (n / 32)) (n % 32)

/-! ## Fault history (R520, R521) -/

/-- An entry written to the ledger. -/
def histStore (s : State) (e : HistEntry) : State :=
  let f := (e.getD 6 0).toNat
  let addr := 0x304000 + f % 512 * 32
  let s := { s with wmem := s.wmem.writeWords addr e }
  updMgn s (fun m => { m with writing := some (addr, s.tick) })

/-- A history entry made; while the warning stands it waits, or is dropped where 16 wait (R520, R521). -/
def history (s : State) (kind cls src : Nat) (detail : Word) (level : Nat) : State :=
  let t := (now s).words
  let ws := [BitVec.ofNat 32 (kind * 2 ^ 24 + cls * 2 ^ 16 + src % 512), detail, t.1, t.2.1, t.2.2,
    BitVec.ofNat 32 level, BitVec.ofNat 32 s.mgn.histSeq]
  let e := ws ++ [crc32 (ws.flatMap (fun w => leBytes 4 w.toNat))]
  if warning s then
    if 16 ≤ s.mgn.histQ.length then wrb s Reg.MGN_STAT 29 true
    else
      let s := updMgn s (fun m => { m with histQ := m.histQ ++ [e], histSeq := m.histSeq + 1 })
      wrf s Reg.MGN_STAT 16 8 s.mgn.histQ.length
  else histStore (updMgn s (fun m => { m with histSeq := m.histSeq + 1 })) e

/-- The waiting entries written once the warning ends (R521). -/
def historyDrain (s : State) : State :=
  let s := forAll s.mgn.histQ s histStore
  wrf (updMgn s (fun m => { m with histQ := [] })) Reg.MGN_STAT 16 8 0

/-! ## Group levels and the Steward's path (R511 to R514) -/

/-- The classes that hold a reaction. -/
def reacting (s : State) : List (Fin 64) := (fins 64).filter (fun c => clsState s c == 3 || clsState s c == 4)

/-- Groups that some reacting class holds at `lvl` or above; level 3 holds every group (R505, R514). -/
def heldAt (s : State) (lvl : Nat) : Word :=
  (reacting s).foldl (fun (w : Word) (c : Fin 64) =>
    if lvl ≤ clsLevel s c then w ||| (if 3 ≤ clsLevel s c then 0xFFFFFFFF#32 else s.mgn.scope[c]) else w) 0

/-- The Steward applies group stops: PD10 is off, or Inkwell or Ductus has failed lastingly (R511). -/
def stwPathUsed (s : State) : Bool := !pdOn s 10 || !s.mgn.stwPath.isEmpty

/-- Stops of groups that the Steward writes into the transmit control of each channel not withdrawn (R24). -/
def stwStopGroups (s : State) (w : Word) : State :=
  let on := fun c => decide (rdf s (Reg.PLN_CH_STAT c) 29 3 ≠ 2)
  updMgn s (fun m => { m with stwStop :=
    ⟨if on 0 then m.stwStop.a ||| w else m.stwStop.a, if on 1 then m.stwStop.b ||| w else m.stwStop.b⟩ })

/-- Stops of reactions that the Steward's path holds (R511). -/
def stwHeld (s : State) : Word := if stwPathUsed s then heldAt s 2 else 0

/-- Stops of reactions as the Steward holds them in the transmit control of the channels not withdrawn, with those it no
longer holds withdrawn: at a freeze mark and at a restart (R24, R511, R513). -/
def stwApply (s : State) : State :=
  let q := stwHeld s
  let on := fun c => decide (rdf s (Reg.PLN_CH_STAT c) 29 3 ≠ 2)
  updMgn s (fun m => { m with stwReact := ⟨if on 0 then q else 0, if on 1 then q else 0⟩ })

/-- Stops that the Steward's path has come to hold, written at once; none is withdrawn before a freeze mark (R24, R511,
R513). -/
def stwRaise (s : State) : State :=
  let q := stwHeld s
  let on := fun c => decide (rdf s (Reg.PLN_CH_STAT c) 29 3 ≠ 2)
  updMgn s (fun m => { m with stwReact :=
    ⟨if on 0 then m.stwReact.a ||| q else m.stwReact.a, if on 1 then m.stwReact.b ||| q else m.stwReact.b⟩ })

/-- MGN_GRP_DEG, MGN_GRP_QS and the Seal request line follow the classes (R512, R514). -/
def showLevels (s : State) : State :=
  let q := heldAt s 2
  let d := heldAt s 1 &&& ~~~q
  let s := wr (wr s Reg.MGN_GRP_DEG d) Reg.MGN_GRP_QS q
  let s := wrb s Reg.MGN_STAT 31 ((reacting s).any (fun c => clsLevel s c == 4))
  stwRaise s

/-! ## Assertions (R501 to R510, R518) -/

/-- Sticky bit, count and time of an assertion (R518, R524). -/
def mgnRecord (s : State) (n : Nat) : State :=
  let s := wrb s (Reg.MGN_SRC (n / 32)) (n % 32) true
  let t := (now s).words
  updMgn s (fun m => { m with
    counts := smSet (fun _ => 0) m.counts n (smGet (fun _ => 0) m.counts n + 1)
    times := smSet (fun _ => (0, 0, 0)) m.times n t })

/-- MGN_FIRST takes the first event or condition source since its last re-arm (R518). -/
def mgnFirst (s : State) (n : Nat) : State :=
  if rdb s Reg.MGN_FIRST 31 then s
  else
    let t := (now s).words
    updMgn (wr s Reg.MGN_FIRST (BitVec.ofNat 32 (2 ^ 31 + n))) (fun m => { m with firstTime := t })

/-- A class enters grace (R506, R551). -/
def enterGrace (s : State) (c : Fin 64) : State :=
  let s := incf (setClsState s c 1) (Reg.MGN_CLS c) 0 16
  let s := raiseEvent s 0x06
  let w := rd s (Reg.MGN_CLSCFG0 c)
  let s := when (bit w 24) s (fun s => scIrq s (Fin.ofNat 16 (fld w 20 4)) 3)
  let s := folEvent s 3 (fun _ => true)
  hstIrq s 8

/-- A source raises its class, where that is enabled (R506, R510). -/
def raiseClass (s : State) (n : Nat) : State :=
  let k := classOf s n
  if h : k < 64 then
    let c : Fin 64 := ⟨k, h⟩
    if rdb s (Reg.MGN_CLSCFG0 c) 31 then
      let groups := ownGroups s n ||| rd s (Reg.MGN_CLSCFG1 c)
      let s := wrf s (Reg.MGN_CLS c) 16 9 n
      let s := updMgn s (fun m => { m with scope := m.scope.upd c (· ||| groups) })
      if clsState s c = 0 ∨ clsState s c = 2 then enterGrace s c else showLevels s
    else s
  else s

/-- A change of the sources as Folio's source-5 channels see it (R426). -/
def mgnSampled (s : State) : State := folSample s 5 (now s)

/-- An event or condition source asserts. -/
def mgnAssert (s : State) (n : Nat) (detail : Word) : State :=
  let s := mgnFirst (mgnRecord s n) n
  let s := when (srcLasting n) s (fun s => history s 1 (classOf s n) n detail 0)
  let s := when (n == 0x119 || n == 0x11B) s (fun s =>
    stwRaise (updMgn s (fun m => { m with stwPath := n :: m.stwPath })))
  raiseClass s n

/-- A source's rail rises for one report and returns, as Folio sees it; that of a condition that stands stays (R426,
R501). -/
def railPulse (s : State) (n : Nat) (f : State → State) : State :=
  if srcActive s n then f s
  else mgnSampled (wrb (f (mgnSampled (wrb s (Reg.MGN_ACT (n / 32)) (n % 32) true))) (Reg.MGN_ACT (n / 32)) (n % 32) false)

/-- An event source asserts once (R501). -/
def assertEvent (s : State) (n : Nat) (detail : Word) : State := railPulse s n (fun s => mgnAssert s n detail)

/-- A condition source becomes active, and asserts where it was not (R501). -/
def assertCond (s : State) (n : Nat) (detail : Word) : State :=
  if srcActive s n then s
  else mgnAssert (mgnSampled (wrb s (Reg.MGN_ACT (n / 32)) (n % 32) true)) n detail

/-- A report as the collector sees it on the pair (R501, R504). -/
def pairReport (s : State) (n : Nat) (detail : Word) : State :=
  match srcKind n with
  | .reserved => s
  | .transient => railPulse s n (fun s => mgnRecord s n)
  | .event => assertEvent s n detail
  | .condition => assertCond s n detail

/-- Idle as the collector sees it on a condition's pair. -/
def pairIdle (s : State) (n : Nat) : State :=
  when (srcActive s n) s (fun s => mgnSampled (wrb s (Reg.MGN_ACT (n / 32)) (n % 32) false))

/-- The MODE that injection forces on a pair; 0 is none (R522). -/
def forcedMode (s : State) (n : Nat) : Nat := smGet (fun _ => 0) s.mgn.forced n

/-- Whether the condition of a source whose pair is forced stands is kept for its release (R522). -/
def setUnder (s : State) (n : Nat) (b : Bool) : State :=
  updMgn s (fun m => { m with under := (m.under.filter (· ≠ n)) ++ (if b then [n] else []) })

/-- A source reports a fault: the collector sees it, unless the pair is forced (R500, R501, R504, R522). -/
def assertSource (s : State) (n : Nat) (detail : Word) : State :=
  if !srcOn s n then s
  else if forcedMode s n = 0 then pairReport s n detail
  else when (srcKind n == .condition) s (fun s => setUnder s n true)

/-- A condition source is no longer active. -/
def endCond (s : State) (n : Nat) : State := if forcedMode s n = 0 then pairIdle s n else setUnder s n false

/-- A condition source set to a level. -/
def setCond (s : State) (n : Nat) (on : Bool) (detail : Word) : State :=
  if on then assertSource s n detail else endCond s n

/-- A wiring fault that the collector finds on a pair: the pair's own source, source 0x1FF, MGN_WIRE and a history entry
(R499, R520). -/
def wireFound (s : State) (p : Nat) : State :=
  let d := BitVec.ofNat 32 p
  let s := match srcKind p with
    | .reserved => s
    | .transient => railPulse s p (fun s => mgnRecord s p)
    | _ => if p = 0x1FF then s else railPulse s p (fun s => mgnAssert s p d)
  let s := assertEvent s 0x1FF d
  let s := when (!rdb s Reg.MGN_WIRE 31) s (fun s => wr s Reg.MGN_WIRE (BitVec.ofNat 32 (2 ^ 31 + p)))
  history s 3 0xFF p d 0

/-- A wiring fault of a pair, while its domain is on and no injection forces it (R499, R500, R522). -/
def wiringFault (s : State) (p : Nat) : State := when (srcOn s p && forcedMode s p == 0) s (fun s => wireFound s p)

/-! ## Reactions (R507 to R513) -/

/-- A class takes a level: the reaction is decided (R508, R511, R512, R515, R520, R551). -/
def takeLevel (s : State) (c : Fin 64) (st lvl : Nat) : State :=
  let s := wrf (setClsState s c st) (Reg.MGN_CLS c) 26 3 lvl
  let s := showLevels s
  let s := when (decide (1 ≤ lvl)) s (fun s => history s 2 c (rdf s (Reg.MGN_CLS c) 16 9) 0 lvl)
  hstIrq s 9

/-- The grace time of a class ends without an acknowledgement (R508). -/
def graceEnd (s : State) (c : Fin 64) : State :=
  if clsState s c = 1 then takeLevel s c 3 (rdf s (Reg.MGN_CLSCFG0 c) 28 3) else s

/-- A further grace interval without an acknowledgement raises the level, up to CEIL (R508). -/
def escalate (s : State) (c : Fin 64) : State :=
  if clsState s c = 3 ∧ clsLevel s c < rdf s (Reg.MGN_CLSCFG0 c) 25 3 then takeLevel s c 3 (clsLevel s c + 1) else s

/-- An acknowledgement (R507). -/
def ackClass (s : State) (c : Fin 64) : State :=
  if clsState s c = 1 then setClsState s c 2
  else if clsState s c = 3 then setClsState s c 4
  else s

/-- An active condition source is mapped to the class (R513). -/
def clearBarred (s : State) (c : Fin 64) : Bool :=
  s.mgn.srcMap.any (fun e => e.2 == c.val && srcKind e.1 == .condition && srcActive s e.1)

/-- A clear (R511, R513, R520). -/
def clearClass (s : State) (c : Fin 64) : State :=
  if clsState s c = 0 then s
  else if clearBarred s c then wrb s Reg.MGN_STAT 30 true
  else
    let src := rdf s (Reg.MGN_CLS c) 16 9
    let s := wrf (setClsState s c 0) (Reg.MGN_CLS c) 26 3 0
    let s := updMgn s (fun m => { m with
      scope := m.scope.put c 0
      stwPath := m.stwPath.filter (fun n => !(smGet (fun _ => 0xFF) m.srcMap n == c.val
        && bit (rd s (Reg.MGN_CLSCFG0 c)) 31)) })
    history (showLevels s) 4 c src 0 0

/-- The classes whose bits a write to MGN_ACK or MGN_CLR carries. -/
def classBits (hi : Bool) (v : Word) : List (Fin 64) :=
  (bitsOf v).map (fun i => Fin.ofNat 64 (i + if hi then 32 else 0))

/-- A write to MGN_ACK_x (R507). -/
def mgnAckWrite (s : State) (hi : Bool) (v : Word) : State := forAll (classBits hi v) s ackClass

/-- A write to MGN_CLR_x (R513). -/
def mgnClrWrite (s : State) (hi : Bool) (v : Word) : State := forAll (classBits hi v) s clearClass

/-- A pair is forced into the state of a MODE, and acts as a real report would; a MODE it is in already changes nothing,
nor does one wiring fault after the other (R499, R522). -/
def forcePair (s : State) (n mode : Nat) : State :=
  let was := forcedMode s n
  let s := if was = 0 then setUnder s n (srcActive s n) else s
  let s := updMgn s (fun m => { m with forced := smSet (fun _ => 0) m.forced n mode })
  if mode = was ∨ (2 ≤ mode ∧ 2 ≤ was) then s
  else if mode = 1 then pairReport s n 0
  else wireFound s n

/-- A forced pair is released: the collector sees what its source reports (R522). -/
def releasePair (s : State) (n : Nat) : State :=
  let on := s.mgn.under.contains n
  let s := setUnder (updMgn s (fun m => { m with forced := smSet (fun _ => 0) m.forced n 0 })) n false
  if on then pairReport s n 0 else pairIdle s n

/-- Injection: GO forces the pair SRC into the state MODE selects, or releases it (R522). -/
def mgnInject (s : State) : State :=
  let w := rd s Reg.MGN_INJ
  if !bit w 31 then s
  else
    let s := newInstant s
    let n := fld w 0 9
    let mode := fld w 16 2
    if mode ≠ 0 then forcePair s n mode
    else when (decide (forcedMode s n ≠ 0)) s (fun s => releasePair s n)

/-- The freeze mark takes the reactions decided before it into effect, and withdraws those cleared (R513, R515). -/
def reactionsTake (s : State) : State :=
  let d := heldAt s 1
  let q := heldAt s 2
  stwApply (updMgn s (fun m => { m with effDeg := d, effQs := q }))

/-! ## Meanings -/

/-- A lasting fault of Ductus names the slot whose evaluation failed in its detail (R503; log entry 29). -/
def slotFailed (s : State) (src : Nat) (detail : Word) : State :=
  when (src == 0x11B) s (fun s => { s with dct := { s.dct with
    slot := s.dct.slot.upd (Fin.ofNat 256 (fld detail 0 8)) (fun k => { k with failed := true }) } })

/-- A lasting fault of Inkwell names in its detail the ligature whose operation failed (R503; log entry 29). -/
def ligFailed (s : State) (src : Nat) (detail : Word) : State :=
  when (src == 0x119 && srcOn s src) s (fun s =>
    { s with ink := { s.ink with held := Fin.ofNat 64 (fld detail 0 6) :: s.ink.held } })

/-- GRACE_END (R508). -/
def execGraceEnd (c : Fin 64) (s : State) : Host.Outcome State Fault Refusal := .next (graceEnd s c)

/-- ESCALATION (R508). -/
def execEscalation (c : Fin 64) (s : State) : Host.Outcome State Fault Refusal := .next (escalate s c)

/-- WIRING_FAULT (R499). -/
def execWiringFault (pair : Fin 512) (s : State) : Host.Outcome State Fault Refusal := .next (wiringFault (newInstant s) pair)

/-- STEWARD_GROUP_STOP: the stop request of the group is written into the transmit control of each channel that is not
withdrawn (R24). -/
def execStewardGroupStop (g : Fin 32) (s : State) : Host.Outcome State Fault Refusal :=
  .next (stwStopGroups s (groupBit g))

end Sys2Proof.Machine
end

