-- ==== Sys2Proof/Machine/Flags.lean ====
section
/-! DEFINITION. The flags of a Quill engine and the saturating arithmetic they report on (R89 to R91, R97). -/

namespace Sys2Proof.Machine

/-! SR holds S, O, W, N, Z in bits 4 to 0 (R80). -/

def flagS : Nat := 4
def flagO : Nat := 3
def flagW : Nat := 2
def flagN : Nat := 1
def flagZ : Nat := 0

/-- A 5-bit status with one flag replaced. -/
def setFlag (sr : BitVec 5) (i : Nat) (b : Bool) : BitVec 5 :=
  if b then sr ||| BitVec.ofNat 5 (2 ^ i) else sr &&& ~~~(BitVec.ofNat 5 (2 ^ i))

/-- W of a value: bits [39:31] are not all equal, so the value lies outside the Q1.31 range (R89). -/
def wide (a : Acc) : Bool := !decide (-(2 ^ 31) ≤ a.toInt ∧ a.toInt < 2 ^ 31)

/-- sat40: a value saturated to 40 bits, and whether it lay outside (R90). -/
def sat40 (x : Int) : Acc × Bool :=
  if x > 2 ^ 39 - 1 then (0x7FFFFFFFFF#40, true)
  else if x < -(2 ^ 39) then (0x8000000000#40, true)
  else (BitVec.ofInt 40 x, false)

/-- Z and N of a result. -/
def flagsZN (sr : BitVec 5) (r : Acc) : BitVec 5 := setFlag (setFlag sr flagZ (r == 0)) flagN r.msb

/-- ZNWO of a result; S is set with O and is otherwise kept (R89, R98). -/
def flagsZNWO (sr : BitVec 5) (r : Acc) (ovf : Bool) : BitVec 5 :=
  let sr := setFlag (setFlag (flagsZN sr r) flagW (wide r)) flagO ovf
  if ovf then setFlag sr flagS true else sr

/-- S set where a narrowing or a clamp limited a value (R89). -/
def flagSticky (sr : BitVec 5) (lim : Bool) : BitVec 5 := if lim then setFlag sr flagS true else sr

/-- n16: an accumulator narrowed to 16 bits, and whether it was limited (R91). "W is set" is read of the accumulator's
own bits [39:31], not of SR.W, which may be that of another result: DEDUCED (log entry 113). -/
def narrow16 (a : Acc) : Half × Bool :=
  if wide a then (if a.msb then 0x8000#16 else 0x7FFF#16, true) else (a.extractLsb' 16 16, false)

/-- n32: an accumulator narrowed to 32 bits, and whether it was limited (R91). -/
def narrow32 (a : Acc) : Word × Bool :=
  if wide a then (if a.msb then 0x80000000#32 else 0x7FFFFFFF#32, true) else (a.extractLsb' 0 32, false)

/-- q31 of a D value: its place in an accumulator (R98). -/
def q31 (d : Half) : Int := d.toInt * 2 ^ 16

/-- The condition of a flow instruction (R97). -/
def condHolds (sr : BitVec 5) (c : Fin 13) : Bool :=
  let z := sr.getLsbD flagZ
  let n := sr.getLsbD flagN
  let w := sr.getLsbD flagW
  let o := sr.getLsbD flagO
  let st := sr.getLsbD flagS
  match c.val with
  | 0 => true
  | 1 => z
  | 2 => !z
  | 3 => n
  | 4 => !n
  | 5 => !n && !z
  | 6 => n || z
  | 7 => o
  | 8 => !o
  | 9 => w
  | 10 => !w
  | 11 => st
  | _ => !st

end Sys2Proof.Machine
end

