-- ==== Sys2Proof/Machine/Operands.lean ====
section
/-! DEFINITION. The operand forms of a Quill engine: register codes, pointers with their post-modify modes and circular
buffers, and memory words (R75 to R80, R84 to R88, R599). -/

namespace Sys2Proof.Machine

/-- Base of engine `e` in the main map (R75). -/
def engBase (e : Fin 16) : Nat := 0x01000000 + 0x100000 * e.val

/-- Map address of word `w` of X (`y` false) or Y memory (R75). -/
def qAddr (e : Fin 16) (y : Bool) (w : BitVec 14) : Nat := engBase e + (if y then 0x10000 else 0) + 2 * w.toNat

/-- Map address of an instruction (R75). -/
def qProgAddr (e : Fin 16) (pc : BitVec 12) : Nat := engBase e + 0x20000 + 4 * pc.toNat

/-- The engine's registers. -/
def eng (s : State) (e : Fin 16) : QEng := s.eng[e]

/-- The engine's registers changed. -/
def updEng (s : State) (e : Fin 16) (f : QEng → QEng) : State := { s with eng := s.eng.upd e f }

/-- A data word of the engine (R75). -/
def qRead (s : State) (e : Fin 16) (y : Bool) (w : BitVec 14) : Half := mrd16 s (qAddr e y w)

/-- A program's store of a data word; a store to the stroke descriptor is discarded (R84). -/
def qWrite (s : State) (e : Fin 16) (y : Bool) (w : BitVec 14) (v : Half) : State :=
  if !y && w.toNat < 16 then wrb s (Reg.QE_STICKY e) 3 true else mwr16 s (qAddr e y w) v

/-- The flags changed. -/
def setSr (s : State) (e : Fin 16) (f : BitVec 5 → BitVec 5) : State := updEng s e (fun g => { g with sr := f g.sr })

/-- An accumulator set. -/
def setAcc (s : State) (e : Fin 16) (n : Fin 4) (v : Acc) : State := updEng s e (fun g => { g with a := g.a.put n v })

/-- A D register set. -/
def setD (s : State) (e : Fin 16) (n : Fin 8) (v : Half) : State := updEng s e (fun g => { g with d := g.d.put n v })

/-- A pointer of X or Y memory. -/
def ptr (g : QEng) (y : Bool) (p : Fin 4) : BitVec 14 := if y then g.y[p] else g.x[p]

/-- A pointer set. -/
def setPtr (s : State) (e : Fin 16) (y : Bool) (p : Fin 4) (v : BitVec 14) : State :=
  updEng s e (fun g => if y then { g with y := g.y.put p v } else { g with x := g.x.put p v })

/-! ## Register codes (R79, R80) -/

/-- A general register as an instruction reads it, and whether a narrowing limited it (R79). -/
def readReg (g : QEng) (r : Fin 32) : Half × Bool :=
  let n : Fin 4 := Fin.ofNat 4 r.val
  if r.val < 8 then (g.d[Fin.ofNat 8 r.val], false)
  else if r.val < 12 then narrow16 g.a[n]
  else if r.val < 16 then (g.a[n].extractLsb' 0 16, false)
  else if r.val < 20 then (g.x[n].setWidth 16, false)
  else if r.val < 24 then (g.y[n].setWidth 16, false)
  else if r.val < 28 then (g.m[n], false)
  else (g.k[n], false)

/-- A general register as an instruction writes it (R79). -/
def writeReg (g : QEng) (r : Fin 32) (v : Half) : QEng :=
  let n : Fin 4 := Fin.ofNat 4 r.val
  if r.val < 8 then { g with d := g.d.put (Fin.ofNat 8 r.val) v }
  else if r.val < 12 then { g with a := g.a.put n ((v.signExtend 24) ++ 0#16) }
  else if r.val < 16 then { g with a := g.a.upd n (fun a => (a.extractLsb' 16 24) ++ v) }
  else if r.val < 20 then { g with x := g.x.put n (v.setWidth 14) }
  else if r.val < 24 then { g with y := g.y.put n (v.setWidth 14) }
  else if r.val < 28 then { g with m := g.m.put n v }
  else { g with k := g.k.put n v }

/-- Iterations left at repeat level `i`, 0 being the outermost; 0 when the level is not active (R78, R80). -/
def loopCount (g : QEng) (i : Nat) : Half :=
  match g.reps.reverse[i]? with
  | some l => l.left.setWidth 16
  | none => 0

/-- A special register as MOVS reads it (R80); narrower registers are extended with zeros (log entry 22). -/
def readSpec (g : QEng) (c : Fin 14) : Half :=
  match c.val with
  | 0 => g.sr.setWidth 16
  | 1 => loopCount g 0
  | 2 => loopCount g 1
  | 3 => loopCount g 2
  | 4 => g.gb[0].setWidth 16
  | 5 => g.gb[1].setWidth 16
  | 6 => g.gb[2].setWidth 16
  | 7 => g.gb[3].setWidth 16
  | 8 => (g.a[0].extractLsb' 32 8).setWidth 16
  | 9 => (g.a[1].extractLsb' 32 8).setWidth 16
  | 10 => (g.a[2].extractLsb' 32 8).setWidth 16
  | 11 => (g.a[3].extractLsb' 32 8).setWidth 16
  | 12 => BitVec.ofNat 16 g.axn.val
  | _ => BitVec.ofNat 16 (g.calls.length * 4 + g.reps.length)

/-- A special register as MOVS writes it; a read-only one ignores the write (R80). -/
def writeSpec (g : QEng) (c : Fin 14) (v : Half) : QEng :=
  let n : Fin 4 := Fin.ofNat 4 c.val
  if c.val = 0 then { g with sr := v.setWidth 5 }
  else if 4 ≤ c.val ∧ c.val < 8 then { g with gb := g.gb.put n (v.setWidth 14) }
  else if 8 ≤ c.val ∧ c.val < 12 then { g with a := g.a.upd n (fun a => (v.setWidth 8) ++ (a.extractLsb' 0 32)) }
  else g

/-! ## Addressing (R85 to R88, R599) -/

/-- The smallest b with 2^b ≥ L, for L up to 16 384 (R87). -/
def bufBits (len : Nat) : Nat := ((List.range 15).find? (fun b => decide (len ≤ 2 ^ b))).getD 14

/-- A word address moved by `step` under the modulo length `k` (R85, R87). -/
def stepPtr (p : BitVec 14) (k : Half) (step : Int) : BitVec 14 :=
  let len := k.toNat
  if 1 ≤ len ∧ len ≤ 16384 then
    let b := bufBits len
    let base := p.toNat / 2 ^ b * 2 ^ b
    let off := p.toNat - base
    BitVec.ofNat 14 (base + (((off : Int) + step) % (len : Int)).toNat)
  else BitVec.ofInt 14 ((p.toNat : Int) + step)

/-- Word `i` after the word at the pointer (R599). -/
def wordAfter (p : BitVec 14) (k : Half) (i : Nat) : BitVec 14 := if i = 0 then p else stepPtr p k i

/-- A pointer after its post-modification, with unit step `u` in modes 0b01 and 0b10 (R86, R88). -/
def postMod (g : QEng) (y : Bool) (p mod : Fin 4) (u : Int) : BitVec 14 :=
  let v := ptr g y p
  match mod.val with
  | 0 => v
  | 1 => stepPtr v g.k[p] u
  | 2 => stepPtr v g.k[p] (-u)
  | _ => stepPtr v g.k[p] g.m[p].toInt

/-- The word address a memory operand names, and the address of the word after it (R86, R95, R599). -/
def operandAddr (g : QEng) (y : Bool) : QAddr → BitVec 14 × BitVec 14
  | .ptr p _ => (ptr g y p, wordAfter (ptr g y p) g.k[p] 1)
  | .abs a => (a, a + 1)

/-- The post-modification of a memory operand (R86, R88). -/
def operandMod (s : State) (e : Fin 16) (y : Bool) (u : Int) : QAddr → State
  | .ptr p mod => setPtr s e y p (postMod (eng s e) y p mod u)
  | .abs _ => s

end Sys2Proof.Machine
end

