-- ==== Sys2Proof/Machine/Ductus.lean ====
section
/-! DEFINITION. Ductus: slots, command records, moves, gearing, phase, trim, cams and step/direction following (R164 to
R211). -/

namespace Sys2Proof.Machine

/-! ## Access to a slot -/

def slotOf (s : State) (n : Fin 256) : Slot := s.dct.slot[n]

/-- Ductus changed. -/
def updDct (s : State) (f : Dct → Dct) : State := { s with dct := f s.dct }

/-- A slot changed. -/
def updSlot (s : State) (n : Fin 256) (f : Slot → Slot) : State := updDct s (fun d => { d with slot := d.slot.upd n f })

/-- A field of DCT_ST_n (R210). -/
def setSt (s : State) (n : Fin 256) (lo w v : Nat) : State := wrf s (Reg.DCT_ST n) lo w v

/-- NOREV, MSRC, MIDX, SDEN and SDCH of DCT_CFG_n (R210). -/
def noRev (s : State) (n : Fin 256) : Bool := rdb s (Reg.DCT_CFG n) 30
def mSrc (s : State) (n : Fin 256) : Nat := rdf s (Reg.DCT_CFG n) 28 2
def mIdx (s : State) (n : Fin 256) : Nat := rdf s (Reg.DCT_CFG n) 20 8
def sdEn (s : State) (n : Fin 256) : Bool := rdb s (Reg.DCT_CFG n) 19
def sdCh (s : State) (n : Fin 256) : Nat := rdf s (Reg.DCT_CFG n) 16 3

/-- The slot takes records: its axis is configured, and below the limit (R164, R178). -/
def slotOn (s : State) (n : Fin 256) : Bool := s.axcfg[n].used && decide (n.val < axisLimit s)

/-- STATE of a slot (R210). -/
def slotState (s : State) (n : Fin 256) : Nat :=
  let k := slotOf s n
  if !slotOn s n then 0
  else if k.held.isSome then 9
  else match k.prof with
    | some p => match p.fin with
      | .target | .reverse | .short => 2
      | .hold | .rest => 3
      | .abort | .disengaged => 8
    | none =>
      match k.gear with
      | some g => if g.engaged then 5 else 4
      | none => if k.cam.isSome then 6 else if k.steps then 7 else 1

/-- A slot that runs nothing (R191). -/
def slotIdle (k : Slot) : Bool := k.prof.isNone && k.gear.isNone && k.cam.isNone && !k.steps

/-- A 32.16 position from a signed number of 2^-16 counts, modulo 2^48 (R173). -/
def posOf (x : Int) : Pos48 := BitVec.ofInt 48 x

/-- The short-way difference of two positions in 2^-16 counts (R173, R194). -/
def posDiff (a b : Pos48) : Int := (a - b).toInt

/-- A rational from units of 2^-48. -/
def ofU48 (x : Int) : Rat := mkRat x (2 ^ 48)

/-- Position, velocity and acceleration at the present sample, in 2^-48 counts (R185). -/
def slotPresent (k : Slot) : Int × Int × Int :=
  match k.prof with
  | some p => profState p
  | none => (k.pcmd.toInt * 2 ^ 32, k.vel, k.acc)

/-! ## Profiles -/

/-- A move planned from a state to an absolute target (R182, R186, R187). -/
def movePlanFrom (fr : Nat) (x : Int × Int × Int) (target : Int) (norev : Bool) (l : DctLim) : Prof :=
  let m := planMove fr (ofU48 x.2.1) (ofU48 x.2.2) (ofU48 (target - x.1)) (planLim l)
  { p0 := x.1, v0 := x.2.1, a0 := x.2.2, m := 0, segs := m.segs
    fin := if m.reversal.isNone then .target else if norev then .short else .reverse
    target := target }

/-- A velocity ramp planned from a state; a target of 0 ends at rest (R184). -/
def velPlanFrom (fr : Nat) (x : Int × Int × Int) (vt : Int) (l : DctLim) : Prof :=
  { p0 := x.1, v0 := x.2.1, a0 := x.2.2, m := 0
    segs := planVelocity fr (ofU48 x.2.1) (ofU48 x.2.2) (ofU48 vt) (planLim l)
    fin := if vt = 0 then .rest else .hold
    target := vt }

/-- A ramp to rest under a deceleration and a jerk in their record formats (R191, R201). -/
def stopPlanFrom (fr : Nat) (x : Int × Int × Int) (d j : Nat) (fin : ProfEnd) : Prof :=
  let l := planLim ⟨0, 0, d, j⟩
  let segs := match planStop fr (ofU48 x.2.1) (ofU48 x.2.2) l.d l.j with
    | some st => st.1
    | none => noPlan
  { p0 := x.1, v0 := x.2.1, a0 := x.2.2, m := 0, segs := segs, fin := fin, target := 0 }

/-- A running profile planned anew from its present state under limits `l` (R185). A ramp to rest without a target keeps
its plan. -/
def replanProf (fr : Nat) (p : Prof) (norev : Bool) (l : DctLim) : Prof :=
  match p.fin with
  | .target | .reverse | .short => movePlanFrom fr (profState p) p.target norev l
  | .hold | .rest => velPlanFrom fr (profState p) p.target l
  | .abort | .disengaged => p

/-- A segment with jerk is in progress at the present sample (R188). -/
def midJerk : Option Prof → Bool
  | some p => match p.segs with
    | g :: _ => decide (g.j ≠ 0) && decide (0 < p.m) && decide (p.m < g.n)
    | [] => false
  | none => false

/-- The profile is one whose segments a changed jerk waits for. -/
def takesJerk (p : Prof) : Bool := p.fin != .abort && p.fin != .disengaged

/-- What a change of limits leaves (R188 to R190). -/
structure LimitsTaken where
  lim : DctLim
  deferred : Option Nat
  jnext : Option Nat
  /-- A lowered D_MAX was deferred. -/
  flag : Bool
deriving DecidableEq, Repr

/-- A lowered deceleration whose stopping distance from a state exceeds the distance to the target (R190). -/
def stopsBeyond (x : Int × Int × Int) (target : Int) (d j : Nat) : Bool :=
  let l := planLim ⟨0, 0, d, j⟩
  let v := ofU48 x.2.1
  let a := ofU48 x.2.2
  if v = 0 ∧ a = 0 then false
  else
    let g : Rat := if 0 < v ∨ (v = 0 ∧ 0 < a) then 1 else -1
    match planStop 0 v a l.d l.j with
    | some st => decide (ofU48 (target - x.1) * g < st.2 * g)
    | none => true

/-- Limits of a record taken at a state: 0 keeps the present limit; a changed jerk waits for the end of a segment in
progress; a lowered deceleration is deferred where the move could not end on its target (R175, R188, R190). One that a
move has deferred stays deferred when a VELOCITY record replaces that move, until the slot comes to rest: DESIGN CHOICE, as
R190 does not say whether the replaced move has ended (log entry 26). -/
def takeLimits (l : DctLim) (deferred jnext : Option Nat) (p : Option Prof) (x : Int × Int × Int) (target : Option Int)
    (w3 w4 w5 w6 : Nat) : LimitsTaken :=
  let l1 : DctLim := { l with v := if w3 = 0 then l.v else w3, a := if w4 = 0 then l.a else w4 }
  let wait := midJerk p && decide (w6 ≠ l.j)
  let l2 : DctLim := if w6 = 0 || wait then l1 else { l1 with j := w6 }
  let jn := if w6 = 0 then jnext else if wait then some w6 else none
  if w5 = 0 then ⟨l2, deferred, jn, false⟩
  else
    match target with
    | some t =>
      if w5 < l.d && stopsBeyond x t w5 l2.j then ⟨l2, some w5, jn, true⟩ else ⟨{ l2 with d := w5 }, none, jn, false⟩
    | none => ⟨{ l2 with d := w5 }, none, jn, false⟩

/-- Limits of a record written into a slot. -/
def setLimitsOf (s : State) (n : Fin 256) (t : LimitsTaken) : State :=
  let s := updSlot s n (fun k => { k with lim := t.lim, deferred := t.deferred, jnext := t.jnext })
  when t.flag s (fun s => wrb s (Reg.DCT_ST n) 3 true)

/-! ## The end of a motion -/

/-- A motion ends at rest on `p` (2^-48 counts) with END `code`; a deferred D_MAX becomes the present one (R190). -/
def endMotion (s : State) (n : Fin 256) (p : Int) (code : Nat) : State :=
  let s := updSlot s n (fun k => { k with
    prof := none, pcmd := posOf (shr p 32), vel := 0, acc := 0
    lim := { k.lim with d := k.deferred.getD k.lim.d, j := k.jnext.getD k.lim.j }
    deferred := none, jnext := none })
  setSt s n 14 2 code

/-- The reversal point is reported: the position at which the slot came to rest (R186, R187). -/
def reportReversal (s : State) (n : Fin 256) (p : Pos48) : State :=
  wrb (updSlot s n (fun k => { k with rev := p })) (Reg.DCT_ST n) 4 true

/-- The present sample of a profile is shown, and where the profile is done its end takes place (R184, R186, R187, R191,
R192, R201). The way back from a reversal point is a new segment, and takes a waiting jerk, as the hold of a velocity does
(R188). -/
def settle (s : State) (n : Fin 256) : State :=
  match (slotOf s n).prof with
  | none => s
  | some p =>
    let x := profState p
    let at' := posOf (shr x.1 32)
    if !profDone p then updSlot s n (fun k => { k with pcmd := at', vel := x.2.1, acc := x.2.2 })
    else if p.fin == .hold then
      updSlot s n (fun k => { k with
        pcmd := at', vel := x.2.1, acc := x.2.2, lim := { k.lim with j := k.jnext.getD k.lim.j }, jnext := none })
    else
      match p.fin with
      | .target => endMotion s n p.target 1
      | .rest | .disengaged | .hold => endMotion s n x.1 1
      | .abort => endMotion s n x.1 2
      | .short => reportReversal (endMotion s n x.1 3) n at'
      | .reverse =>
        let s := reportReversal s n at'
        let t := takeNat s
        let k := slotOf s n
        let lim := { k.lim with j := k.jnext.getD k.lim.j }
        updSlot t.2 n (fun k => { k with
          prof := some (movePlanFrom t.1 (x.1, 0, 0) p.target false lim), lim := lim, jnext := none
          pcmd := at', vel := 0, acc := 0 })

/-- A profile begins at the present sample. -/
def startProf (s : State) (n : Fin 256) (p : Prof) : State :=
  settle (updSlot s n (fun k => { k with prof := some p })) n

/-- One stroke of a profile; a waiting jerk is taken at the start of a segment (R169, R188). -/
def advanceProf (s : State) (n : Fin 256) (p : Prof) : State :=
  let q := profNext p
  let s := updSlot s n (fun k => { k with prof := some q })
  match (slotOf s n).jnext with
  | some j =>
    if takesJerk q && !midJerk (some q) && !profDone q then
      let s := updSlot s n (fun k => { k with lim := { k.lim with j := j }, jnext := none })
      let t := takeNat s
      settle (updSlot t.2 n (fun k => { k with prof := some (replanProf t.1 q (noRev s n) k.lim) })) n
    else settle s n
  | none => settle s n

/-! ## Position of gear, cam and step/direction use -/

/-- A new p_cmd, with its backward differences (R170). -/
def setPcmd (s : State) (n : Fin 256) (p : Pos48) : State :=
  updSlot s n (fun k =>
    let v := posDiff p k.pcmd * 2 ^ 32
    { k with pcmd := p, vel := v, acc := v - k.vel })

/-- The phase move ends; a deceleration that R190 deferred in it becomes the present D_MAX (R198; log entry 26). -/
def phaseEnd (k : Slot) : Slot :=
  { k with
    phaseProf := none, phaseJ := none, phaseDef := none
    lim := { k.lim with d := k.phaseDef.getD k.lim.d } }

/-- Present phase and trim are folded into p_cmd, and gear, cam and step/direction following end (R200). -/
def foldUse (s : State) (n : Fin 256) : State :=
  updSlot s n (fun k => { phaseEnd k with
    gear := none, cam := none, steps := false, phase := 0, trim := 0, trimTarget := 0, trimCfg := none, caps := [] })

/-- A ramp to rest from the present state (R191, R193, R201). -/
def startStop (s : State) (n : Fin 256) (d j : Nat) (fin : ProfEnd) : State :=
  let x := slotPresent (slotOf s n)
  let t := takeNat (foldUse s n)
  startProf t.2 n (stopPlanFrom t.1 x d j fin)

/-- Gear displacement of a travel, in 2^-16 counts: the ratio run since the ramp began, rounded down (R196, R197). -/
def rampDisp (g : Gear) (e : Nat) (x : Int) (r0 d0 : Rat) : Rat :=
  let r1 : Rat := mkRat g.num g.den
  let e16 : Rat := (e : Rat) * 2 ^ 16
  let xr : Rat := x
  if x < 0 then d0 + r0 * xr
  else if xr ≤ e16 then d0 + r0 * xr + (r1 - r0) * xr * xr / (2 * e16)
  else d0 + (r0 + r1) / 2 * e16 + r1 * (xr - e16)

/-- One stroke of a gear for a master increment in 2^-16 counts (R195 to R197). -/
def gearNext (g : Gear) (dm : Int) : Gear :=
  match g.ramp with
  | some (e, x, r0, d0) =>
    let x := x + dm
    let d := rampDisp g e x r0 d0
    if (e : Int) * 2 ^ 16 < x then
      { g with disp := d.floor, q := ((d - d.floor) * g.den).floor, ramp := none, engaged := true }
    else { g with disp := d.floor, ramp := some (e, x, r0, d0) }
  | none =>
    let q := g.q + g.num * dm
    let ds := q / (g.den : Int)
    { g with disp := g.disp + ds, q := q - ds * g.den }

/-- Ratio at the present sample (R197). -/
def gearRatioNow (g : Gear) : Rat :=
  let r1 : Rat := mkRat g.num g.den
  match g.ramp with
  | some (e, x, r0, _) => if x < 0 then r0 else r0 + (r1 - r0) * (x : Rat) / ((e : Rat) * 2 ^ 16)
  | none => r1

/-! ## Cam tables (R202 to R207) -/

/-- Scriptorium address of a table (R202). -/
def camBase (s : State) (t : Fin 64) : Nat := rdf s (Reg.DCT_CAM t) 16 16 * 64

/-- Word `i` of a table. -/
def camWord (s : State) (t : Fin 64) (i : Nat) : Word := mrd32 s (camBase s t + 4 * i)

/-- N, MCYC and SRISE of a table, the last in 2^-8 counts (R203). -/
def camN (s : State) (t : Fin 64) : Nat := fld (camWord s t 1) 0 13
def camCyc (s : State) (t : Fin 64) : Nat := (camWord s t 2).toNat
def camRise (s : State) (t : Fin 64) : Int := (camWord s t 3).toInt
def camHermite (s : State) (t : Fin 64) : Bool := bit (camWord s t 0) 0

/-- P[i] in counts; P[N] is SRISE (R203, R204). -/
def camP (s : State) (t : Fin 64) (i : Nat) : Rat :=
  let w := if i = camN s t then camRise s t else (camWord s t (8 + (if camHermite s t then 2 * i else i))).toInt
  mkRat w (2 ^ 8)

/-- S[i] in slave counts per master count; S[N] is S[0] (R203, R204). -/
def camS (s : State) (t : Fin 64) (i : Nat) : Rat :=
  mkRat (camWord s t (9 + 2 * (if i = camN s t then 0 else i))).toInt (2 ^ 24)

/-- Section and parameter of a cycle position in 2^-16 counts; the parameter in steps of 2^-16 (R204). -/
def camAt (s : State) (t : Fin 64) (x : Int) : Nat × Rat :=
  let u : Rat := (x : Rat) * camN s t / (camCyc s t * 2 ^ 16)
  let i := u.floor
  (i.toNat, mkRat ((u - i) * 2 ^ 16).floor (2 ^ 16))

/-- Table value at a section and a parameter, in counts (R204). -/
def camValue (s : State) (t : Fin 64) (i : Nat) (u : Rat) : Rat :=
  let p0 := camP s t i
  let p1 := camP s t (i + 1)
  if camHermite s t then
    let h : Rat := (camCyc s t : Rat) / camN s t
    (2 * u * u * u - 3 * u * u + 1) * p0 + (u * u * u - 2 * u * u + u) * h * camS s t i
      + (3 * u * u - 2 * u * u * u) * p1 + (u * u * u - u * u) * h * camS s t (i + 1)
  else p0 + (p1 - p0) * u

/-- Slope of the table there, in slave counts per master count (R205, R206). -/
def camSlope (s : State) (t : Fin 64) (i : Nat) (u : Rat) : Rat :=
  let p0 := camP s t i
  let p1 := camP s t (i + 1)
  let h : Rat := (camCyc s t : Rat) / camN s t
  if camHermite s t then
    ((6 * u * u - 6 * u) * p0 + (3 * u * u - 4 * u + 1) * h * camS s t i + (6 * u - 6 * u * u) * p1
      + (3 * u * u - 2 * u) * h * camS s t (i + 1)) / h
  else (p1 - p0) / h

/-- Slope at the start and at the end of a table. -/
def camSlopeStart (s : State) (t : Fin 64) : Rat := camSlope s t 0 0
def camSlopeEnd (s : State) (t : Fin 64) : Rat := camSlope s t (camN s t - 1) 1

/-- p_cmd of a cam less phase and trim, in 2^-16 counts (R204). -/
def camPos (s : State) (k : Cam) : Int :=
  let u := camAt s k.table k.x
  k.base + k.c * camRise s k.table * 2 ^ 8 + (camValue s k.table u.1 u.2 * 2 ^ 16).floor

/-- Cycle position and count after whole cycles of `cyc` (in 2^-16 counts) are taken out (R204). -/
def camWrap (x c : Int) (cyc : Int) : Int × Int :=
  if cyc = 0 then (x, c) else (x % cyc, c + x / cyc)

/-- A pending switch at a wrap: taken where the slopes agree within VJUMP, refused otherwise (R206). -/
def camSwitchAt (s : State) (n : Fin 256) (k : Cam) (x dm : Int) (t : Fin 64) : State × Cam :=
  let old := (camCyc s k.table : Int) * 2 ^ 16
  let fwd := decide (old ≤ x)
  let d := if fwd then camSlopeEnd s k.table - camSlopeStart s t else camSlopeStart s k.table - camSlopeEnd s t
  let vj : Rat := (slotOf s n).record[(8 : Fin 16)].toNat
  if vj < ratAbs d * ratAbs (dm : Rat) then
    let w := camWrap x k.c old
    (setSt (wrb s (Reg.DCT_ST n) 5 true) n 16 4 5, { k with x := w.1, c := w.2, pend := none })
  else
    let new := (camCyc s t : Int) * 2 ^ 16
    let rise := fun (u : Fin 64) => camRise s u * 2 ^ 8
    let base := if fwd then k.base + (k.c + 1) * rise k.table else k.base + k.c * rise k.table - rise t
    let w := camWrap (if fwd then x - old else x + new) 0 new
    (s, { table := t, x := w.1, c := w.2, base := base, pend := none })

/-- One stroke of a cam for a master increment in 2^-16 counts (R204, R206). -/
def camNext (s : State) (n : Fin 256) (k : Cam) (dm : Int) : State × Cam :=
  let cyc := (camCyc s k.table : Int) * 2 ^ 16
  let x := k.x + dm
  let wraps := decide (cyc ≤ x) || decide (x < 0)
  match k.pend with
  | some t => if wraps then camSwitchAt s n k x dm t else (s, { k with x := x })
  | none => let w := camWrap x k.c cyc; (s, { k with x := w.1, c := w.2 })

/-- Words of a table, header and all (R203). -/
def camLen (s : State) (t : Fin 64) : Nat := 8 + (if camHermite s t then 2 * camN s t else camN s t)

/-- The format of a table holds (R202, R203). -/
def camHeadOk (s : State) (t : Fin 64) : Bool :=
  let n := camN s t
  decide ((camWord s t 0).toNat / 2 = 0x8000) && decide (2 ≤ n ∧ n ≤ 4096) && decide (fld (camWord s t 1) 13 19 = 0)
    && decide (n ≤ camCyc s t) && decide (camWord s t 4 ≠ 0) && decide (camWord s t 5 = 0)
    && decide (camWord s t 6 = 0) && decide (camBase s t + 4 * camLen s t ≤ 0x400000) && decide (camWord s t 8 = 0)

/-- The CRC of a table holds, over its words but the one that states it (R203, R207). -/
def camCrcOk (s : State) (t : Fin 64) : Bool :=
  crc32 (s.mem.readBytes (camBase s t) 28 ++ s.mem.readBytes (camBase s t + 32) (4 * (camLen s t - 8))) == camWord s t 7

/-- The format and CRC of a table hold (R202, R203). -/
def camGood (s : State) (t : Fin 64) : Bool := camHeadOk s t && camCrcOk s t

def camState (s : State) (t : Fin 64) : Nat := rdf s (Reg.DCT_CAM t) 12 2
/-- STATE of a table written; STATE 3 is the cam integrity condition (R207, R501). -/
def setCamState (s : State) (t : Fin 64) (v : Nat) : State :=
  setCond (wrf s (Reg.DCT_CAM t) 12 2 v) (0xC0 + t.val) (v == 3) 0

/-- ARM: ignored while the table has users (R202). -/
def camArm (s : State) (t : Fin 64) : State := when (camUsers s t == 0) s (fun s => setCamState s t 1)

/-- DISARM: ignored while the table has users (R202, R210). -/
def camDisarm (s : State) (t : Fin 64) : State := when (camUsers s t == 0) s (fun s => setCamState s t 0)

/-- A check completes (R202). -/
def camChecked (s : State) (t : Fin 64) : State :=
  when (camState s t == 1) s (fun s => setCamState s t (if camGood s t then 2 else 3))

/-- The page's check of an armed table, on its CRC alone (R207). -/
def camPageCheck (s : State) (t : Fin 64) : State :=
  when (camState s t == 2 && !camCrcOk s t) s (fun s => setCamState s t 3)

/-! ## Step/direction following (R208) -/

/-- The fraction of a step between edges, in 2^-16 steps (R208). -/
def stepFraction (s : State) (n : Fin 256) (e1 e0 : StepEdge) : Int :=
  let tmo := (slotOf s n).record[(10 : Fin 16)].toNat * 2 ^ 24
  let ni := s.dct.tNode
  if e1.pos ≠ e0.pos ∨ tmo ≤ ni - e1.t then 0
  else min (((ni - e1.t) * 2 ^ 16 / (e1.t - e0.t) : Nat) : Int) (2 ^ 16 - 1)

/-- p_cmd of a slot that follows step pulses (R208). With fewer than two edges latched f is 0, and with none p_cmd is taken
whichever way it lies: DESIGN CHOICE, as R208 starts from edges that have been latched (log entry 26). -/
def stepPos (s : State) (n : Fin 256) : Pos48 :=
  let ch : Fin 8 := Fin.ofNat 8 (sdCh s n)
  let c := s.lf[ch]
  let w := (slotOf s n).record[(9 : Fin 16)]
  let cnt : Int := (rd s (Reg.LF_POS ch)).toInt * 2 ^ 16
  let f := match c.l1, c.l0 with
    | some e1, some e0 => (if e1.pos then 1 else -1) * stepFraction s n e1 e0
    | _, _ => 0
  let p := posOf (shr ((cnt + f) * fld w 16 16) (fld w 12 4))
  let old := (slotOf s n).pcmd
  match c.l1 with
  | some e1 => if (if e1.pos then posDiff p old else -posDiff p old) < 0 then old else p
  | none => p

/-! ## Trim (R199, R200) -/

/-- The master position of a capture at time `tc`, in 2^-16 counts (R199). -/
def captureMaster (s : State) (mk : Pos48) (dm : Int) (tc : Nat) : Int :=
  ((mk.toInt : Rat) + (dm : Rat) * ((tc : Rat) - s.dct.tPrev) / ((s.dct.tNode : Rat) - s.dct.tPrev)).floor

/-- The error of a mark, taken in (−P/2, P/2], in 2^-16 counts (R199). -/
def markError (mc : Int) (c : TrimCfg) : Int :=
  let p := (c.pitch : Int) * 2 ^ 16
  let r := (mc - signedOf 32 c.mexp * 2 ^ 16) % p
  if p < 2 * r then r - p else r

/-- The correction of an error, before its limit, in 2^-16 slave counts: M_exp is read as a signed 32-bit count and d keeps
2^-16 count, of which R175 and R199 state neither: DESIGN CHOICE (log entry 26). A cam has no ratio, and the spec states no
correction for it (log entry 28). -/
def trimCorrection (s : State) (k : Slot) (c : TrimCfg) (e : Int) : Int × State :=
  match k.gear with
  | some g => ((-(c.gain : Int) * e * g.num) / (2 ^ 15 * (g.den : Int)), s)
  | none => takeInt s

/-- The capture of a stroke corrects the trim target, or counts a miss (R199). -/
def trimCapture (s : State) (n : Fin 256) (c : TrimCfg) (mk : Pos48) (tc : Nat) : State :=
  let k := slotOf s n
  let mc := captureMaster s mk k.dm tc
  let s := updSlot s n (fun k => { k with mc := posOf mc })
  let er := if c.pitch = 0 then takeInt s else (markError mc c, s)
  let e := er.1
  let s := er.2
  if (c.win : Int) * 2 ^ 16 < (e.natAbs : Int) then
    incf (wrb s (Reg.DCT_ST n) 6 true) (Reg.DCT_TRIM n) 8 8
  else
    let s := wrf s (Reg.DCT_TRIM n) 16 16 (unsignedOf 16 (max (-32767) (min 32767 (shr e 16))))
    let dr := trimCorrection s k c e
    let lim := (c.cmax : Int) * 2 ^ 16
    let s := when (decide (lim < (dr.1.natAbs : Int))) dr.2 (fun s => wrb s (Reg.DCT_ST n) 7 true)
    let d := max (-lim) (min lim dr.1)
    updSlot s n (fun k => { k with trimTarget := k.trimTarget + d })

/-- Captures before the node instant are used up: the last corrects, earlier ones are lost (R199, R200). -/
def trimTake (s : State) (n : Fin 256) (mk : Pos48) : State :=
  let k := slotOf s n
  let due := k.caps.filter (· < s.dct.tNode)
  let s := updSlot s n (fun k => { k with caps := k.caps.filter (fun t => !(t < s.dct.tNode)) })
  match k.trimCfg, due.getLast? with
  | some c, some tc =>
    let s := wrf s (Reg.DCT_TRIM n) 0 8 (satN 8 (rdf s (Reg.DCT_TRIM n) 0 8 + (due.length - 1)))
    trimCapture s n c mk tc
  | _, _ => s

/-- The trim output moves towards its target by at most TRIM_RATE (R199). -/
def trimMove (s : State) (n : Fin 256) : State :=
  updSlot s n (fun k =>
    let r : Int := k.record[(11 : Fin 16)].toNat
    { k with trim := k.trim + max (-r) (min r (k.trimTarget - k.trim)) })

/-! ## Phase (R198) -/

/-- One stroke of the phase move, and whether it came to rest at a reversal point, which is reported with the p_cmd of
this sample; under NOREV the move ends there with END 3 (R186, R187, R198). -/
def phaseNext (s : State) (n : Fin 256) : State × Bool :=
  match (slotOf s n).phaseProf with
  | none => (s, false)
  | some p =>
    let q := profNext p
    let t := takeNat s
    let k := slotOf s n
    let jr := match k.phaseJ with
      | some j => if !midJerk (some q) && !profDone q then
          (replanProf t.1 q (noRev s n) { k.phaseLim with j := j }, { k.phaseLim with j := j }, none)
        else (q, k.phaseLim, k.phaseJ)
      | none => (q, k.phaseLim, none)
    let q := jr.1
    let s := updSlot t.2 n (fun k => { k with phaseLim := jr.2.1, phaseJ := jr.2.2 })
    let x := profState q
    if !profDone q || q.fin == .hold then
      (updSlot s n (fun k => { k with phaseProf := some q, phase := shr x.1 32 }), false)
    else
      match q.fin with
      | .reverse =>
        let k := slotOf s n
        let lim := { k.phaseLim with j := k.phaseJ.getD k.phaseLim.j }
        (updSlot s n (fun k => { k with
          phaseProf := some (movePlanFrom t.1 (x.1, 0, 0) q.target false lim), phaseLim := lim, phaseJ := none
          phase := shr x.1 32 }), true)
      | .short => (updSlot (setSt s n 14 2 3) n (fun k => { phaseEnd k with phase := shr x.1 32 }), true)
      | _ => (updSlot s n (fun k => { phaseEnd k with phase := shr q.target 32 }), false)

/-- A phase move planned; with a velocity limit of 0 it holds where it is (log entry 26). -/
def phasePlan (fr : Nat) (x : Int × Int × Int) (target : Int) (norev : Bool) (l : DctLim) : Prof :=
  if l.v = 0 then { p0 := x.1, v0 := 0, a0 := 0, m := 0, segs := [], fin := .hold, target := target }
  else movePlanFrom fr x target norev l

/-! ## Command records (R175 to R179) -/

/-- Bits [31:16] of a word. -/
def hiHalf (w : Word) : Nat := fld w 16 16

/-- A record's words have no reserved bit set and no field out of range (R175). -/
def recordWf (op : Nat) (w : DctParams) : Bool :=
  let z : List Word → Bool := fun l => l.all (· == 0)
  match op with
  | 1 | 2 => hiHalf w.w2 == 0 && z [w.w7]
  | 3 => z [w.w2, w.w3, w.w7]
  | 4 => z [w.w1, w.w2, w.w7]
  | 5 | 12 => z [w.w1, w.w2, w.w3, w.w4, w.w7]
  | 6 | 7 => w.w2 != 0 && w.w3 != 0 && z [w.w4, w.w5, w.w6, w.w7]
  | 8 => hiHalf w.w2 == 0 && z [w.w7]
  | 9 => fld w.w1 5 27 == 0 && hiHalf w.w5 == 0 && z [w.w7]
      && (!bit w.w1 4 || (decide (0 < fld w.w5 0 16) && decide (fld w.w5 0 16 < 0x8000)))
  | 10 => fld w.w1 6 26 == 0 && z [w.w3, w.w4, w.w5, w.w6, w.w7]
  | 11 => fld w.w1 6 26 == 0 && z [w.w2, w.w3, w.w4, w.w5, w.w6, w.w7]
  | 13 => fld w.w1 1 31 == 0 && z [w.w2, w.w3, w.w4, w.w5, w.w6, w.w7]
  | _ => false

/-- Word 0 has only AXIS and OP (R175). -/
def word0Wf (w : Word) : Bool := w &&& 0xFF00FF00#32 == 0

/-- The signed 32.16 value in words 1 and 2, in 2^-16 counts. -/
def recordPos (w : DctParams) : Int := w.w1.toInt * 2 ^ 16 + fld w.w2 0 16

/-- The group's reaction level as it took effect: 0, 1, or 2 and above (R515). -/
def effLevel (s : State) (n : Fin 256) : Nat :=
  let g := s.axcfg[n].group.val
  if bit s.mgn.effQs g then 2 else if bit s.mgn.effDeg g then 1 else 0

/-- A record that a reaction turns away with code 3 (R505, R516). -/
def recordBarred (s : State) (n : Fin 256) (op : Nat) : Bool :=
  match effLevel s n with
  | 0 => false
  | 1 => op == 1 || op == 2 || op == 3 || op == 6 || op == 10 || op == 11 || op == 13
  | _ => op != 5 && op != 12

/-- p_cmd is to be loaded from the measured position when this slot takes a motion record: a coast or short axis in
standstill (R156, R172). -/
def needsResync (s : State) (n : Fin 256) : Bool :=
  !s.axcfg[n].virt && s.axcfg[n].policy != 2 && rdb s (Reg.INK_AXS n) 16 && slotIdle (slotOf s n)

/-- The measured position of an axis, words 0 to 2 of its record (R120). -/
def measured (s : State) (n : Fin 256) : Pos48 :=
  let f := s.ax[n].fb
  (f[(2 : Fin 16)] ++ f[(1 : Fin 16)]) ++ f[(0 : Fin 16)]

/-- p_cmd loaded with the measured position; RESYNC goes with the next sample written (R172). -/
def loadMeasured (s : State) (n : Fin 256) : State :=
  updSlot s n (fun k => { k with pcmd := measured s n, vel := 0, acc := 0, resync := true })

/-- A motion record finds its slot ready: fresh feedback where R172 asks for it, with END cleared (R210); code 6
otherwise. -/
def motion (s : State) (n : Fin 256) (f : State → Nat × State) : Nat × State :=
  if needsResync s n then
    if s.ax[n].fbAge = 0 then f (setSt (loadMeasured s n) n 14 2 0) else (6, s)
  else f (setSt s n 14 2 0)

/-- MOVE_ABS and MOVE_REL: limits, target and plan (R173, R185, R188). -/
def takeMove (s : State) (n : Fin 256) (rel : Bool) (w : DctParams) : Nat × State :=
  let st := slotState s n
  if 4 ≤ st ∧ st ≤ 7 then (3, s)
  else if w.w3 = 0 ∧ (slotOf s n).lim.v = 0 then (2, s)
  else motion s n (fun s =>
    let k := slotOf s n
    let x := slotPresent k
    let p16 := shr x.1 32
    let dist := if rel then recordPos w else posDiff (posOf (recordPos w)) (posOf p16)
    let target := (p16 + dist) * 2 ^ 32
    let lt := takeLimits k.lim k.deferred k.jnext k.prof x (some target) w.w3.toNat w.w4.toNat w.w5.toNat w.w6.toNat
    let t := takeNat (setLimitsOf s n lt)
    let s := updSlot t.2 n (fun k => { k with target := posOf (p16 + dist) })
    (1, startProf s n (movePlanFrom t.1 x target (noRev s n) lt.lim)))

def takeMoveAbs (s : State) (n : Fin 256) (w : DctParams) : Nat × State := takeMove s n false w
def takeMoveRel (s : State) (n : Fin 256) (w : DctParams) : Nat × State := takeMove s n true w

/-- VELOCITY (R184, R185). -/
def takeVelocity (s : State) (n : Fin 256) (w : DctParams) : Nat × State :=
  let st := slotState s n
  if 4 ≤ st ∧ st ≤ 7 then (3, s)
  else motion s n (fun s =>
    let k := slotOf s n
    let x := slotPresent k
    let lt := takeLimits k.lim k.deferred k.jnext k.prof x none 0 w.w4.toNat w.w5.toNat w.w6.toNat
    let t := takeNat (setLimitsOf s n lt)
    (1, startProf t.2 n (velPlanFrom t.1 x (w.w1.toInt * 2 ^ 32) lt.lim)))

/-- SET_LIMITS: a running move or ramp is planned anew from its present sample where its limits changed (R185, R188 to
R190). -/
def takeSetLimits (s : State) (n : Fin 256) (w : DctParams) : Nat × State :=
  let k := slotOf s n
  let target := match k.prof with
    | some p => match p.fin with
      | .target | .reverse | .short => some p.target
      | _ => none
    | none => none
  let lt := takeLimits k.lim k.deferred k.jnext k.prof (slotPresent k) target w.w3.toNat w.w4.toNat w.w5.toNat
    w.w6.toNat
  let s := setLimitsOf s n lt
  match k.prof with
  | some p =>
    if lt.lim = k.lim then (1, s)
    else
      let t := takeNat s
      (1, startProf t.2 n (replanProf t.1 p (noRev s n) lt.lim))
  | none => (1, s)

/-- ABORT (R191, R192). -/
def takeAbort (s : State) (n : Fin 256) (w : DctParams) : Nat × State :=
  let k := slotOf s n
  if slotIdle k then (1, wrb s (Reg.DCT_ST n) 2 true)
  else
    let d := if w.w5 = 0 then k.record[(6 : Fin 16)] else w.w5
    let j := if w.w6 = 0 then k.record[(7 : Fin 16)] else w.w6
    (1, startStop s n d.toNat j.toNat .abort)

/-- GEAR_IN (R196). -/
def takeGearIn (s : State) (n : Fin 256) (w : DctParams) : Nat × State :=
  if mSrc s n = 0 || !slotIdle (slotOf s n) then (3, s)
  else motion s n (fun s => (1, updSlot s n (fun k => { k with
    base := k.pcmd.toInt
    gear := some { num := w.w1.toInt, den := w.w2.toNat, q := 0, disp := 0, ramp := some (w.w3.toNat, 0, 0, 0),
                   engaged := false } })))

/-- GEAR_RATIO (R197). -/
def takeGearRatio (s : State) (n : Fin 256) (w : DctParams) : Nat × State :=
  match (slotOf s n).gear with
  | some g =>
    if g.engaged then
      (1, updSlot s n (fun k => { k with gear := some { g with
        num := w.w1.toInt, den := w.w2.toNat, q := 0
        ramp := some (w.w3.toNat, 0, gearRatioNow g, (g.disp : Rat)) } }))
    else (3, s)
  | none => (3, s)

/-- PHASE: a relative move on top of gear or cam; one that runs has its target moved on (R198). -/
def takePhase (s : State) (n : Fin 256) (w : DctParams) : Nat × State :=
  let st := slotState s n
  if st ≠ 5 ∧ st ≠ 6 then (3, s)
  else
    let k := slotOf s n
    let lim := if k.phaseProf.isSome then k.phaseLim else k.lim
    let x := match k.phaseProf with
      | some p => profState p
      | none => (k.phase * 2 ^ 32, 0, 0)
    let from' := match k.phaseProf with
      | some p => p.target
      | none => k.phase * 2 ^ 32
    let target := from' + recordPos w * 2 ^ 32
    let lt := takeLimits lim k.phaseDef k.phaseJ k.phaseProf x (some target) w.w3.toNat w.w4.toNat w.w5.toNat w.w6.toNat
    let t := takeNat s
    let s := updSlot t.2 n (fun k => { k with
      phaseLim := lt.lim, phaseJ := lt.jnext, phaseDef := lt.deferred
      phaseProf := some (phasePlan t.1 x target (noRev s n) lt.lim) })
    (1, when lt.flag s (fun s => wrb s (Reg.DCT_ST n) 3 true))

/-- TRIM (R199). -/
def takeTrim (s : State) (n : Fin 256) (w : DctParams) : Nat × State :=
  let st := slotState s n
  if (st ≠ 5 ∧ st ≠ 6) ∨ mSrc s n = 0 then (3, s)
  else if bit w.w1 4 then
    (1, updSlot s n (fun k => { k with trimCfg := some {
      ch := Fin.ofNat 16 (fld w.w1 0 4), pitch := w.w2.toNat, mexp := w.w3.toNat, win := w.w4.toNat,
      gain := fld w.w5 0 16, cmax := w.w6.toNat } }))
  else (1, updSlot s n (fun k => { k with trimCfg := none, trimTarget := k.trim, caps := [] }))

/-- CAM_IN (R202, R205). An entry position at or beyond MCYC is rejected with code 2: DESIGN CHOICE, as R205 states no
bound for it (log entry 26). -/
def takeCamIn (s : State) (n : Fin 256) (w : DctParams) : Nat × State :=
  let t : Fin 64 := Fin.ofNat 64 (fld w.w1 0 6)
  if mSrc s n = 0 || !slotIdle (slotOf s n) then (3, s)
  else if camState s t ≠ 2 then (4, s)
  else if camCyc s t ≤ w.w2.toNat then (2, s)
  else
    let x := (w.w2.toNat : Int) * 2 ^ 16
    let u := camAt s t x
    let k := slotOf s n
    if (k.record[(8 : Fin 16)].toNat : Rat) < ratAbs (camSlope s t u.1 u.2) * ratAbs (k.dm : Rat) then (5, s)
    else motion s n (fun s => (1, updSlot s n (fun k =>
      let c : Cam := { table := t, x := x, c := 0, base := 0, pend := none }
      { k with cam := some { c with base := k.pcmd.toInt - camPos s c } })))

/-- CAM_SWITCH (R206). -/
def takeCamSwitch (s : State) (n : Fin 256) (w : DctParams) : Nat × State :=
  let t : Fin 64 := Fin.ofNat 64 (fld w.w1 0 6)
  match (slotOf s n).cam with
  | some c =>
    if camState s t ≠ 2 then (4, s)
    else (1, updSlot s n (fun k => { k with cam := some { c with pend := some t } }))
  | none => (3, s)

/-- DISENGAGE (R201). A slot that follows nothing rejects it with code 3: DESIGN CHOICE, as R201 gives no result for it (log
entry 26). -/
def takeDisengage (s : State) (n : Fin 256) (w : DctParams) : Nat × State :=
  let st := slotState s n
  if 4 ≤ st ∧ st ≤ 7 then
    let l := (slotOf s n).lim
    (1, startStop s n (if w.w5 = 0 then l.d else w.w5.toNat) (if w.w6 = 0 then l.j else w.w6.toNat) .disengaged)
  else (3, s)

/-- STEPDIR: the sample of the stroke that takes it already follows (R177, R208; log entry 26 for the end of
following). -/
def takeStepdir (s : State) (n : Fin 256) (w : DctParams) : Nat × State :=
  if bit w.w1 0 then
    if !sdEn s n || !slotIdle (slotOf s n) then (3, s)
    else motion s n (fun s => (1, let s := updSlot s n (fun k => { k with steps := true }); setPcmd s n (stepPos s n)))
  else if (slotOf s n).steps then (1, updSlot s n (fun k => { k with steps := false, vel := 0, acc := 0 }))
  else (3, s)

/-- A record meets its slot: its result code, and the state with its effect (R178). -/
def recordResult (s : State) (n : Fin 256) (op : Nat) (w0ok : Bool) (w : DctParams) : Nat × State :=
  if !slotOn s n then (7, s)
  else if !w0ok || !recordWf op w then (2, s)
  else if recordBarred s n op then (3, s)
  else
    match op with
    | 1 => takeMoveAbs s n w
    | 2 => takeMoveRel s n w
    | 3 => takeVelocity s n w
    | 4 => takeSetLimits s n w
    | 5 => takeAbort s n w
    | 6 => takeGearIn s n w
    | 7 => takeGearRatio s n w
    | 8 => takePhase s n w
    | 9 => takeTrim s n w
    | 10 => takeCamIn s n w
    | 11 => takeCamSwitch s n w
    | 12 => takeDisengage s n w
    | _ => takeStepdir s n w

/-- A result delivered to the source of a record; a held record answers its queue when it is decided (R178, R547). -/
def recordAnswer (s : State) (src : DctSrc) (res : Nat) : State :=
  match src with
  | .port c => wrf s (Reg.DCT_PST c) 8 4 res
  | .queue q tag => if res = 6 then s else ackTag s q tag res
  | .direct => s

/-- A slot takes a record; one that it holds stays held until it is decided itself (R172, R177, R178). -/
def takeRecord (s : State) (n : Fin 256) (r : DctRec) : State :=
  let op := fld r.w0 0 8
  let x := recordResult s n op (word0Wf r.w0) r.w
  let s := updSlot x.2 n (fun k => { k with
    held := if x.1 = 6 then some r else if k.held = some r then none else k.held })
  let s := setSt (setSt s n 16 4 x.1) n 20 4 (op % 16)
  recordAnswer s r.src x.1

/-! ## One stroke of a slot (R166 to R172) -/

/-- v_cmd and a_cmd (R170). -/
def scaled (x : Int) (scale sh : Nat) : Half := BitVec.ofInt 16 (satI 16 (shr (x * scale * 2 ^ sh) 48))

/-- Words 8 to 13 of a slot's sample (R120, R166, R170, R171). -/
def sampleWords (s : State) (n : Fin 256) : List Half :=
  let k := slotOf s n
  let w0 := k.record[(0 : Fin 16)]
  let v := scaled k.vel (hiHalf w0) (fld w0 12 4)
  let a := scaled k.acc (hiHalf k.record[(1 : Fin 16)]) (fld w0 8 4)
  let idle := slotIdle k && v == 0
  [k.pcmd.extractLsb' 0 16, k.pcmd.extractLsb' 16 16, k.pcmd.extractLsb' 32 16, v, a,
    BitVec.ofNat 16 (idle.toNat + 2 * k.resync.toNat)]

/-- A word of an axis's feedback record written, in Inkwell's copy and in the engine's X memory (R120). -/
def putFb (s : State) (n : Fin 256) (i : Fin 16) (v : Half) : State :=
  let s := { s with ax := s.ax.upd n (fun a => { a with fb := a.fb.put i v }) }
  let c := s.axcfg[n]
  when (c.used && !c.virt && pdOn s (pdOfEngine c.engine)) s (fun s =>
    mwr16 s (qAddr c.engine false (c.xfb + BitVec.ofNat 14 i.val)) v)

/-- Words of the record written from word `i` up. -/
def putFbFrom (s : State) (n : Fin 256) (i : Nat) : List Half → State
  | [] => s
  | v :: r => putFbFrom (putFb s n (Fin.ofNat 16 i) v) n (i + 1) r

/-- STATE, SEG and IDLE of a slot follow it (R210). -/
def showSlot (s : State) (n : Fin 256) : State :=
  let k := slotOf s n
  let seg := match k.prof with
    | some p => profSeg p
    | none => 0
  let idle := ((sampleWords s n).getD 5 0).getLsbD 0
  setSt (setSt (setSt s n 28 4 (slotState s n)) n 25 3 seg) n 0 1 idle.toNat

/-- The sample is written into the feedback record (R166). -/
def writeSample (s : State) (n : Fin 256) : State := showSlot (putFbFrom s n 8 (sampleWords s n)) n

/-- The master's sample of the stroke: the position, and how the increment is formed: as a difference, kept, or 0 and
stale (R194). -/
inductive MasterKind where
  | fresh (p : Pos48)
  | extrapolate
  | stale
deriving DecidableEq, Repr

def masterSample (s : State) (n : Fin 256) : Option MasterKind :=
  let i := mIdx s n
  match mSrc s n with
  | 0 => none
  | 1 => some (.fresh (slotOf s (Fin.ofNat 256 i)).pcmd)
  | 2 =>
    let m : Fin 256 := Fin.ofNat 256 i
    let age := s.ax[m].fbAge
    some (if age = 0 then .fresh (measured s m) else if age ≤ 2 then .extrapolate else .stale)
  | _ =>
    let c := i % 8
    some (if rdb s (Reg.LF_STAT c) 31 then .stale else .fresh (rd s (Reg.LF_POS c) ++ (0#16 : Half)))

/-- The master of a slot advances by one stroke; in the first stroke of full service there is no increment (R194). -/
def masterNext (s : State) (n : Fin 256) : State :=
  match masterSample s n with
  | none => wrb s (Reg.DCT_ST n) 8 false
  | some (.fresh p) =>
    wrb (updSlot s n (fun k => { k with
      dm := if s.dct.first then 0 else posDiff p k.master, master := p })) (Reg.DCT_ST n) 8 false
  | some .extrapolate =>
    wrb (updSlot s n (fun k => { k with master := k.master + posOf k.dm })) (Reg.DCT_ST n) 8 false
  | some .stale => wrb (updSlot s n (fun k => { k with dm := 0, master := k.master })) (Reg.DCT_ST n) 8 true

/-- The reversal point of a phase move that came to rest in this sample (R186, R198). -/
def reversalAt (s : State) (n : Fin 256) (rev : Bool) : State :=
  when rev s (fun s => reportReversal s n (slotOf s n).pcmd)

/-- One stroke of what the slot runs (R169, R195, R204, R208). -/
def advanceSlot (s : State) (n : Fin 256) (mk : Pos48) : State :=
  let k := slotOf s n
  match k.prof with
  | some p => advanceProf s n p
  | none =>
    match k.gear with
    | some g =>
      let g := gearNext g k.dm
      let r := phaseNext (updSlot s n (fun k => { k with gear := some g })) n
      let s := trimMove (trimTake r.1 n mk) n
      let k := slotOf s n
      reversalAt (setPcmd s n (posOf (k.base + g.disp + k.phase + k.trim))) n r.2
    | none =>
      match k.cam with
      | some c =>
        let x := camNext s n c k.dm
        let r := phaseNext (updSlot x.1 n (fun k => { k with cam := some x.2 })) n
        let s := trimMove (trimTake r.1 n mk) n
        let k := slotOf s n
        reversalAt (setPcmd s n (posOf (camPos s x.2 + k.phase + k.trim))) n r.2
      | none =>
        if k.steps then setPcmd s n (stepPos s n)
        else updSlot s n (fun k => { k with vel := 0, acc := 0 })

/-- The quick-stop of a reaction begins or ends for the slot. The Steward's path replaces it while it is in use: where the
path ends and the level stands, the slot stops then (R193, R511). -/
def quickStop (s : State) (n : Fin 256) : State :=
  let k := slotOf s n
  let on := effLevel s n == 2
  if on && !k.qs then
    if stwPathUsed s then s
    else
      let s := updSlot s n (fun k => { k with qs := true })
      if slotIdle k then s
      else startStop s n k.record[(6 : Fin 16)].toNat k.record[(7 : Fin 16)].toNat .abort
  else if !on then updSlot s n (fun k => { k with qs := false })
  else s

/-- The first records that wait for a slot, one from each source: ports and command queues (R177). -/
def offered (s : State) (n : Fin 256) : List DctRec :=
  let ports := (fins 16).filterMap (fun c => s.dct.port[c].filter (fun r => fld r.w0 16 8 == n.val))
  let w := (slotOf s n).waiting
  let queues := (fins 8).filterMap (fun q => w.find? (fun r => match r.src with
    | .queue p _ => p == q
    | _ => false))
  queues ++ ports ++ (w.find? (fun r => r.src == .direct)).toList

/-- The slot takes at most one record: one it holds, or one of those offered, in an order the spec leaves open
(R172, R177). While it holds one every other record waits behind it, an ABORT too: DESIGN CHOICE, as R172 does not say what
other records do in STATE 9 (log entry 26). -/
def takeNext (s : State) (n : Fin 256) : State :=
  match (slotOf s n).held with
  | some r => takeRecord s n r
  | none =>
    let l := offered s n
    let t := if l.length < 2 then (0, s) else takeNat s
    let s := t.2
    match pickFrom t.1 l with
    | none => s
    | some r =>
      match r.src with
      | .port c =>
        let s := updDct s (fun d => { d with port := d.port.put c none })
        raiseEvent (takeRecord (wrb s (Reg.DCT_PST c) 0 false) n r) 0x05
      | _ => takeRecord (updSlot s n (fun k => { k with waiting := k.waiting.erase r })) n r

/-- One slot's evaluation at a freeze mark. A slot whose evaluation failed writes no sample and takes no record
(R503). The sample advances before a record is taken, so that a CAM_SWITCH taken in a stroke whose sample wraps waits for
the next wrap, and a second one replaces the one that waits: DESIGN CHOICE, R206 states neither (log entry 26). -/
def evalSlot (s : State) (n : Fin 256) : State :=
  if (slotOf s n).failed then s
  else if !slotOn s n then takeNext s n
  else
    let mk := (slotOf s n).master
    let s := masterNext (updSlot s n (fun k => { k with resync := false })) n
    let s := if s.dct.first then
        (if s.axcfg[n].virt then updSlot s n (fun k => { k with pcmd := 0, vel := 0, acc := 0 }) else loadMeasured s n)
      else advanceSlot s n mk
    writeSample (takeNext (quickStop s n) n) n

/-- A slot that another names as its master under MSRC 1 (R167). -/
def isMaster (s : State) (n : Fin 256) : Bool :=
  (fins 256).any (fun k => slotOn s k && mSrc s k == 1 && mIdx s k == n.val)

/-- All slots evaluated: master slots first, then the others, in slot order (R167, R168). The time of the last sample is
the clockless fabric's (log entry 2). -/
def evalAll (s : State) : State :=
  let l := (fins 256).partition (isMaster s)
  let s := forAll (l.1 ++ l.2) s evalSlot
  let t := takeNat s
  updDct t.2 (fun d => { d with first := false, evalMax := max d.evalMax t.1 })

/-- Page boundary: DCT_EVAL.MAX shows the ended page (R210). -/
def dctPage (s : State) : State :=
  updDct (wrf s Reg.DCT_EVAL 0 16 (satN 16 s.dct.evalMax)) (fun d => { d with evalMax := 0 })

/-- A capture on channel `c` at time `t` reaches every slot that trims from the channel (R199, R200, R421). -/
def deliverCapture (s : State) (c : Fin 16) (t : Nat) : State :=
  forAll (fins 256) s (fun s n =>
    match (slotOf s n).trimCfg with
    | some k => when (k.ch == c) s (fun s => updSlot s n (fun k => { k with caps := k.caps ++ [t] }))
    | none => s)

/-- A wide value of a slot (R211); none for an item that reads 0. -/
def slotItem (s : State) (n : Fin 256) (i : Nat) : Pos48 :=
  let k := slotOf s n
  match i with
  | 0 => k.pcmd
  | 1 => k.target
  | 2 => k.rev
  | 3 => k.master
  | 4 => k.mc
  | 5 => posOf (k.phase + k.trim)
  | _ => 0

/-! ## Ports (R176, R179) -/

/-- A write to word 7 of port `c`, once word 7 is stored: the record commits (R176). -/
def portCommit (s : State) (c : Fin 16) : State :=
  let w := fun i => rd s (Reg.DCT_PORT (8 * c.val + i))
  let r : DctRec := { src := .port c, w0 := w 0, w := ⟨w 1, w 2, w 3, w 4, w 5, w 6, w 7⟩ }
  let s := updDct s (fun d => { d with port := d.port.put c (some r) })
  wrb (wrf s (Reg.DCT_PST c) 16 8 (fld r.w0 16 8)) (Reg.DCT_PST c) 0 true

/-- A write to word 7 of port `c`: refused with OVF while a record is pending (R179). -/
def portWrite7 (s : State) (c : Fin 16) (v : Word) : State :=
  if rdb s (Reg.DCT_PST c) 0 then wrb s (Reg.DCT_PST c) 1 true
  else portCommit (wr s (Reg.DCT_PORT (8 * c.val + 7)) v) c

/-- A Ductus record of a command queue waits for its slot (R176, R547). -/
def queueRecord (s : State) (q : Fin 8) (tag : Half) (w0 : Word) (w : DctParams) : State :=
  updSlot s (Fin.ofNat 256 (fld w0 16 8)) (fun k => { k with
    waiting := k.waiting ++ [{ src := .queue q tag, w0 := w0, w := w }] })

/-! ## Meanings -/

/-- A slot takes a record now, and its sample shows what it leaves; behind a record that it holds it waits (R172). -/
def directRecord (op : Nat) (n : Fin 256) (w : DctParams) (s : State) : State :=
  let r : DctRec := { src := .direct, w0 := BitVec.ofNat 32 (n.val * 2 ^ 16 + op), w := w }
  if (slotOf s n).held.isSome then updSlot s n (fun k => { k with waiting := k.waiting ++ [r] })
  else
    let s := takeRecord s n r
    if slotOn s n then writeSample s n else s

/-- MOVE_ABS (R173, R182, R185). -/
def execMoveAbs (n : Fin 256) (w : DctParams) (s : State) : Host.Outcome State Fault Refusal := .next (directRecord 1 n w s)
/-- MOVE_REL (R182, R185). -/
def execMoveRel (n : Fin 256) (w : DctParams) (s : State) : Host.Outcome State Fault Refusal := .next (directRecord 2 n w s)
/-- VELOCITY (R184). -/
def execVelocity (n : Fin 256) (w : DctParams) (s : State) : Host.Outcome State Fault Refusal := .next (directRecord 3 n w s)
/-- SET_LIMITS (R188). -/
def execSetLimits (n : Fin 256) (w : DctParams) (s : State) : Host.Outcome State Fault Refusal := .next (directRecord 4 n w s)
/-- ABORT (R191). -/
def execAbort (n : Fin 256) (w : DctParams) (s : State) : Host.Outcome State Fault Refusal := .next (directRecord 5 n w s)
/-- GEAR_IN (R196). -/
def execGearIn (n : Fin 256) (w : DctParams) (s : State) : Host.Outcome State Fault Refusal := .next (directRecord 6 n w s)
/-- GEAR_RATIO (R197). -/
def execGearRatio (n : Fin 256) (w : DctParams) (s : State) : Host.Outcome State Fault Refusal := .next (directRecord 7 n w s)
/-- PHASE (R198). -/
def execPhase (n : Fin 256) (w : DctParams) (s : State) : Host.Outcome State Fault Refusal := .next (directRecord 8 n w s)
/-- TRIM (R199). -/
def execTrim (n : Fin 256) (w : DctParams) (s : State) : Host.Outcome State Fault Refusal := .next (directRecord 9 n w s)
/-- CAM_IN (R205). -/
def execCamIn (n : Fin 256) (w : DctParams) (s : State) : Host.Outcome State Fault Refusal := .next (directRecord 10 n w s)
/-- CAM_SWITCH (R206). -/
def execCamSwitch (n : Fin 256) (w : DctParams) (s : State) : Host.Outcome State Fault Refusal := .next (directRecord 11 n w s)
/-- DISENGAGE (R201). -/
def execDisengage (n : Fin 256) (w : DctParams) (s : State) : Host.Outcome State Fault Refusal := .next (directRecord 12 n w s)
/-- STEPDIR (R208). -/
def execStepdir (n : Fin 256) (w : DctParams) (s : State) : Host.Outcome State Fault Refusal := .next (directRecord 13 n w s)

/-- STEP_TMO: a slot that follows step pulses holds p_cmd, and v_cmd becomes 0 (R209). -/
def execStepTmo (n : Fin 256) (s : State) : Host.Outcome State Fault Refusal :=
  .next (when (slotOn s n && (slotOf s n).steps) s (fun s =>
    writeSample (updSlot s n (fun k => { k with vel := 0, acc := 0 })) n))

/-- CAM_CHECK_DONE (R202). -/
def execCamCheckDone (t : Fin 64) (s : State) : Host.Outcome State Fault Refusal := .next (camChecked (newInstant s) t)

/-- CAM_CRC_CHECK (R207). -/
def execCamCrcCheck (t : Fin 64) (s : State) : Host.Outcome State Fault Refusal := .next (camPageCheck (newInstant s) t)

end Sys2Proof.Machine
end

