-- ==== Sys2Proof/Machine/Feedback.lean ====
section
/-! DEFINITION. Local feedback channels and capture inputs (R401 to R425). -/

namespace Sys2Proof.Machine

def lfMode (s : State) (n : Fin 8) : Nat := rdf s (Reg.LF_CFG n) 0 3
def lfInv (s : State) (n : Fin 8) : Bool := rdb s (Reg.LF_CFG n) 3
/-- The channel's domain is on. -/
def lfOn (s : State) : Bool := pdOn s 14

/-- Counts per revolution; an SSI channel has 2^STB (R402, R416). -/
def lfCpr (s : State) (n : Fin 8) : Nat :=
  if lfMode s n = 3 then 2 ^ rdf s (Reg.LF_SSI n) 8 5 else rdf s (Reg.LF_CPR n) 0 24

def updLf (s : State) (n : Fin 8) (f : LfCh → LfCh) : State := { s with lf := s.lf.upd n f }

/-- The instant a filter of `n` clocks took its stable run to begin: `n` samples of 10 ns before its line changed, in the
active domain (R404, R405). -/
def edgeTime (s : State) (n : Nat) : Nat :=
  let d : Int := n * 10 * (rd s (Reg.BSL_INC (domIdx (activeB s)))).toNat
  ((now s).shift (-d)).units

/-- h follows c by one count in the quadrature, Hall and SSI modes (R418): after a change of c, and in the first sample of
such a mode, since h then holds until c changes again. -/
def lfTrack (s : State) (n : Fin 8) : State :=
  let k := s.lf[n]
  let d := (k.c - k.h).toInt
  if lfMode s n = 0 ∨ 4 ≤ lfMode s n ∨ d.natAbs ≤ 1 then s
  else
    let s := updLf s n (fun k => { k with h := if 0 < d then k.c - 1 else k.c + 1 })
    wrb s (Reg.LF_STAT n) 4 (decide (d < 0))

/-- c moved by `d`, and a with it modulo CPR (R402). -/
def lfCount (s : State) (n : Fin 8) (d : Int) : State :=
  let cpr := lfCpr s n
  lfTrack (updLf s n (fun k => { k with
    c := k.c + BitVec.ofInt 32 d, a := if cpr = 0 then k.a else ((((k.a : Int) + d) % (cpr : Int))).toNat })) n

/-- A counting direction under INV. -/
def lfDir (s : State) (n : Fin 8) (pos : Bool) : Int := if pos != lfInv s n then 1 else -1

/-- The channel fault (R417). -/
def lfFault (s : State) (n : Fin 8) (cause : Nat) : State :=
  assertSource (wrf s (Reg.LF_STAT n) 28 4 (8 + cause)) (0x100 + n) 0

/-- An illegal or impossible event of the page: ILL_PAGE, and the fault of R410. -/
def lfIllPage (s : State) (n : Fin 8) : State :=
  let s := incf s (Reg.LF_ERR n) 0 8
  let thr := rdf s (Reg.LF_CFG n) 24 8
  if thr ≠ 0 ∧ thr ≤ rdf s (Reg.LF_ERR n) 0 8 then lfFault s n 1 else s

/-- An illegal transition (R407). -/
def lfIllegal (s : State) (n : Fin 8) : State :=
  lfIllPage (wrb (incf s (Reg.LF_ERR n) 24 8) (Reg.LF_STAT n) 14 true) n

/-- Levels of a channel's filtered lines. -/
def lfLine (s : State) (n : Fin 8) : Bool × Bool × Bool :=
  (s.pins.lfA.getLsbD n, s.pins.lfB.getLsbD n, s.pins.lfZ.getLsbD n)

/-- One bit of a level word. -/
def setLevel {w : Nat} (v : BitVec w) (i : Nat) (b : Bool) : BitVec w :=
  if b then v ||| BitVec.ofNat w (2 ^ i) else v &&& ~~~(BitVec.ofNat w (2 ^ i))

def setLf (s : State) (n : Fin 8) (a b z : Bool) : State :=
  { s with pins := { s.pins with
    lfA := setLevel s.pins.lfA n a, lfB := setLevel s.pins.lfB n b, lfZ := setLevel s.pins.lfZ n z } }

/-- Folio's source 4 samples the lines at a change that a filter of `n` clocks passes, with the tag of R405 (R426). -/
def sampleLines (s : State) (n : Nat) : State := folSample s 4 (BTime.ofUnits (edgeTime s n))

/-- FILT of a channel, and of a capture input (R404, R420). -/
def lfFilt (s : State) (n : Fin 8) : Nat := rdf s (Reg.LF_CFG n) 16 8
def capFilt (s : State) (n : Fin 16) : Nat := rdf s (Reg.CAP_CFG n) 16 8

/-! ## Quadrature (R407) -/

/-- Position of the lines in the sequence of positive counting, A leading B. -/
def quadPhase (a b : Bool) : Nat := if a then (if b then 2 else 1) else (if b then 3 else 0)

/-- A change of the filtered lines of a quadrature channel (R407). -/
def quadrature (s : State) (n : Fin 8) (a b : Bool) : State :=
  if lfMode s n ≠ 1 ∨ !lfOn s then s
  else
    let l := lfLine s n
    let s := setLf s n a b l.2.2
    let s :=
      if a ≠ l.1 ∧ b ≠ l.2.1 then lfIllegal s n
      else if a = l.1 ∧ b = l.2.1 then s
      else lfCount s n (lfDir s n ((quadPhase l.1 l.2.1 + 1) % 4 == quadPhase a b))
    sampleLines s (lfFilt s n)

/-! ## Hall (R408, R409) -/

/-- Sector of a Hall code; none for an impossible one. -/
def hallSector (code : BitVec 3) : Option (Fin 6) :=
  match code.toNat with
  | 1 => some 0
  | 3 => some 1
  | 2 => some 2
  | 6 => some 3
  | 4 => some 4
  | 5 => some 5
  | _ => none

/-- Lines that differ between two codes. -/
def hallChanged (x y : BitVec 3) : Nat :=
  ((List.range 3).filter (fun i => x.getLsbD i != y.getLsbD i)).length

/-- The filtered code H3:H2:H1 of a channel's lines (R408). -/
def hallCode (s : State) (n : Fin 8) : BitVec 3 :=
  let l := lfLine s n
  BitVec.ofNat 3 (l.1.toNat + 2 * l.2.1.toNat + 4 * l.2.2.toNat)

/-- A change of the filtered code of a Hall channel: the former code gives the sector that the move starts from (R408,
R409). -/
def hall (s : State) (n : Fin 8) (code : BitVec 3) : State :=
  if lfMode s n ≠ 2 ∨ !lfOn s then s
  else
    let old := hallCode s n
    let s := setLf s n (code.getLsbD 0) (code.getLsbD 1) (code.getLsbD 2)
    let many := decide (2 ≤ hallChanged old code)
    let s := when many s (fun s => lfIllegal s n)
    let s :=
      if code = old then s
      else match hallSector code with
        | none => lfIllPage (wrb (incf s (Reg.LF_ERR n) 16 8) (Reg.LF_STAT n) 15 true) n
        | some x =>
          let s := wrf s (Reg.LF_STAT n) 0 3 x
          match hallSector old with
          | none => s
          | some y => if many then s else lfCount s n (lfDir s n ((y.val + 1) % 6 == x.val))
    sampleLines s (lfFilt s n)

/-! ## Index (R411 to R413) -/

/-- A deviation taken in (−CPR/2, +CPR/2] (R411). -/
def indexDev (a pos cpr : Nat) : Int :=
  let d := ((a : Int) - pos) % (cpr : Int)
  if (cpr : Int) < 2 * d then d - cpr else d

/-- An index event. Without CPR there is no angle, and the deviation is not stated (log entry 2). -/
def index (s : State) (n : Fin 8) : State :=
  if lfMode s n ≠ 1 ∨ !lfOn s then s
  else
    let l := lfLine s n
    let s := setLf s n l.1 l.2.1 true
    let cpr := lfCpr s n
    let pos := rdf s (Reg.LF_IDX n) 0 24
    let r := if cpr = 0 then takeInt s else (indexDev s.lf[n].a pos cpr, s)
    let d := r.1
    let s := updLf r.2 n (fun k => { k with idxC := k.c })
    let s := wrf (incf s (Reg.LF_IDXLAT n) 24 8) (Reg.LF_IDXLAT n) 0 24 (unsignedOf 24 d)
    let s := wrb s (Reg.LF_STAT n) 16 true
    let toPos := fun (k : LfCh) => if cpr = 0 then k else { k with a := pos }
    let s :=
      if !rdb s (Reg.LF_STAT n) 6 then wrb (updLf s n toPos) (Reg.LF_STAT n) 6 true
      else if !rdb s (Reg.LF_CFG n) 5 || cpr == 0 then s
      else if d.natAbs ≤ rdf s (Reg.LF_IDX n) 24 8 then
        let s := updLf s n (fun k => toPos { k with c := k.c - BitVec.ofInt 32 d })
        wrb (lfTrack s n) (Reg.LF_STAT n) 17 true
      else lfFault s n 2
    sampleLines s (lfFilt s n)

/-! ## SSI (R414 to R416) -/

/-- Position bits of a frame. -/
def ssiLen (s : State) (n : Fin 8) : Nat := rdf s (Reg.LF_SSI n) 0 5 + 1

/-- Gray to binary: each bit is the parity of the bits from it up. -/
def grayDecode : Nat → Nat → Nat
  | 0, _ => 0
  | i + 1, g => g ^^^ grayDecode i (g / 2)

/-- LFn_CK driven (R401, R414). -/
def setCk (s : State) (n : Fin 8) (b : Bool) : State :=
  { s with pins := { s.pins with lfCk := setLevel s.pins.lfCk n b } }

/-- A frame completes, and LFn_CK returns high (R414 to R416). -/
def ssi (s : State) (n : Fin 8) (startLow : Bool) (raw : Word) (errBit : Bool) : State :=
  let k := s.lf[n]
  if lfMode s n ≠ 3 ∨ !lfOn s ∨ !k.ssiBusy then s
  else
    let s := setCk (updLf s n (fun k => { k with ssiBusy := false })) n true
    let bad := startLow || (rdb s (Reg.LF_SSI n) 6 && errBit == rdb s (Reg.LF_SSI n) 5)
    if bad then
      let s := wrb (incf s (Reg.LF_ERR n) 8 8) (Reg.LF_STAT n) 18 true
      let s := updLf s n (fun k => { k with ssiBad := k.ssiBad + 1 })
      if s.lf[n].ssiBad = 4 then lfFault (updLf s n (fun k => { k with ssiBad := 0 })) n 3 else s
    else
      let len := ssiLen s n
      let g := raw.toNat % 2 ^ len
      let v := if rdb s (Reg.LF_SSI n) 7 then grayDecode 32 g else g
      let s := updLf s n (fun k => { k with ssiBad := 0, ssiLast := some v, a := v % lfCpr s n })
      match k.ssiLast with
      | none => wrb (lfTrack (updLf s n (fun k => { k with c := BitVec.ofNat 32 v })) n) (Reg.LF_STAT n) 6 true
      | some p =>
        let d := signedOf len (unsignedOf len ((v : Int) - p))
        lfTrack (updLf s n (fun k => { k with c := k.c + BitVec.ofInt 32 d })) n

/-! ## Step and direction (R419) -/

/-- A change of the filtered step line, with the level of B in the same sample (R419). -/
def stepLine (s : State) (n : Fin 8) (level b : Bool) : State :=
  if lfMode s n ≠ 4 ∨ !lfOn s then s
  else
    let l := lfLine s n
    let s := setLf s n level b l.2.2
    let s :=
      if level ≠ l.1 ∧ level != rdb s (Reg.LF_CFG n) 4 then
        let d := lfDir s n l.2.1
        let s := when (b != l.2.1) s (fun s => wrb s (Reg.LF_STAT n) 19 true)
        let e : StepEdge := { t := edgeTime s (rdf s (Reg.LF_CFG n) 16 8), pos := decide (0 < d) }
        lfCount (updLf s n (fun k => { k with e0 := k.e1, e1 := some e })) n d
      else s
    sampleLines s (lfFilt s n)

/-! ## The node instant (R403, R414, R418, R419) -/

/-- Speed over the window, in 16.16 counts per stroke, once h of this stroke stands first (R418). -/
def lfSpeed (s : State) (n : Fin 8) : Int :=
  let w := 2 ^ min 6 (rdf s (Reg.LF_CFG n) 6 3)
  let l := s.lf[n].hist
  let h1 := l.getD 0 0
  let h0 := l.getD w 0
  (h1 - h0).toInt * 65536 / (w : Int)

/-- A frame of an SSI channel starts: LFn_CK goes low (R414). -/
def ssiStart (s : State) (n : Fin 8) : State :=
  when (decide (lfMode s n = 3)) s (fun s => setCk (updLf s n (fun k => { k with ssiBusy := true })) n false)

/-- MODE of a channel is set anew: it is enabled as if for the first time, so REFD, the previous SSI value and a frame
in progress are gone, LFn_CK is high, h tracks c, and SECTOR is that of the present code (R401, R408, R412, R416, R418). -/
def lfEnable (s : State) (n : Fin 8) : State :=
  let s := setCk (updLf s n (fun k => { k with ssiLast := none, ssiBad := 0, ssiBusy := false })) n true
  let s := lfTrack (wrb s (Reg.LF_STAT n) 6 false) n
  match lfMode s n, hallSector (hallCode s n) with
  | 2, some x => wrf s (Reg.LF_STAT n) 0 3 x
  | _, _ => s

/-- The channels whose MODE differs from that in `old` (R412). -/
def lfModes (old s : State) : State :=
  forAll ((fins 8).filter (fun (n : Fin 8) => lfMode s n != lfMode old n)) s lfEnable

/-- The latch of one channel (R403, R414). -/
def lfLatch (s : State) (n : Fin 8) : State :=
  if lfMode s n = 0 then s
  else
    let k := s.lf[n]
    let s := wr s (Reg.LF_POS n) k.c
    let s := wr s (Reg.LF_ANG n) (BitVec.ofNat 32 k.a)
    let s := updLf s n (fun k => { k with
      hist := (k.h :: k.hist).take 65, l1 := k.e1, l0 := k.e0 })
    let s := ssiStart s n
    if lfMode s n = 4 then s
    else
      let v := lfSpeed s n
      wrb (wr s (Reg.LF_SPD n) (BitVec.ofInt 32 v)) (Reg.LF_STAT n) 5 (decide (v = 0))

/-- The node instant of the active script (R199, R403). -/
def nodeInstant (s : State) : State :=
  let s := when (lfOn s) s (fun s => forAll (fins 8) s lfLatch)
  updDct s (fun d => { d with tPrev := d.tNode, tNode := (now s).units })

/-- ILL_PAGE returns to 0 at a page boundary (R410). -/
def lfPage (s : State) : State := forAll (fins 8) s (fun s n => wrf s (Reg.LF_ERR n) 0 8 0)

/-- LF_CTL.CLR: FAULT, FCAUSE, ILL_PAGE and REFD of each channel named (R417). -/
def lfClear (s : State) (v : Word) : State :=
  forAll ((fins 8).filter (fun (n : Fin 8) => bit v (8 + n.val))) s (fun s n =>
    let s := wrb (wrf s (Reg.LF_STAT n) 28 4 0) (Reg.LF_STAT n) 6 false
    endCond (wrf s (Reg.LF_ERR n) 0 8 0) (0x100 + n))

/-! ## Captures (R420 to R423) -/

def updCap (s : State) (n : Fin 16) (f : CapSt → CapSt) : State := { s with cap := s.cap.upd n f }

/-- LEVEL follows the FIFO. -/
def capLevel (s : State) (n : Fin 16) : State := wrf s (Reg.CAP_STAT n) 24 4 s.cap[n].fifo.length

/-- A captured edge at time `t` (R420, R421). -/
def captureEdge (s : State) (n : Fin 16) (t : Nat) : State :=
  let cfg := rd s (Reg.CAP_CFG n)
  let bt := BTime.ofUnits t
  let c : Word := if bit cfg 28 then s.lf[Fin.ofNat 8 (fld cfg 25 3)].c else 0
  let s := incf (updCap s n (fun k => { k with last := some t })) (Reg.CAP_STAT n) 0 8
  let s := wr s (Reg.CAP_LAST n) (bt.ns.setWidth 32)
  let w := bt.words
  let tag := BitVec.ofNat 32 (s.cap[n].seq % 2 ^ 16 + (activeB s).toNat * 2 ^ 16)
  let s :=
    if 8 ≤ s.cap[n].fifo.length then wrb (incf s (Reg.CAP_STAT n) 16 8) (Reg.CAP_STAT n) 31 true
    else capLevel (updCap s n (fun k => { k with fifo := k.fifo ++ [[w.1, w.2.1, w.2.2, c, tag]] })) n
  let s := deliverCapture (updCap s n (fun k => { k with seq := k.seq + 1 })) n t
  let s := raiseEvent (newInstant s) (0x10 + n.val)
  folEvent s 4 (fun s => rdf s Reg.FOL_TRIG 8 4 == n.val)

/-- A change of a capture line (R420). -/
def captureLine (s : State) (n : Fin 16) (level : Bool) : State :=
  if !lfOn s then s
  else
    let was := s.pins.cap.getLsbD n
    let s := { s with pins := { s.pins with cap := setLevel s.pins.cap n level } }
    let cfg := rd s (Reg.CAP_CFG n)
    let edge := fld cfg 29 2
    let hit := bit cfg 31 && level != was && (if level then edge % 2 == 1 else edge / 2 == 1)
    let t := edgeTime s (fld cfg 16 8)
    let held : Bool := s.cap[n].last.any (fun p => decide (t < p + fld cfg 0 16 * 100 * 2 ^ 24))
    let s :=
      if !hit then s
      else if held then incf s (Reg.CAP_STAT n) 8 8
      else captureEdge s n t
    sampleLines s (capFilt s n)

/-- The oldest entry leaves the FIFO (R422). -/
def capRemove (s : State) (n : Fin 16) : State := capLevel (updCap s n (fun k => { k with fifo := k.fifo.tail })) n

/-- Tags and edges that later strokes use, converted at a change of active domain (R423). -/
def lfConvert (s : State) (d : Int) : State :=
  let mv := fun (t : Nat) => ((t : Int) + d).toNat
  let ed := fun (e : Option StepEdge) => e.map (fun e => { e with t := mv e.t })
  let s := forAll (fins 8) s (fun s n => updLf s n (fun k =>
    { k with e1 := ed k.e1, e0 := ed k.e0, l1 := ed k.l1, l0 := ed k.l0 }))
  let s := forAll (fins 16) s (fun s n => updCap s n (fun k => { k with last := k.last.map mv }))
  let s := forAll (fins 256) s (fun s n => updSlot s n (fun k => { k with caps := k.caps.map mv }))
  updDct s (fun x => { x with tNode := mv x.tNode, tPrev := mv x.tPrev })

/-- A filtered line that changes without a counted transition or a capture (R426): a line of a channel, three to each, or
of a capture input. -/
def lineChange (s : State) (lf : Bool) (idx : Fin 24) (level : Bool) : State :=
  if !lfOn s then s
  else if lf then
    let n : Fin 8 := Fin.ofNat 8 (idx.val / 3)
    let l := lfLine s n
    let r := idx.val % 3
    sampleLines (setLf s n (if r = 0 then level else l.1) (if r = 1 then level else l.2.1) (if r = 2 then level else l.2.2))
      (lfFilt s n)
  else if idx.val < 16 then
    sampleLines { s with pins := { s.pins with cap := setLevel s.pins.cap idx level } } (capFilt s (Fin.ofNat 16 idx.val))
  else s

/-! ## Meanings -/

/-- NODE_INSTANT (R403). -/
def execNodeInstant (s : State) : Host.Outcome State Fault Refusal := .next (nodeInstant s)
/-- QUADRATURE_TRANSITION (R407). -/
def execQuadratureTransition (n : Fin 8) (a b : Bool) (s : State) : Host.Outcome State Fault Refusal :=
  .next (quadrature (newInstant s) n a b)
/-- HALL_TRANSITION (R408, R409). -/
def execHallTransition (n : Fin 8) (code : BitVec 3) (s : State) : Host.Outcome State Fault Refusal := .next (hall (newInstant s) n code)
/-- INDEX_EVENT (R411 to R413). -/
def execIndexEvent (n : Fin 8) (s : State) : Host.Outcome State Fault Refusal := .next (index (newInstant s) n)
/-- SSI_FRAME (R415, R416). -/
def execSsiFrame (n : Fin 8) (startLow : Bool) (raw : Word) (errBit : Bool) (s : State) :
    Host.Outcome State Fault Refusal := .next (ssi (newInstant s) n startLow raw errBit)
/-- STEP_EDGE (R419). -/
def execStepEdge (n : Fin 8) (level b : Bool) (s : State) : Host.Outcome State Fault Refusal := .next (stepLine s n level b)
/-- CAPTURE (R420, R421). -/
def execCapture (n : Fin 16) (level : Bool) (s : State) : Host.Outcome State Fault Refusal := .next (captureLine s n level)
/-- FILTERED_LINE_CHANGE (R426). -/
def execFilteredLineChange (lfLine : Bool) (idx : Fin 24) (level : Bool) (s : State) : Host.Outcome State Fault Refusal :=
  .next (lineChange s lfLine idx level)

end Sys2Proof.Machine
end

