-- ==== Sys2Proof/Machine/QuillCore.lean ====
section
/-! DEFINITION. What each Quill instruction does to its engine and its memories, before the run rules of programs
(R98 to R108). -/

namespace Sys2Proof.Machine

/-! ## Arithmetic of P format (R98) -/

/-- The product of two Q1.15 values as Q1.31. -/
def qProd (x y : Half) : Int := x.toInt * y.toInt * 2

/-- The shift count of ASH: bits [23:18], signed (R93). -/
def ashCount (f : PFmt) : Int := signedOf 6 (f.s1.val * 8 + f.s2.val)

/-- Destination set to a saturated exact result, with flags ZNWO. -/
def putSat (g : QEng) (n : Fin 4) (x : Int) : QEng :=
  let r := sat40 x
  { g with a := g.a.put n r.1, sr := flagsZNWO g.sr r.1 r.2 }

/-- Destination set to a value that lies within 40 bits; S set when it was limited (SAT, CLMP). -/
def putLim (g : QEng) (n : Fin 4) (r : Acc) (lim : Bool) : QEng :=
  { g with a := g.a.put n r, sr := flagSticky (flagsZNWO g.sr r false) lim }

def opMove (_ : PFmt) (g : QEng) : QEng := g
def opMpy (f : PFmt) (g : QEng) : QEng := putSat g f.an (qProd g.d[f.s1] g.d[f.s2])
def opMac (f : PFmt) (g : QEng) : QEng := putSat g f.an (g.a[f.an].toInt + qProd g.d[f.s1] g.d[f.s2])
def opMsu (f : PFmt) (g : QEng) : QEng := putSat g f.an (g.a[f.an].toInt - qProd g.d[f.s1] g.d[f.s2])
def opAdd (f : PFmt) (g : QEng) : QEng := putSat g f.an (g.a[f.an].toInt + q31 g.d[f.s1])
def opSub (f : PFmt) (g : QEng) : QEng := putSat g f.an (g.a[f.an].toInt - q31 g.d[f.s1])
/-- ADDA and SUBA name Am in bits [19:18], the low bits of S2 (R93). -/
def opAdda (f : PFmt) (g : QEng) : QEng := putSat g f.an (g.a[f.an].toInt + g.a[Fin.ofNat 4 f.s2.val].toInt)
def opSuba (f : PFmt) (g : QEng) : QEng := putSat g f.an (g.a[f.an].toInt - g.a[Fin.ofNat 4 f.s2.val].toInt)
def opLda (f : PFmt) (g : QEng) : QEng := putSat g f.an (q31 g.d[f.s1])
def opClr (f : PFmt) (g : QEng) : QEng := putSat g f.an 0
def opNeg (f : PFmt) (g : QEng) : QEng := putSat g f.an (-g.a[f.an].toInt)
def opAbs (f : PFmt) (g : QEng) : QEng := putSat g f.an (Int.ofNat g.a[f.an].toInt.natAbs)
def opAsh (f : PFmt) (g : QEng) : QEng := putSat g f.an (scale2 g.a[f.an].toInt (ashCount f))
def opSat (f : PFmt) (g : QEng) : QEng :=
  let a := g.a[f.an]
  if wide a then putLim g f.an (if a.msb then 0xFF80000000#40 else 0x007FFFFFFF#40) true else putLim g f.an a false
def opClmp (f : PFmt) (g : QEng) : QEng :=
  let a := g.a[f.an].toInt
  let b := max a (q31 g.d[f.s1])
  let c := min b (q31 g.d[f.s2])
  putLim g f.an (BitVec.ofInt 40 c) (decide (b ≠ a) || decide (c ≠ b))
def opCmp (f : PFmt) (g : QEng) : QEng :=
  let r := sat40 (g.a[f.an].toInt - q31 g.d[f.s1])
  { g with sr := flagsZNWO g.sr r.1 r.2 }

/-- The arithmetic of a P-format operation (R98). -/
def parArith : POp → PFmt → QEng → QEng
  | .move => opMove | .mpy => opMpy | .mac => opMac | .msu => opMsu | .add => opAdd | .sub => opSub
  | .adda => opAdda | .suba => opSuba | .lda => opLda | .clr => opClr | .neg => opNeg | .abs => opAbs
  | .ash => opAsh | .sat => opSat | .clmp => opClmp | .cmp => opCmp

/-! ## Moves of P format (R94, R99) -/

/-- One move, reading pointer and register from the engine `g` as it stood before the instruction. `quiet` drops the
loaded value (R99). -/
def qMove (s : State) (e : Fin 16) (g : QEng) (y : Bool) (mv : Option QMove) (quiet : Bool) : State :=
  match mv with
  | none => s
  | some v =>
    let a := ptr g y v.p
    let s := if v.store then qWrite s e y a g.d[v.d] else if quiet then s else setD s e v.d (qRead s e y a)
    setPtr s e y v.p (postMod g y v.p v.mod 1)

/-- Both moves load one D register (R99). -/
def moveConflict (f : PFmt) : Bool :=
  match f.xm, f.ym with
  | some x, some y => !x.store && !y.store && x.d == y.d
  | _, _ => false

/-- A P-format instruction: arithmetic and moves, all sources read first (R92 to R94, R99). -/
def parEffect (arith : PFmt → QEng → QEng) (f : PFmt) (e : Fin 16) (s : State) : State :=
  let g := eng s e
  let c := moveConflict f
  let s := updEng s e (arith f)
  let s := qMove s e g false f.xm c
  let s := qMove s e g true f.ym false
  when c s (fun s => wrb s (Reg.QE_STICKY e) 4 true)

/-! ## Loads, stores and transfers (R98, R99) -/

/-- Whether an LD in pointer mode names the very pointer it post-modifies (R99). -/
def ldConflict (reg : Fin 32) (y : Bool) : QAddr → Bool
  | .ptr p mod => mod.val ≠ 0 && reg.val == (if y then 20 else 16) + p.val
  | .abs _ => false

def ldEffect (reg : Fin 32) (y : Bool) (a : QAddr) (e : Fin 16) (s : State) : State :=
  let v := qRead s e y (operandAddr (eng s e) y a).1
  let s := operandMod s e y 1 a
  let s := updEng s e (fun g => writeReg g reg v)
  when (ldConflict reg y a) s (fun s => wrb s (Reg.QE_STICKY e) 4 true)

def stEffect (reg : Fin 32) (y : Bool) (a : QAddr) (e : Fin 16) (s : State) : State :=
  let g := eng s e
  let v := readReg g reg
  let s := qWrite s e y (operandAddr g y a).1 v.1
  setSr (operandMod s e y 1 a) e (fun sr => flagSticky sr v.2)

def ldiEffect (reg : Fin 32) (imm : Half) (e : Fin 16) (s : State) : State :=
  updEng s e (fun g => writeReg g reg imm)

def movrEffect (dst src : Fin 32) (e : Fin 16) (s : State) : State :=
  let v := readReg (eng s e) src
  setSr (updEng s e (fun g => writeReg g dst v.1)) e (fun sr => flagSticky sr v.2)

/-- MOVS; when SR is the destination the narrowing of the source does not set S (R80). -/
def movsEffect (reg : Fin 32) (toSpecial : Bool) (spec : Fin 14) (e : Fin 16) (s : State) : State :=
  if toSpecial then
    let v := readReg (eng s e) reg
    let s := updEng s e (fun g => writeSpec g spec v.1)
    if spec.val = 0 then s else setSr s e (fun sr => flagSticky sr v.2)
  else updEng s e (fun g => writeReg g reg (readSpec g spec))

def ldlEffect (an : Fin 4) (y : Bool) (a : QAddr) (e : Fin 16) (s : State) : State :=
  let w := operandAddr (eng s e) y a
  let v : Word := (qRead s e y w.2) ++ (qRead s e y w.1)
  let s := operandMod s e y 2 a
  updEng s e (fun g => putSat g an v.toInt)

def stlEffect (an : Fin 4) (y : Bool) (a : QAddr) (e : Fin 16) (s : State) : State :=
  let g := eng s e
  let w := operandAddr g y a
  let v := narrow32 g.a[an]
  let s := qWrite (qWrite s e y w.1 (v.1.extractLsb' 0 16)) e y w.2 (v.1.extractLsb' 16 16)
  setSr (operandMod s e y 2 a) e (fun sr => flagSticky sr v.2)

def addiEffect (an : Fin 4) (imm : Half) (e : Fin 16) (s : State) : State :=
  updEng s e (fun g => putSat g an (g.a[an].toInt + q31 imm))

/-! ## PERR, GLU and ROT (R100 to R103) -/

/-- The 48-bit position whose words stand at a pointer, fraction first (R100). -/
def posAt (s : State) (e : Fin 16) (y : Bool) (p : Fin 4) : Pos48 :=
  let g := eng s e
  let w := fun i => qRead s e y (wordAfter (ptr g y p) g.k[p] i)
  (w 2) ++ ((w 1) ++ (w 0))

def perrEffect (an : Fin 4) (p q : Fin 4) (inc : Bool) (e : Fin 16) (s : State) : State :=
  let d : Pos48 := posAt s e false p - posAt s e true q
  let g := eng s e
  let s := updEng s e (fun g => putSat g an d.toInt)
  if inc then
    setPtr (setPtr s e false p (stepPtr (ptr g false p) g.k[p] 3)) e true q (stepPtr (ptr g true q) g.k[q] 3)
  else s

/-- The interpolated gain of a 64-entry table at Y address `b` for the error `e` (R101). A table that runs past word
0x3FFF goes on at word 0: DESIGN CHOICE (log entry 113). -/
def gainAt (tab : BitVec 14 → Half) (b : BitVec 14) (ds : Half) : Half :=
  let e : Nat := min ds.toInt.natAbs 0x7FFF
  let i := e / 512
  let f := e % 512
  let g0 := (tab (b + BitVec.ofNat 14 i)).toInt
  let g1 := if i = 63 then g0 else (tab (b + BitVec.ofNat 14 (i + 1))).toInt
  BitVec.ofInt 16 (g0 + shr ((g1 - g0) * f) 9)

def gluEffect (dd ds : Fin 8) (gb : Fin 4) (e : Fin 16) (s : State) : State :=
  let g := eng s e
  setD s e dd (gainAt (fun w => qRead s e true w) g.gb[gb] g.d[ds])

/-- π in units of 2^-96. -/
def piFix : Nat := 248902613312231085230521944622

/-- Terms of the sine series at x in units of 2^-96, x2 being x squared: `t` is the present term, `k` its index. -/
def sinTerms (x2 : Nat) : Nat → Nat → Nat → Int
  | 0, _, _ => 0
  | n + 1, k, t => (t : Int) - sinTerms x2 n (k + 1) (t * x2 / 2 ^ 96 / ((2 * k + 2) * (2 * k + 3)))

/-- The sine ROM: S[i] = floor(32 767 × sin(π × i / 2048)) for i = 0 to 1024 (R102). The series is exact to far below
2^-40, which is added so that S[1024] is 0x7FFF; no other entry lies that near to a whole number. -/
def sineRom (i : Nat) : Int :=
  let x := piFix * i / 2048
  (32767 * sinTerms (x * x / 2 ^ 96) 16 0 x + 2 ^ 56) / 2 ^ 96

/-- sine(a) of a 12-bit table address (R102). -/
def sine (a : Nat) : Int :=
  let a := a % 4096
  if a ≤ 1024 then sineRom a
  else if a ≤ 2048 then sineRom (2048 - a)
  else if a ≤ 3072 then -(sineRom (a - 2048))
  else -(sineRom (4096 - a))

def rotEffect (inverse hiPair : Bool) (da db dth : Fin 8) (e : Fin 16) (s : State) : State :=
  let g := eng s e
  let a := g.d[dth].toNat / 16
  let sn := sine a
  let cs := sine (a + 1024)
  let x := g.d[da].toInt
  let y := g.d[db].toInt
  let r1 := if inverse then (x * cs - y * sn) * 2 else (x * cs + y * sn) * 2
  let r2 := if inverse then (x * sn + y * cs) * 2 else (y * cs - x * sn) * 2
  let n : Fin 4 := if hiPair then 2 else 0
  let m : Fin 4 := if hiPair then 3 else 1
  updEng s e (fun g =>
    { g with a := (g.a.put n (BitVec.ofInt 40 r1)).put m (BitVec.ofInt 40 r2),
             sr := flagsZN g.sr (BitVec.ofInt 40 r2) })

/-! ## Repeats and flow (R104 to R108) -/

/-- What follows an instruction's own effect. -/
inductive QCtl where
  /-- Complete: the next instruction, or the start of a repeat body whose end this is. -/
  | adv
  /-- Complete, and execution goes on as if the instruction at the address had completed (R104). -/
  | asIf (last : BitVec 12)
  | goto (pc : BitVec 12)
  /-- The program stops with CAUSE (R114). -/
  | stop (cause : Nat)
  | fin
deriving DecidableEq, Repr

/-- Where execution goes when the instruction at `pc` completes, and the repeat levels then (R106, R108). Only the
innermost level is tested first, as R106 has it: an instruction at the end address of an outer level, inside another
level whose end lies elsewhere, goes on to the next address. DESIGN CHOICE (log entry 113): R106 does not say what it
does there. -/
def loopBack (pc : BitVec 12) : List RepLevel → BitVec 12 × List RepLevel
  | [] => (pc + 1, [])
  | l :: r =>
    if l.last = pc then
      if 1 < l.left.toNat then (l.first, { l with left := l.left - 1 } :: r) else loopBack pc r
    else (pc + 1, l :: r)

/-- Where execution goes after a REP of count 0 with end `e`, and the repeat levels then: every active level whose end
is `e` is tested, the innermost first, and levels with another end stay as they are (R104; log entry 113). -/
def loopSkip (e : BitVec 12) : List RepLevel → BitVec 12 × List RepLevel
  | [] => (e + 1, [])
  | l :: r =>
    if l.last = e then
      if 1 < l.left.toNat then (l.first, { l with left := l.left - 1 } :: r) else loopSkip e r
    else let q := loopSkip e r; (q.1, l :: q.2)

/-- The instruction at PC stands at the end address of an active level, whichever it is (R106; log entry 113). -/
def atLoopEnd (g : QEng) : Bool := g.reps.any (fun l => l.last == g.pc)

/-- The body of a level contains the address (R107). -/
def RepLevel.contains (l : RepLevel) (a : BitVec 12) : Bool := l.first.toNat ≤ a.toNat && a.toNat ≤ l.last.toNat

/-- A taken JMP pops the levels, innermost first, whose body does not contain the target (R107). -/
def jmpFlow (cond : Fin 13) (target : BitVec 12) (e : Fin 16) (s : State) : State × QCtl :=
  let g := eng s e
  if atLoopEnd g then (s, .stop 1)
  else if condHolds g.sr cond then
    (updEng s e (fun g => { g with reps := g.reps.filter (·.contains target) }), .goto target)
  else (s, .adv)

/-- CALL: at the end address of an active level it stops the program whatever its condition says. DESIGN CHOICE for a
condition that is false, for which R106 has the stop and R108 has none (log entry 113). -/
def callFlow (cond : Fin 13) (target : BitVec 12) (e : Fin 16) (s : State) : State × QCtl :=
  let g := eng s e
  if atLoopEnd g then (s, .stop 1)
  else if condHolds g.sr cond then
    if 3 ≤ g.calls.length then (s, .stop 3)
    else (updEng s e (fun g => { g with calls := (g.pc + 1) :: g.calls }), .goto target)
  else (s, .adv)

/-- RET, stopped at the end address of an active level as CALL is (R106, R108; log entry 113). -/
def retFlow (cond : Fin 13) (e : Fin 16) (s : State) : State × QCtl :=
  let g := eng s e
  if atLoopEnd g then (s, .stop 1)
  else if condHolds g.sr cond then
    match g.calls with
    | [] => (s, .stop 4)
    | a :: r => (updEng s e (fun g => { g with calls := r }), .goto a)
  else (s, .adv)

/-- The count of REP (R104). -/
def repCount (g : QEng) : QCount → BitVec 13
  | .imm c => c
  | .reg d => (g.d[d]).setWidth 13

/-- REP: its end is tested first, then the count, and then the stack, so a REP of count 0 skips its body at any depth.
DESIGN CHOICE for a count of 0 while three levels are active (R104, R105; log entry 113). -/
def repFlow (c : QCount) (last : BitVec 12) (e : Fin 16) (s : State) : State × QCtl :=
  let g := eng s e
  if atLoopEnd g || last.toNat ≤ g.pc.toNat then (s, .stop 1)
  else if repCount g c = 0 then (s, .asIf last)
  else if 3 ≤ g.reps.length then (s, .stop 2)
  else
    (updEng s e (fun g => { g with reps := { first := g.pc + 1, last := last, left := repCount g c } :: g.reps }),
      .goto (g.pc + 1))

def finFlow (e : Fin 16) (s : State) : State × QCtl := if atLoopEnd (eng s e) then (s, .stop 1) else (s, .fin)

/-- An instruction's own effect and what follows it (R98). -/
def instrEffect (i : QInstr) (e : Fin 16) (s : State) : State × QCtl :=
  match i with
  | .par op f => (parEffect (parArith op) f e s, .adv)
  | .ld r y a => (ldEffect r y a e s, .adv)
  | .st r y a => (stEffect r y a e s, .adv)
  | .ldi r v => (ldiEffect r v e s, .adv)
  | .movr d r => (movrEffect d r e s, .adv)
  | .movs r t c => (movsEffect r t c e s, .adv)
  | .ldl n y a => (ldlEffect n y a e s, .adv)
  | .stl n y a => (stlEffect n y a e s, .adv)
  | .addi n v => (addiEffect n v e s, .adv)
  | .perr n p q inc => (perrEffect n p q inc e s, .adv)
  | .glu d r b => (gluEffect d r b e s, .adv)
  | .rot inv hi a b t => (rotEffect inv hi a b t e s, .adv)
  | .jmp c t => jmpFlow c t e s
  | .call c t => callFlow c t e s
  | .ret c => retFlow c e s
  | .rep c l => repFlow c l e s
  | .fin => finFlow e s

end Sys2Proof.Machine
end

