-- ==== Sys2Proof/Machine/AxisLib.lean ====
section
/-! DEFINITION. The loop library: what the blocks chained for an axis compute in one run of its program (R122 to R130,
R138 to R141, R151, R155, R156, R160 to R163). The manual fixes these results and not the instructions that reach them
(R601), so a library program brings them about at its FIN (log entry 101).

Q1.15 values and limits are whole numbers in units of 2^-15, accumulator values in units of 2^-31, positions in units of
2^-16 count, and angles in units of 2^-16 table address. -/

namespace Sys2Proof.Machine

/-! ## Chains (R57, R127) -/

/-- The divisor of a chained block and its phase. -/
def chainAt (c : List ChainEnt) (b : ChainBlock) : Option (Nat × Nat) :=
  (c.find? (fun e => e.block == b)).map (fun e => (e.div, e.phase))

def chained (c : List ChainEnt) (b : ChainBlock) : Bool := (chainAt c b).isSome

/-- A chained block runs in the strokes whose number, modulo its divisor, is its phase (R57). -/
def runsIn (c : List ChainEnt) (b : ChainBlock) (stroke : Nat) : Bool :=
  match chainAt c b with
  | some (d, p) => stroke % d == p
  | none => false

/-! ## Narrowing and limits -/

/-- sat16 of a value, and whether it was limited. -/
def lib16 (x : Int) : Int × Bool :=
  if 32767 < x then (32767, true) else if x < -32768 then (-32768, true) else (x, false)

/-- sat40 of a value, and whether it was limited. -/
def lib40 (x : Int) : Int × Bool := ((sat40 x).1.toInt, (sat40 x).2)

/-- A value clamped to plus and minus a limit, and whether it was limited. -/
def libClamp (lim x : Int) : Int × Bool :=
  let b := max x (-lim)
  let c := min b lim
  (c, decide (b ≠ x) || decide (c ≠ b))

/-! ## One run -/

/-- What a run reads: the records of the axis (R120, R124, R125), the stroke descriptor (R84), and Y memory. -/
structure LibIn where
  fb : Tab 16 Half
  par : Tab 16 Half
  bank : Tab 32 Half
  table : BitVec 14 → Half
  chain : List ChainEnt
  policy : BitVec 2
  place : Bool
  cmdAngle : Bool
  /-- Strokes since page 0, the latency in ns, and the stroke period in ns. -/
  stroke : Nat
  lat : Nat
  period : Nat
  /-- Output words last released (R66). -/
  out : Tab 5 Half
  /-- A value that no rule states: the reference where no VEL is chained (log entry 104). -/
  noRef : Int

/-- The values of a run as its blocks hand them on, and S (R89). -/
structure LibRun where
  st : LibSt
  s : Bool
  p : Pos48
  v : Int
  ak : Int
  da : Int
  id : Int
  iq : Int
  idp : Int
  iqp : Int
  aout : Int
  vref : Int
  iref : Int
  ud : Int
  uq : Int
  stall : Bool

/-- A field of a word. -/
def hfld (h : Half) (lo n : Nat) : Nat := (h.toNat >>> lo) % 2 ^ n

/-- The position of three words of the feedback record, fraction first (R120). -/
def fbPos (i : LibIn) (n : Nat) : Pos48 := i.fb[(Fin.ofNat 16 (n + 2))] ++ (i.fb[(Fin.ofNat 16 (n + 1))] ++ i.fb[(Fin.ofNat 16 n)])

/-- Feedback age (R120). -/
def libAge (i : LibIn) : Nat := hfld i.fb[(7 : Fin 16)] 0 8

/-- STALE: the integrators are held, and the outputs keep their last released values (R140). -/
def libStale (i : LibIn) : Bool := decide (3 ≤ libAge i)

def libIdle (i : LibIn) : Bool := i.fb[(13 : Fin 16)].getLsbD 0

/-- Coast or short: the axis has a standstill output of its own (R153). -/
def libOff (i : LibIn) : Bool := i.policy != 2

/-- One revolution of the commutation table. -/
def libTurn : Int := 4096 * 65536

/-- A position on the commutation scale: × CNUM × 2^-CSH, truncated to 2^-16 address (R129, R139). -/
def libScale (i : LibIn) (x : Int) : Int := shr (x * i.par[(0 : Fin 16)].toNat) (hfld i.par[(1 : Fin 16)] 0 4)

/-- The commutation offset COFF. -/
def libOffset (i : LibIn) : Int := (hfld i.par[(2 : Fin 16)] 4 12 * 65536 : Nat)

/-- The difference of two positions as PERR forms it (R100, R129). -/
def libPerr (p q : Pos48) : Int × Bool := lib40 (p - q).toInt

/-- The state at the first run of all: the present position, and the bank's TAG (log entry 105). -/
def libFirst (i : LibIn) (st : LibSt) : LibSt :=
  if st.ran then st else { LibSt.reset with ran := true, pPrev := fbPos i 0, tag := i.bank[(24 : Fin 32)] }

/-- Leaving standstill: the first stroke in which IDLE is 0 (R156). -/
def libLeave (i : LibIn) (st : LibSt) : LibSt :=
  if libIdle i then st
  else if st.still && libOff i then
    { st with still := false, dwell := 0, intV := 0, intD := 0, intQ := 0, reeng := i.par[(10 : Fin 16)].toNat }
  else { st with still := false, dwell := 0 }

/-- ROT in the forward direction on two currents at a table address, narrowed to Q1.15 (R102, R103, R129). -/
def libRot (al be : Int) (a : Nat) : (Int × Int) × Bool :=
  let sn := sine a
  let cs := sine (a + 1024)
  let d := lib16 (shr ((al * cs + be * sn) * 2) 16)
  let q := lib16 (shr ((be * cs - al * sn) * 2) 16)
  ((d.1, q.1), d.2 || q.2)

/-- 1/√3 with 31 fraction bits, rounded down (R129). -/
def invSqrt3 : Nat := isqrt (2 ^ 62 / 3)

/-- clarke of two of three phase currents (R129). -/
def clarke3 (u w : Int) : (Int × Int) × Bool :=
  let b := lib16 (shr ((u + 2 * w) * invSqrt3) 31)
  ((u, b.1), b.2)

/-- clarke(U, V); a two-phase stepper's currents are α and β themselves (R129). -/
def libClarke (i : LibIn) : (Int × Int) × Bool :=
  let u := i.fb[(3 : Fin 16)].toInt
  let w := i.fb[(4 : Fin 16)].toInt
  if i.par[(11 : Fin 16)].getLsbD 4 then ((u, w), false) else clarke3 u w

/-- FBK: position, advance, velocity, sampled angle and currents; a sample that is not fresh is the committed prediction
(R129, R131, R140). -/
def libFbk (i : LibIn) (r : LibRun) : LibRun :=
  let st := r.st
  let fresh := libAge i == 0
  let d := if fresh then libPerr (fbPos i 0) st.pPrev else (st.dp.toInt, false)
  let p := if fresh then fbPos i 0 else BitVec.ofInt 48 (st.pPrev.toInt + d.1)
  let v := lib16 (shr (d.1 * i.par[(3 : Fin 16)].toNat * (2 ^ hfld i.par[(1 : Fin 16)] 4 4 : Nat)) 16)
  let ak := (libScale i p.toInt + libOffset i) % libTurn
  let c : (Int × Int) × Bool :=
    if i.place then ((i.fb[(3 : Fin 16)].toInt, i.fb[(4 : Fin 16)].toInt), false)
    else if fresh then
      let k := libClarke i
      let t := libRot k.1.1 k.1.2 (ak / 65536).toNat
      (t.1, k.2 || t.2)
    else ((st.idp.toInt, st.iqp.toInt), false)
  { r with
    st := { st with pPrev := p, dp := BitVec.ofInt 40 d.1 }
    s := r.s || d.2 || v.2 || c.2
    p, v := v.1, ak, da := libScale i d.1, id := c.1.1, iq := c.1.2, idp := c.1.1, iqp := c.1.2, aout := ak }

/-- PRED: the currents at the next node instant and the output angle; under STALE the angle advances by Δa
(R138 to R140). -/
def libPred (i : LibIn) (r : LibRun) : LibRun :=
  if !chained i.chain .pred then r
  else
    let pg := i.par[(4 : Fin 16)].toInt
    let pr := i.par[(5 : Fin 16)].toInt
    let px := i.par[(6 : Fin 16)].toInt
    let ke := i.par[(7 : Fin 16)].toInt
    let ud := i.out[(2 : Fin 5)].toInt
    let uq := i.out[(3 : Fin 5)].toInt
    let bd := ud * 2 ^ 30 - pr * r.id * 2 ^ 15 + px * r.v * r.iq
    let bq := uq * 2 ^ 30 - pr * r.iq * 2 ^ 15 - px * r.v * r.id - ke * r.v * 2 ^ 15
    let d := lib16 (shr (r.id * 2 ^ 45 + pg * bd) 45)
    let q := lib16 (shr (r.iq * 2 ^ 45 + pg * bq) 45)
    let a := match libStale i, r.st.aout with
      | true, some b => (b + r.da) % libTurn
      | _, _ => (r.ak + r.da * (2 * i.lat + i.period : Nat) / (2 * i.period : Nat)) % libTurn
    { r with
      st := { r.st with idp := BitVec.ofInt 16 d.1, iqp := BitVec.ofInt 16 q.1, aout := some a }
      s := r.s || d.2 || q.2, idp := d.1, iqp := q.1, aout := a }

/-- The output of a divided block in use in a stroke: the new one from its stroke on, until then the one published
before (R58, R129). Strokes are counted from page 0 and wrap with PAGE (R51). -/
def LibLoop.use (l : LibLoop) (k : Nat) : Half := if strokeReached l.due k then l.next else l.cur

/-- A divided block's new output, computed in stroke `k` with divisor `d` (R58). -/
def LibLoop.put (l : LibLoop) (k d : Nat) (x : Int) : LibLoop :=
  { cur := l.use k, next := BitVec.ofInt 16 x, due := (k + d - 1) % 2 ^ 32 }

/-- POS: the velocity reference; v_cmd where POS is not chained (R129). -/
def libPos (i : LibIn) (r : LibRun) : LibRun :=
  match chainAt i.chain .pos with
  | none => { r with vref := i.fb[(11 : Fin 16)].toInt }
  | some (d, _) =>
    let e := libPerr (fbPos i 8) r.p
    let x := lib16 (shr (i.bank[(0 : Fin 32)].toInt * e.1 * (2 ^ hfld i.bank[(7 : Fin 32)] 12 4 : Nat)
      + i.bank[(1 : Fin 32)].toInt * i.fb[(11 : Fin 16)].toInt * 2 ^ 16) 31)
    let now := runsIn i.chain .pos (i.stroke % 64)
    let l := if now then r.st.pos.put i.stroke d x.1 else r.st.pos
    { r with st := { r.st with pos := l }, s := r.s || (now && (e.2 || x.2)), vref := (l.use i.stroke).toInt }

/-- The proportional term of VEL: the effective gain by table GT0, or 1 where no table is named (R129, R141). -/
def libProp (i : LibIn) (ev : Int) : Int × Bool :=
  let kp := i.bank[(3 : Fin 32)].toInt
  let sh := hfld i.bank[(7 : Fin 32)] 8 4
  if i.bank[(19 : Fin 32)] = 0 then lib40 (kp * ev * 2 * (2 ^ sh : Nat))
  else
    let e := lib16 (ev * (2 ^ hfld i.bank[(8 : Fin 32)] 0 4 : Nat))
    let g := gainAt i.table (i.bank[(19 : Fin 32)].setWidth 14) (BitVec.ofInt 16 e.1)
    let x := lib40 (shr (kp * ev * g.toInt * (2 ^ (sh + hfld i.bank[(7 : Fin 32)] 0 4) : Nat)) 14)
    (x.1, e.2 || x.2)

/-- I_LIM and U_LIM in units of 2^-31. -/
def libILim (i : LibIn) : Int := i.bank[(9 : Fin 32)].toInt * 2 ^ 16
def libULim (i : LibIn) : Int := i.bank[(10 : Fin 32)].toInt * 2 ^ 16

/-- FILT: the velocity biquad with the bank's coefficients on the reference, its last two inputs and its last two
outputs. Its form and its precision are not in the manual, so its result is free (R125, R127; log entry 104). -/
def libFilt (i : LibIn) (st : LibSt) (x : Half) : Half :=
  Config.biquad #v[i.bank[(11 : Fin 32)], i.bank[(12 : Fin 32)], i.bank[(13 : Fin 32)], i.bank[(14 : Fin 32)],
    i.bank[(15 : Fin 32)]] #v[x, st.filt[0], st.filt[1]] #v[st.filt[2], st.filt[3]]

/-- One run of VEL: proportional term, bumpless transfer at a new TAG, integrator, reference, and the dwell of R155
(R129, R140, R141, R151, R155). -/
def libVelRun (i : LibIn) (r : LibRun) (d : Nat) : LibRun :=
  let st := r.st
  let ev := r.vref - r.v
  let prop := libProp i ev
  let tag := i.bank[(24 : Fin 32)]
  let i0 := if tag != st.tag && i.bank[(23 : Fin 32)].getLsbD 0 then st.intV + st.prop - prop.1 else st.intV
  let iv := if libStale i then (i0, false) else libClamp (libILim i) (i0 + i.bank[(4 : Fin 32)].toInt * ev * 2)
  let x := libClamp (libILim i) (prop.1 + iv.1 + i.bank[(2 : Fin 32)].toInt * i.fb[(12 : Fin 16)].toInt * 2)
  let in0 := BitVec.ofInt 16 (shr x.1 16)
  let y := if chained i.chain .filt then libFilt i st in0 else in0
  let slow := libIdle i && decide ((r.v.natAbs : Int) < i.par[(8 : Fin 16)].toInt)
  { r with
    st := { st with intV := iv.1, prop := prop.1, tag, vel := st.vel.put i.stroke d y.toInt
                    filt := if chained i.chain .filt then #v[in0, st.filt[0], y, st.filt[2]] else st.filt
                    dwell := if slow then min (st.dwell + 1) 4095 else 0 }
    s := r.s || prop.2 || iv.2 || x.2 }

/-- VEL and FILT: the current reference (R127, R129). -/
def libVel (i : LibIn) (r : LibRun) : LibRun :=
  match chainAt i.chain .vel with
  | none => { r with iref := i.noRef }
  | some (d, _) =>
    let r := if runsIn i.chain .vel (i.stroke % 64) then libVelRun i r d else r
    { r with iref := (r.st.vel.use i.stroke).toInt }

/-- One component scaled onto the unit circle, rounded towards zero (R8, R129; log entry 106). -/
def libOnCircle (u : Int) (r2 : Nat) : Int :=
  let m : Int := isqrt (u.natAbs * u.natAbs * 2 ^ 30 / r2)
  if u < 0 then -m else m

/-- circle_limit (R129). -/
def libCircle (d q : Int) : (Int × Int) × Bool :=
  let r2 := d.natAbs * d.natAbs + q.natAbs * q.natAbs
  if r2 ≤ 2 ^ 30 then ((d, q), false) else ((libOnCircle d r2, libOnCircle q r2), true)

/-- One axis of CUR: integrator and amplitude from an error (R129). The amplitude is cut to Q1.15 here, before
circle_limit: DEDUCED, as the manual does not say where it is narrowed (log entry 106). -/
def libCurAxis (i : LibIn) (int e : Int) : (Int × Int) × Bool :=
  let n := libClamp (libULim i) (int + i.bank[(6 : Fin 32)].toInt * e * 2)
  let u := libClamp (libULim i) (i.bank[(5 : Fin 32)].toInt * e * 2 * (2 ^ hfld i.bank[(7 : Fin 32)] 4 4 : Nat) + n.1)
  ((n.1, shr u.1 16), n.2 || u.2)

/-- CUR: the amplitudes; under STALE they keep their last released values (R129, R140). -/
def libCur (i : LibIn) (r : LibRun) : LibRun :=
  if !chained i.chain .cur then r
  else if libStale i then { r with ud := i.out[(2 : Fin 5)].toInt, uq := i.out[(3 : Fin 5)].toInt }
  else
    let d := libCurAxis i r.st.intD (0 - r.idp)
    let q := libCurAxis i r.st.intQ (r.iref - r.iqp)
    let c := libCircle d.1.2 q.1.2
    { r with st := { r.st with intD := d.1.1, intQ := q.1.1 }, s := r.s || d.2 || q.2 || c.2, ud := c.1.1, uq := c.1.2 }

/-- Table address of word 1: of the output angle, or of the commanded position for a chain that commutates from it
(R129, R139, R209). -/
def libAddr (i : LibIn) (r : LibRun) : Nat :=
  ((if i.cmdAngle then libScale i (fbPos i 8).toInt + libOffset i else r.aout) / 65536 % 4096).toNat

/-- COMM, and the reference a node-side axis sends: output words 0 to 3 (R122, R129 to R131, R140). -/
def libComm (i : LibIn) (r : LibRun) : Tab 5 Half :=
  if i.place then
    if libStale i then #v[1, 0, i.out[(2 : Fin 5)], i.out[(3 : Fin 5)], 0] else #v[1, 0, 0, BitVec.ofInt 16 r.iref, 0]
  else #v[0, BitVec.ofNat 16 (libAddr i r * 16), BitVec.ofInt 16 r.ud, BitVec.ofInt 16 r.uq, 0]

/-- STALL runs in this stroke: with POS, or in every stroke where POS is not chained (R127). -/
def stallRuns (c : List ChainEnt) (stroke : Nat) : Bool :=
  chained c .stall && (!chained c .pos || runsIn c .pos stroke)

/-- STALL: the run count of the deviation, and the declaration, once until the count has returned to 0 (R160, R161,
R163). -/
def libStall (i : LibIn) (r : LibRun) : LibRun :=
  if !stallRuns i.chain (i.stroke % 64) then r
  else
    let dev := (libPerr (fbPos i 8) r.p)
    let st := r.st
    let r := { r with s := r.s || dev.2 }
    if (st.still && libOff i) || st.reeng != 0 || libAge i != 0 then r
    else if i.bank[(16 : Fin 32)].toNat + 65536 * i.bank[(17 : Fin 32)].toNat < dev.1.natAbs then
      let n := min (st.dev + 1) 4096
      let new := !st.declared && n != st.dev && n == i.bank[(18 : Fin 32)].toNat + 1
      { r with st := { st with dev := n, declared := st.declared || new }, stall := new }
    else { r with st := { st with dev := 0, declared := false } }

/-- STILL, entering: the dwell is reached in a stroke with IDLE; under coast or short the integrators are cleared
(R155). An axis without the block has no standstill. -/
def libEnter (i : LibIn) (r : LibRun) : LibRun :=
  if !chained i.chain .still then { r with st := { r.st with still := false } }
  else
    let st := r.st
    let still := st.still || (libIdle i && decide (max i.par[(9 : Fin 16)].toNat 1 ≤ st.dwell))
    { r with st := if still && libOff i then { st with still, intV := 0, intD := 0, intQ := 0 } else { st with still } }

/-- Status word 4 (R122, R129). -/
def libStatus (i : LibIn) (r : LibRun) : Half :=
  BitVec.ofNat 16 (r.st.still.toNat + 2 * r.stall.toNat + 4 * (libStale i).toNat + 8 * (r.st.reeng != 0).toNat
    + 16 * (chained i.chain .still && r.s).toNat + 256 * min r.st.dev 255)

/-- One run of a chain: the state it leaves and its output record (R122, R127, R129, R153). POLICY 0b11 is not assigned;
the load rejects it, and here it would be short: DESIGN CHOICE (R124; log entry 114). -/
def libStep (i : LibIn) (st : LibSt) : LibSt × Tab 5 Half :=
  let st := libLeave i (libFirst i st)
  let r : LibRun := { st, s := false, p := 0, v := 0, ak := 0, da := 0, id := 0, iq := 0, idp := 0, iqp := 0, aout := 0
                      vref := 0, iref := 0, ud := 0, uq := 0, stall := false }
  let r := libCur i (libVel i (libPos i (libPred i (libFbk i r))))
  let words := libComm i r
  let r := libEnter i (libStall i r)
  let off := r.st.still && libOff i
  let words := if off then #v[if i.policy = 0 then 2 else 3, 0, 0, 0, 0] else words
  ({ r.st with reeng := r.st.reeng - 1 }, words.set 4 (libStatus i r))

/-! ## The ROM loop program of draft service (R261, R262; log entry 31) -/

/-- Word `i` of the entry of a draft axis. -/
def DraftAxis.word (d : DraftAxis) (i : Nat) : Word := d.words.getD i 0

/-- A Q1.15 gain with its shift applied to `x`, truncated; SH is the field [15:12] of its word. -/
def draftGain (w : Word) (x : Int) : Int := shr ((w.extractLsb' 16 16).toInt * x * (2 ^ fld w 12 4 : Nat)) 15

/-- A PI loop at 16-bit precision: its new integrator and its output, each within the limit. `g` holds the proportional
gain, `k` the integral gain and the limit. -/
def draftPi (g k : Word) (int e : Int) : Int × Int :=
  let lim : Int := fld k 0 16
  let n := (libClamp lim (int + shr ((k.extractLsb' 16 16).toInt * e) 15)).1
  (n, (libClamp lim (draftGain g e + n)).1)

/-- Position error in counts, saturated to ±32 767 (R8, R262). -/
def draftErr (d : DraftAxis) (h : Int) : Int :=
  max (-32767) (min 32767 (shr (BitVec.ofInt 48 (h - d.pos)).toInt 16))

/-- A position on the commutation scale in 2^-16 address. -/
def draftScale (d : DraftAxis) (x : Int) : Int := shr (x * fld (d.word 6) 16 16) (fld (d.word 6) 12 4)

/-- The sampled angle, without the offset of one stroke's advance. -/
def draftAngle (d : DraftAxis) : Int := (draftScale d d.pos + (fld (d.word 6) 0 12 * 65536 : Nat)) % libTurn

/-- The current reference: position loop, and velocity loop with its integrator. -/
def draftRef (d : DraftAxis) (h : Int) : Int × Int :=
  let vref := (lib16 (draftGain (d.word 1) (draftErr d h))).1
  let v := (lib16 (shr (d.speed * fld (d.word 7) 16 16 * (2 ^ fld (d.word 7) 12 4 : Nat)) 16)).1
  draftPi (d.word 2) (d.word 3) d.intV (vref - v)

/-- One run for an axis that holds position `h`: output words, and the axis with its new integrators (R262). -/
def draftRun (d : DraftAxis) (fb : Tab 16 Half) (h : Int) : Tab 5 Half × DraftAxis :=
  let r := draftRef d h
  let d := { d with intV := r.1 }
  if d.mode = 1 then (#v[1, 0, 0, BitVec.ofInt 16 r.2, 0], d)
  else
    let k := (clarke3 fb[(3 : Fin 16)].toInt fb[(4 : Fin 16)].toInt).1
    let a := draftAngle d
    let c := (libRot k.1 k.2 (a / 65536).toNat).1
    let ud := draftPi (d.word 4) (d.word 5) d.intD (0 - c.1)
    let uq := draftPi (d.word 4) (d.word 5) d.intQ (r.2 - c.2)
    let out := (((a + draftScale d d.speed) / 65536) % 4096).toNat
    (#v[0, BitVec.ofNat 16 (out * 16), BitVec.ofInt 16 ud.2, BitVec.ofInt 16 uq.2, 0],
      { d with intD := ud.1, intQ := uq.1 })

/-! ## The run in the machine -/

/-- `n` words of an engine's X or Y memory from an address up. -/
def libWords (s : State) (e : Fin 16) (y : Bool) (a : BitVec 14) (n : Nat) : Tab n Half :=
  Vector.ofFn (fun (k : Fin n) => qRead s e y (a + BitVec.ofNat 14 k.val))

/-- Stroke period in ns of a PERIOD code (R50). -/
def libPeriod (h : Half) : Nat :=
  match h.toNat % 4 with | 0 => 15625 | 1 => 25000 | 2 => 31250 | _ => 125000

/-- What the run of axis `n` reads (R81, R84, R120 to R126). -/
def libIn (s : State) (n : Fin 256) (noRef : Int) : LibIn :=
  let c := s.axcfg[n]
  let e := c.engine
  let b := if rdb s (Reg.INK_BANK c.group) 6 then c.yb1 else c.yb0
  let d := fun w => (qRead s e false w).toNat
  { fb := libWords s e false c.xfb 16, par := libWords s e true c.ypar 16, bank := libWords s e true b 32
    table := qRead s e true, chain := c.chain, policy := c.policy, place := c.place, cmdAngle := c.cmdAngle
    stroke := (d 1 + 65536 * d 2) * 64 + d 0 % 64, lat := d 3 + 65536 * d 4, period := libPeriod (qRead s e false 6)
    out := s.ax[n].out, noRef }

/-- An axis changed. -/
def updAx (s : State) (n : Fin 256) (f : AxisSt → AxisSt) : State := { s with ax := s.ax.upd n f }

/-- The words of the output record stored at Y2 (R122). -/
def libStore (s : State) (e : Fin 16) (a : BitVec 14) (w : Tab 5 Half) : State :=
  let s := qWrite s e true a w[0]
  let s := qWrite s e true (a + 1) w[1]
  let s := qWrite s e true (a + 2) w[2]
  let s := qWrite s e true (a + 3) w[3]
  qWrite s e true (a + 4) w[4]

/-- The library program of an axis has run: its output record is written, and its state waits for the release of the
group (R67, R82, R122, R129). A hand-written program has written its own records. -/
def libRun (s : State) (n : Fin 256) : State :=
  let c := s.axcfg[n]
  if c.chain.isEmpty then s
  else
    let k := takeInt s
    let r := libStep (libIn k.2 n (lib16 k.1).1) s.ax[n].lib
    libStore (updAx k.2 n (fun a => { a with libNew := some r.1 })) c.engine c.yout r.2

end Sys2Proof.Machine
end

