-- ==== Sys2Proof/Machine/QuillCode.lean ====
section
/-! DEFINITION. The instruction words of a Quill engine: the encodings of R93 to R97, decoded and encoded. -/

namespace Sys2Proof.Machine

/-- Opcode of a P-format operation (R98). -/
def pOpCode : POp → Nat
  | .move => 0 | .mpy => 1 | .mac => 2 | .msu => 3 | .add => 4 | .sub => 5 | .adda => 6 | .suba => 7
  | .lda => 8 | .clr => 9 | .neg => 10 | .abs => 11 | .ash => 12 | .sat => 13 | .clmp => 14 | .cmp => 15

/-- The P-format operations in the order of their opcodes. -/
def pOps : List POp :=
  [.move, .mpy, .mac, .msu, .add, .sub, .adda, .suba, .lda, .clr, .neg, .abs, .ash, .sat, .clmp, .cmp]

/-- A move field (R94): none with EN = 0 and the other bits 0. -/
def decodeMove (v : Nat) : Option (Option QMove) :=
  if v / 256 % 2 = 1 then
    some (some { store := v / 128 % 2 == 1, d := Fin.ofNat 8 (v / 16), p := Fin.ofNat 4 (v / 4), mod := Fin.ofNat 4 v })
  else if v % 256 = 0 then some none
  else none

/-- A memory operand's bits [19:0] (R95). -/
def decodeAddr (v : Nat) : Option QAddr :=
  if v / 524288 % 2 = 1 then
    if v % 524288 / 16384 = 0 then some (.abs (BitVec.ofNat 14 v)) else none
  else if v % 32768 = 0 then some (.ptr (Fin.ofNat 4 (v / 131072)) (Fin.ofNat 4 (v / 32768)))
  else none

/-- A condition code; 0xD to 0xF are reserved (R97). -/
def decodeCond (v : Nat) : Option (Fin 13) := if h : v < 13 then some ⟨v, h⟩ else none

/-- A special register code; 14 to 31 are illegal (R80). -/
def decodeSpec (v : Nat) : Option (Fin 14) := if h : v < 14 then some ⟨v, h⟩ else none

/-- The instruction a word encodes; none where the word is illegal (R93 to R97). -/
def decodeQ (w : Word) : Option QInstr :=
  let v := w.toNat
  let b := fun lo n => v / 2 ^ lo % 2 ^ n
  let op := b 26 6
  if op < 16 then
    match decodeMove (b 9 9), decodeMove (b 0 9), pOps[op]? with
    | some x, some y, some o =>
      if (o = .adda ∨ o = .suba) ∧ b 20 1 = 1 then none
      else some (.par o { an := Fin.ofNat 4 (b 24 2), s1 := Fin.ofNat 8 (b 21 3), s2 := Fin.ofNat 8 (b 18 3), xm := x, ym := y })
    | _, _, _ => none
  else
    match op with
    | 0x20 => (decodeAddr (b 0 20)).map (fun a => .ld (Fin.ofNat 32 (b 21 5)) (b 20 1 == 1) a)
    | 0x21 => (decodeAddr (b 0 20)).map (fun a => .st (Fin.ofNat 32 (b 21 5)) (b 20 1 == 1) a)
    | 0x22 => if b 16 5 = 0 then some (.ldi (Fin.ofNat 32 (b 21 5)) (BitVec.ofNat 16 v)) else none
    | 0x23 => if b 0 16 = 0 then some (.movr (Fin.ofNat 32 (b 21 5)) (Fin.ofNat 32 (b 16 5))) else none
    | 0x24 =>
      if b 0 15 = 0 then (decodeSpec (b 15 5)).map (fun c => .movs (Fin.ofNat 32 (b 21 5)) (b 20 1 == 1) c) else none
    | 0x25 =>
      if b 23 3 = 0 then (decodeAddr (b 0 20)).map (fun a => .ldl (Fin.ofNat 4 (b 21 2)) (b 20 1 == 1) a) else none
    | 0x26 =>
      if b 23 3 = 0 then (decodeAddr (b 0 20)).map (fun a => .stl (Fin.ofNat 4 (b 21 2)) (b 20 1 == 1) a) else none
    | 0x27 => if b 16 8 = 0 then some (.addi (Fin.ofNat 4 (b 24 2)) (BitVec.ofNat 16 v)) else none
    | 0x28 =>
      if b 20 4 = 0 ∧ b 0 15 = 0 then
        some (.perr (Fin.ofNat 4 (b 24 2)) (Fin.ofNat 4 (b 18 2)) (Fin.ofNat 4 (b 16 2)) (b 15 1 == 1))
      else none
    | 0x29 =>
      if b 0 18 = 0 then some (.glu (Fin.ofNat 8 (b 23 3)) (Fin.ofNat 8 (b 20 3)) (Fin.ofNat 4 (b 18 2))) else none
    | 0x2A =>
      if b 0 15 = 0 then
        some (.rot (b 25 1 == 1) (b 24 1 == 1) (Fin.ofNat 8 (b 21 3)) (Fin.ofNat 8 (b 18 3)) (Fin.ofNat 8 (b 15 3)))
      else none
    | 0x30 => if b 12 10 = 0 then (decodeCond (b 22 4)).map (fun c => .jmp c (BitVec.ofNat 12 v)) else none
    | 0x31 => if b 12 10 = 0 then (decodeCond (b 22 4)).map (fun c => .call c (BitVec.ofNat 12 v)) else none
    | 0x32 => if b 0 22 = 0 then (decodeCond (b 22 4)).map (fun c => .ret c) else none
    | 0x33 =>
      if b 25 1 = 1 then
        if b 15 10 = 0 then some (.rep (.reg (Fin.ofNat 8 (b 12 3))) (BitVec.ofNat 12 v)) else none
      else some (.rep (.imm (BitVec.ofNat 13 (b 12 13))) (BitVec.ofNat 12 v))
    | 0x34 => if b 0 26 = 0 then some .fin else none
    | _ => none

/-- A move field's bits (R94). -/
def encodeMove : Option QMove → Nat
  | none => 0
  | some m => 256 + m.store.toNat * 128 + m.d.val * 16 + m.p.val * 4 + m.mod.val

/-- A memory operand's bits (R95). -/
def encodeAddr : QAddr → Nat
  | .ptr p mod => p.val * 131072 + mod.val * 32768
  | .abs a => 524288 + a.toNat

/-- An instruction that has a word: ADDA and SUBA name Am in two bits (R93). -/
def qWf : QInstr → Bool
  | .par .adda f => f.s2.val < 4
  | .par .suba f => f.s2.val < 4
  | _ => true

/-- The number of the word of an instruction (R93 to R98). -/
def encodeNat : QInstr → Nat
  | .par op f =>
    pOpCode op * 2 ^ 26 + f.an.val * 2 ^ 24 + f.s1.val * 2 ^ 21 + f.s2.val * 2 ^ 18 + encodeMove f.xm * 2 ^ 9
      + encodeMove f.ym
  | .ld r y a => 0x20 * 2 ^ 26 + r.val * 2 ^ 21 + y.toNat * 2 ^ 20 + encodeAddr a
  | .st r y a => 0x21 * 2 ^ 26 + r.val * 2 ^ 21 + y.toNat * 2 ^ 20 + encodeAddr a
  | .ldi r v => 0x22 * 2 ^ 26 + r.val * 2 ^ 21 + v.toNat
  | .movr d r => 0x23 * 2 ^ 26 + d.val * 2 ^ 21 + r.val * 2 ^ 16
  | .movs r t c => 0x24 * 2 ^ 26 + r.val * 2 ^ 21 + t.toNat * 2 ^ 20 + c.val * 2 ^ 15
  | .ldl n y a => 0x25 * 2 ^ 26 + n.val * 2 ^ 21 + y.toNat * 2 ^ 20 + encodeAddr a
  | .stl n y a => 0x26 * 2 ^ 26 + n.val * 2 ^ 21 + y.toNat * 2 ^ 20 + encodeAddr a
  | .addi n v => 0x27 * 2 ^ 26 + n.val * 2 ^ 24 + v.toNat
  | .perr n p q inc => 0x28 * 2 ^ 26 + n.val * 2 ^ 24 + p.val * 2 ^ 18 + q.val * 2 ^ 16 + inc.toNat * 2 ^ 15
  | .glu d r b => 0x29 * 2 ^ 26 + d.val * 2 ^ 23 + r.val * 2 ^ 20 + b.val * 2 ^ 18
  | .rot i h a b t =>
    0x2A * 2 ^ 26 + i.toNat * 2 ^ 25 + h.toNat * 2 ^ 24 + a.val * 2 ^ 21 + b.val * 2 ^ 18 + t.val * 2 ^ 15
  | .jmp c t => 0x30 * 2 ^ 26 + c.val * 2 ^ 22 + t.toNat
  | .call c t => 0x31 * 2 ^ 26 + c.val * 2 ^ 22 + t.toNat
  | .ret c => 0x32 * 2 ^ 26 + c.val * 2 ^ 22
  | .rep (.imm c) l => 0x33 * 2 ^ 26 + c.toNat * 2 ^ 12 + l.toNat
  | .rep (.reg d) l => 0x33 * 2 ^ 26 + 2 ^ 25 + d.val * 2 ^ 12 + l.toNat
  | .fin => 0x34 * 2 ^ 26

/-- The word of an instruction. -/
def encodeQ (i : QInstr) : Word := BitVec.ofNat 32 (encodeNat i)

end Sys2Proof.Machine
end

