-- ==== Sys2Proof/Machine/Wave.lean ====
section
/-! DEFINITION. The compute wave: dispatch to the Quill engines, the run of axis programs with detection and retry, the
release of groups, slack and pace overrun (R62 to R69, R81, R82, R84, R109 to R119, R226 to R230, R236 to R238). -/

namespace Sys2Proof.Machine

/-! ## Stages and stopped units -/

/-- STAGE of the Steward (R259). -/
def stage (s : State) : Nat := rdf s Reg.STW_BOOT_STAT 28 4

/-- Full service (R259). -/
def fullService (s : State) : Bool := stage s == 9

/-- Draft service: its axes are held until full service begins (R259, R268). -/
def draftService (s : State) : Bool := decide (5 ≤ stage s ∧ stage s ≤ 8) && s.stw.draft

def updGrp (s : State) (g : Fin 32) (f : GroupSt → GroupSt) : State := { s with grp := s.grp.upd g f }

/-! ## Operations in flight (R234) -/

/-- An axis task is in flight: from the freeze mark of a stroke that dispatches it until its group is released, or its
entry is discarded or cancelled (R234). An entry of a late group counts as discarded from the release mark on where it
is complete or stopped by then, and otherwise from the end of its program: DEDUCED (log entry 30). -/
def axisInFlight (s : State) (n : Fin 256) : Bool :=
  match s.ax[n].ent with
  | .waiting | .running => true
  | .stopped => !s.grp[s.axcfg[n].group].late
  | .complete | .released => s.ax[n].ran && !s.grp[s.axcfg[n].group].released && !s.grp[s.axcfg[n].group].late
  | .none => false

/-- INK_INFL.COUNT follows the operations in flight, and PEAK keeps the largest (R234). -/
def showInfl (s : State) : State :=
  let n := (if fullService s then ((fins 256).filter (axisInFlight s)).length else 0) + appInFlight s
  let s := wrf s Reg.INK_INFL 16 9 n
  when (decide (rdf s Reg.INK_INFL_PEAK 0 9 < n)) s (fun s => wrf s Reg.INK_INFL_PEAK 0 9 n)

/-! ## Modes (R119) -/

/-- A change of mode that waits takes effect; debug mode halts the engine, and leaving it leaves it idle (R118, R119).
Nothing listed under the mode before is dispatched under the new one. -/
def modeTakes (s : State) (e : Fin 16) : State :=
  match (eng s e).nextMode with
  | none => s
  | some m => updEng s e (fun g => { g with
      mode := m, nextMode := none, modeDue := false, list := []
      run := if m = 3 then .debug else if g.run = .debug then .idle else g.run })

/-- No axis program runs or retries on the engine (R77). -/
def engIdle (g : QEng) : Bool := !(g.run == .running || g.run == .retrying)

/-- The engine has ended its work: it is idle, and in draft mode none of its draft programs is still to run (R119). -/
def workEnded (g : QEng) : Bool := engIdle g && !(g.mode == 1 && !g.list.isEmpty)

/-- A waiting change takes effect: one to service at its page boundary, once the work of the ended page is done, and
any other as soon as the engine is idle (R119). From debug too a change to service waits for the page boundary: DESIGN
CHOICE, as R119 names only draft and off before service (log entry 113). -/
def modeIfIdle (s : State) (e : Fin 16) : State :=
  let g := eng s e
  if g.nextMode = some 2 then when (g.modeDue && workEnded g) s (fun s => modeTakes s e)
  else when (engIdle g) s (fun s => modeTakes s e)

/-- A page boundary: changes to service are due, and take effect where the engine's work has ended (R119). -/
def modePage (s : State) (e : Fin 16) : State :=
  modeIfIdle (updEng s e (fun g => { g with modeDue := g.nextMode == some 2 })) e

/-- What a held read returns: the word, or for LBUS the half at the address (R77, R529). -/
def heldValue (s : State) (m : Master) (a : Nat) : Word :=
  let w := mrd32 s (a / 4 * 4)
  if m = 1 then (if a % 4 < 2 then w &&& 0xFFFF#32 else w >>> 16) else w

/-- `n` single-bit errors corrected in line (R110). -/
def corrected (s : State) (e : Fin 16) (n : Nat) : State :=
  if n = 0 then s
  else wrb (wr s (Reg.QE_ECC_CORR e) (BitVec.ofNat 32 (satN 32 ((rd s (Reg.QE_ECC_CORR e)).toNat + n))))
    (Reg.QE_STICKY e) 0 true

/-- A held read is served: single-bit errors are corrected then, and one that the check finds lastingly wrong shows a
free value (R77, R110; log entry 117). -/
def serveRead (s : State) (e : Fin 16) (r : HeldRead) : State :=
  if r.failed then let t := takeNat s; respond t.2 r.m (.value (BitVec.ofNat 32 t.1))
  else respond (corrected s e r.fixed) r.m (.value (heldValue s r.m r.addr))

/-- Reads of other masters that wait are served when the engine is idle (R77). -/
def serveHeld (s : State) (e : Fin 16) : State :=
  let l := (eng s e).held
  forAll l (updEng s e (fun g => { g with held := [] })) (fun s r => serveRead s e r)

/-- The engine has become idle (R77, R119). -/
def fallIdle (s : State) (e : Fin 16) : State := modeIfIdle (serveHeld s e) e

/-- A write of QE_CTL.MODE: debug is refused while service is in effect or pending; a later write replaces a change
that waits (R119). The refused write leaves MODE and is no access error, and the word's other bits act: DESIGN CHOICE
(log entry 113). -/
def modeWrite (s : State) (e : Fin 16) (m : BitVec 2) : State :=
  let g := eng s e
  if m = 3 ∧ (g.mode = 2 ∨ g.nextMode = some 2) then s
  else
    let s := wrf s (Reg.QE_CTL e) 0 2 m.toNat
    modeIfIdle (updEng s e (fun g => { g with
      nextMode := if m = g.mode then none else some m, modeDue := g.modeDue && g.nextMode == some m })) e

/-! ## Release of a group (R62 to R68, R82, R123, R228, R229) -/

/-- Slack at this instant in ns: the release mark of the wave's stroke less the Baseline tick, at least 0 before the
mark and at most −1 after it (R62 to R64). -/
def slackNow (s : State) (late : Bool) : Int :=
  let x : Int := (s.wave.relTick : Int) - s.tick
  if late then max (-32767) (min x (-1)) else min 32767 (max x 0)

/-- The standstill output of an axis's policy (R66, R122, R153, R157). POLICY 0b11 is not assigned; the load rejects it,
and here it would follow FALLBACK: DESIGN CHOICE (R124; log entry 114). -/
def standstillOut (c : AxisCfg) : Tab 5 Half :=
  let kind : Half :=
    if c.policy = 0 then 2 else if c.policy = 1 then 3 else if c.fallback then 3 else 2
  #v[kind, 0, 0, 0, 0]

/-- Word 4 copied into INK_AXS at the release; a declared stall is reported (R123, R159, R163). -/
def axisStatus (s : State) (n : Fin 256) (w4 : Half) : State :=
  let w := rd s (Reg.INK_AXS n)
  let b := fun i => w4.getLsbD i
  let w := put (put (putBit (putBit (putBit w 16 (b 0)) 17 (b 3)) 18 (b 2)) 24 8 (w4.toNat / 256)) 19 1
    ((bit w 19) || (b 1)).toNat
  let s := wr s (Reg.INK_AXS n) w
  when (b 1) s (fun s => assertSource s (0x40 + s.axcfg[n].group) (BitVec.ofNat 32 n.val))

/-- One axis of a group that is released (R82, R123, R229). -/
def releaseAxis (s : State) (n : Fin 256) : State :=
  let a := s.ax[n]
  if a.ran then
    let s := updAx s n (fun a => { a with
      out := a.staged, age := false, recB := !a.recB, ent := .released, lib := a.libNew.getD a.lib, libNew := none })
    axisStatus s n a.staged[4]
  else updAx s n (fun a => { a with age := false, ent := .released })

/-- The group is released as a whole: outputs, state records, status, slack, RUN, and event 0x40 + g (R229). A group
that is late only has its slack measured (R64, R230). -/
def releaseGroup (s : State) (g : Fin 32) : State :=
  let late := s.grp[g].late
  let sl := slackNow s late
  if late then updGrp s g (fun k => { k with slack := some sl })
  else
    let s := forAll s.wave.grpList[g] s releaseAxis
    let s := updGrp s g (fun k => { k with
      slack := some sl, released := true, raised := false, ever := k.ever || s.wave.grpList[g].any (fun n => s.ax[n].ran) })
    let s := wrf s (Reg.INK_OVR g) 0 8 0
    let s := raiseEvent s (0x40 + g.val)
    folEvent s 5 (fun s => rdf s Reg.FOL_TRIG 8 7 == g.val)

/-- Complete entries at the head of the ligature of group `g` are released in submission order, each with event 0x80 + g
(R218, R228). -/
def releaseEntries (g : Fin 32) (l : List (Fin 256)) (s : State) : State :=
  match l with
  | [] => s
  | n :: r =>
    match s.ax[n].ent with
    | .complete => releaseEntries g r (raiseEvent (updAx s n (fun a => { a with ent := .released })) (0x80 + g.val))
    | .released => releaseEntries g r s
    | _ => s

/-- A failed operation holds the ligature of group `g` until the next freeze mark (R503; log entry 29). -/
def groupHeld (s : State) (g : Fin 32) : Bool := s.ink.held.contains (Fin.ofNat 64 g.val)

/-- Entries of group `g` are released as far as they can be, and with the last of them the group (R228, R229). -/
def groupRun (s : State) (g : Fin 32) : State :=
  let l := s.wave.grpList[g]
  let s := if groupHeld s g then s else releaseEntries g l s
  let done := !l.isEmpty && l.all (fun n => s.ax[n].ent == .released)
  showInfl (when (done && s.grp[g].slack.isNone) s (fun s => releaseGroup s g))

/-! ## Dispatch (R81, R84, R236) -/

/-- Active bank of an axis (R143). -/
def activeBank (s : State) (n : Fin 256) : Bool := rdb s (Reg.INK_BANK s.axcfg[n].group) 6

/-- Y address of a bank of an axis. -/
def bankBase (s : State) (n : Fin 256) (b : Bool) : BitVec 14 := if b then s.axcfg[n].yb1 else s.axcfg[n].yb0

/-- Y word `i` of a bank. -/
def bankWord (s : State) (n : Fin 256) (b : Bool) (i : Nat) : Half :=
  qRead s s.axcfg[n].engine true (bankBase s n b + BitVec.ofNat 14 i)

/-- The registers of the engine at dispatch (R81, R82, R126). -/
def dispatchRegs (s : State) (n : Fin 256) (g : QEng) : QEng :=
  let c := s.axcfg[n]
  let b := activeBank s n
  let r := s.ax[n].recB
  let gt := fun i => (bankWord s n b (19 + i)).setWidth 14
  { g with
    a := Vector.replicate 4 0, d := Vector.replicate 8 0, m := Vector.replicate 4 0, k := Vector.replicate 4 0
    x := #v[c.xfb, if r then c.xs1 else c.xs0, if r then c.xs0 else c.xs1, 0]
    y := #v[c.ypar, bankBase s n b, c.yout, 0]
    gb := #v[gt 0, gt 1, gt 2, gt 3]
    sr := 0, reps := [], calls := [], axn := n, pc := c.prog, run := .running, startTick := s.tick }

/-- An axis task is dispatched (R81, R240). -/
def dispatchAxis (s : State) (e : Fin 16) (n : Fin 256) : State :=
  let s := updEng s e (dispatchRegs s n)
  let s := updAx s n (fun a => { a with ran := true, ent := .running, halted := false, libNew := none })
  { s with ink := { s.ink with task := s.ink.task.upd (Fin.ofNat 512 n.val) (fun k => { k with
      takes := k.takes + 1, startTick := s.tick }) } }

/-- What an axis sends before its first position is measured: KIND by its MODE, and amplitudes or references that no
rule states (R262; log entry 31). -/
def draftBlind (mode : BitVec 2) (s : State) : Tab 5 Half × State :=
  let a := takeNat s
  let d := takeInt a.2
  let q := takeInt d.2
  let w1 : Half := if mode = 0 then BitVec.ofNat 16 (a.1 % 4096 * 16) else 0
  (#v[if mode = 0 then 0 else 1, w1, BitVec.ofInt 16 d.1, BitVec.ofInt 16 q.1, 0], q.2)

/-- What the ROM loop program leaves for a draft axis: its output words, and the axis (R262). -/
def draftOut (d : DraftAxis) (s : State) : (Tab 5 Half × DraftAxis) × State :=
  if d.mode = 2 then ((#v[2, 0, 0, 0, 0], d), s)
  else
    match d.held with
    | some h => (draftRun d s.ax[d.axis].fb h, s)
    | none => let r := draftBlind d.mode s; ((r.1, d), r.2)

/-- The ROM loop program runs one draft axis, which is released on its own; what it computes after the release mark is
discarded. So is what an engine computes that ends its draft programs after full service began (R56, R119, R262,
R264). -/
def runDraft (s : State) (e : Fin 16) (n : Fin 256) : State :=
  match s.drafts.find? (fun d => d.axis == n) with
  | none => updAx (updEng s e (fun g => { g with axn := n, run := .idle })) n (fun a => { a with ran := true })
  | some d =>
    let o := draftOut d s
    let s := updEng o.2 e (fun g => { g with axn := n, run := .idle })
    if s.wave.closed then updAx s n (fun a => { a with ran := true })
    else
      let s := { s with drafts := s.drafts.map (fun x => if x.axis == n then o.1.2 else x) }
      updAx s n (fun a => { a with ran := true, ent := .released, out := o.1.1, age := false })

/-- The listed axis is passed over: its Ductus sample was not written, or it lies above the axis limit (R167, R212,
R503). -/
def passedOver (s : State) (n : Fin 256) : Bool := s.dct.slot[n].failed || decide (axisLimit s ≤ n.val)

/-- The next listed axis is dispatched to an idle engine (R236). The last draft program of an engine lets a change to
service that is due take effect (R119). -/
def dispatchNext (s : State) (e : Fin 16) : State :=
  let g := eng s e
  if !engIdle g || !pdOn s (pdOfEngine e) then s
  else
    match g.list.dropWhile (passedOver s) with
    | [] => s
    | n :: r =>
      if g.mode = 2 then dispatchAxis (updEng s e (fun g => { g with list := r })) e n
      else if g.mode = 1 then modeIfIdle (runDraft (updEng s e (fun g => { g with list := r })) e n) e
      else s

/-! ## The run of a program (R109 to R115) -/

/-- CAUSE, PC, AXN and COUNT of QE_FAULT (R118). -/
def recordStop (s : State) (e : Fin 16) (cause : Nat) : State :=
  let g := eng s e
  let n := satN 8 (rdf s (Reg.QE_FAULT e) 0 8 + 1)
  wr s (Reg.QE_FAULT e) (BitVec.ofNat 32 (cause * 2 ^ 28 + g.pc.toNat * 2 ^ 16 + g.axn.val * 2 ^ 8 + n))

/-- The program on the engine stops: QE_FAULT, its ligature entry, and source 0x090 + n (R114, R501). In debug mode the
stop of a stepped instruction counts in QE_FAULT and asserts the source too, STATE stays 4 and QE_DBG_PC stays at the
instruction: DESIGN CHOICE (R118; log entry 32). -/
def stopProgram (s : State) (e : Fin 16) (cause : Nat) : State :=
  let g := eng s e
  let s := recordStop s e cause
  let s := if g.mode = 3 then s
    else fallIdle (updAx (updEng s e (fun g => { g with run := .stopped })) g.axn (fun a => { a with
      ent := .stopped, halted := true })) e
  assertSource s (0x90 + e) (rd s (Reg.QE_FAULT e))

/-- A failed retry: LASTING counts, and the program stops (R112). -/
def stopLasting (s : State) (e : Fin 16) (cause : Nat) : State :=
  let s := incf s (Reg.QE_RETRY e) 16 16
  stopProgram (wrb s (Reg.QE_STICKY e) 2 true) e cause

/-- A detected error: the first is retried, the second is lasting (R111, R112). -/
def engineError (s : State) (e : Fin 16) (cause : Nat) : State :=
  match (eng s e).run with
  | .running => updEng s e (fun g => { g with run := .retrying, cause := cause })
  | .retrying => stopLasting (newInstant s) e cause
  | _ => s

/-- A retry that succeeded: the event is transient (R112). -/
def retryGood (s : State) (e : Fin 16) : State :=
  assertSource (wrb (incf s (Reg.QE_RETRY e) 0 16) (Reg.QE_STICKY e) 1 true) (0x80 + e) 0

/-- An attempt without a detected error ends a retry as transient (R112). -/
def attemptGood (s : State) (e : Fin 16) : State :=
  if (eng s e).run = .retrying then retryGood (updEng s e (fun g => { g with run := .running })) e else s

/-- CAUSE of a detected error whose retry fails (R118). -/
def causeOf : DetErr → Nat
  | .progEcc => 5
  | .dataEcc => 6
  | .timeout => 7
  | .dualRail => 8

/-- The output record, with words beyond the Codex length as 0 (R109). -/
def outputRecord (s : State) (n : Fin 256) : Tab 5 Half :=
  let c := s.axcfg[n]
  Vector.ofFn (fun (i : Fin 5) =>
    if i.val < c.outLen then qRead s c.engine true (c.yout + BitVec.ofNat 14 i.val) else 0)

/-- FIN: a library program's results stand in its records (R129), the output record is taken and the entry is complete
(R109, R228). -/
def finProgram (s : State) (e : Fin 16) : State :=
  let g := eng s e
  let n := g.axn
  let s := libRun (newInstant s) n
  let s := updAx s n (fun a => { a with staged := outputRecord s n, ent := .complete })
  let s := fallIdle (updEng s e (fun g => { g with run := .idle })) e
  groupRun s s.axcfg[n].group

/-- The PC moves on after an instruction's own effect (R106). In debug mode QE_DBG_PC shows it, and FIN leaves it where
it is (log entry 32). -/
def advance (s : State) (e : Fin 16) (c : QCtl) : State :=
  let g := eng s e
  let next := fun (pc : BitVec 12) => updEng s e (fun g => { g with pc := pc })
  match c with
  | .adv => let r := loopBack g.pc g.reps; updEng s e (fun g => { g with pc := r.1, reps := r.2 })
  | .asIf last => let r := loopSkip last g.reps; updEng s e (fun g => { g with pc := r.1, reps := r.2 })
  | .goto t => next t
  | .stop cause => stopProgram (newInstant s) e cause
  | .fin => if g.mode = 3 then s else finProgram s e

/-- An instruction at the PC of an engine that runs a program: single-bit errors are corrected, another error withholds
its results, else they are committed (R110 to R112). -/
def runInstr (e : Fin 16) (det : Detect) (i : QInstr) (s : State) : State :=
  if engIdle (eng s e) then s
  else
    let s := corrected s e det.fixed
    match det.err with
    | none => let r := instrEffect i e (attemptGood s e); advance r.1 e r.2
    | some x => engineError s e (causeOf x)

/-- An illegal instruction at the PC, once its fetch has no error that a retry follows (R96, R110, R111). -/
def runIllegal (s : State) (e : Fin 16) (det : Detect) : State :=
  if engIdle (eng s e) then s
  else
    let s := corrected s e det.fixed
    match det.err with
    | none => stopProgram (newInstant (attemptGood s e)) e 1
    | some x => engineError s e (causeOf x)

/-- The instruction at the PC of an engine in debug mode takes effect, or stops as illegal (R96, R118). -/
def stepEffect (s : State) (e : Fin 16) : State :=
  match decodeQ (mrd32 s (qProgAddr e (eng s e).pc)) with
  | none => stopProgram s e 1
  | some i => let r := instrEffect i e s; advance r.1 e r.2

/-- The attempts of a stepped instruction: single-bit errors are corrected, and another error withholds the results and
is retried once (R110 to R112). -/
def stepTries (s : State) (e : Fin 16) (l : List Detect) : State :=
  let d := l.headD .clean
  let s := corrected s e d.fixed
  match d.err with
  | none => stepEffect s e
  | some _ =>
    let d := l.tail.headD .clean
    let s := corrected s e d.fixed
    match d.err with
    | none => stepEffect (retryGood s e) e
    | some y => stopLasting s e (causeOf y)

/-- STEP: in debug mode the instruction at QE_DBG_PC executes (R118). -/
def debugStep (s : State) (e : Fin 16) : State :=
  if (eng s e).mode = 3 then
    let pc : BitVec 12 := BitVec.ofNat 12 (rdf s (Reg.QE_DBG_PC e) 0 12)
    let s := stepTries (updEng (newInstant s) e (fun g => { g with pc := pc })) e (eng s e).det
    wrf s (Reg.QE_DBG_PC e) 0 12 (eng s e).pc.toNat
  else s

/-! ## The freeze mark's part (R64, R84, R115, R236, R238) -/

/-- A program still running is cancelled; a retry in progress is recorded as lasting (R64, R115, R238). -/
def cancelEngine (s : State) (e : Fin 16) : State :=
  match (eng s e).run with
  | .running => fallIdle (updEng s e (fun g => { g with run := .idle })) e
  | .retrying => stopLasting s e (eng s e).cause
  | _ => s

/-- Slack of a group in the stroke that ends, as its 16-bit code (R62, R64). -/
def slackCode (k : GroupSt) : Int := k.slack.getD (-32768)

/-- The histogram bin of a slack, for the compute window `w` (R65). -/
def slackBin (x : Int) (w : Nat) : Nat :=
  if x < 0 then 0
  else if 16 * x < w then 1
  else if 8 * x < w then 2
  else if 4 * x < w then 3
  else if 2 * x < w then 4
  else 5

/-- The least slack, of the lowest group that has it. -/
def leastSlack : List (Fin 32 × Int) → Option (Fin 32 × Int)
  | [] => none
  | e :: r =>
    match leastSlack r with
    | none => some e
    | some f => if f.2 < e.2 then some f else some e

/-- Compute window in ns (R53). -/
def window (s : State) : Nat := rdf s Reg.BSL_MARK_REL 0 17 - rdf s Reg.BSL_MARK_FRZ 0 17

/-- LAST, and MIN while EN is 1, of a group (R65). -/
def slackGroup (en : Bool) (s : State) (e : Fin 32 × Int) : State :=
  let a := Reg.INK_SLACK_GRP e.1
  let s := wrf s a 0 16 (unsignedOf 16 e.2)
  when (en && decide (e.2 < signedOf 16 (rdf s a 16 16))) s (fun s => wrf s a 16 16 (unsignedOf 16 e.2))

/-- The slack statistics of the stroke that ends, in full service (R62, R65). -/
def slackStats (s : State) : State :=
  let l := ((fins 32).filter (fun g => fullService s && s.wave.grpList[g].any (fun n => s.ax[n].ent != .none))).map
    (fun g => (g, slackCode s.grp[g]))
  let en := rdb s Reg.INK_SLACK_CTL 0
  let s := forAll l s (slackGroup en)
  match leastSlack l with
  | none => s
  | some (g, x) =>
    let w := BitVec.ofNat 32 (g.val * 2 ^ 16 + unsignedOf 16 x)
    let s := wr s Reg.INK_SLACK_STROKE w
    if en then
      let least := signedOf 16 (rdf s Reg.INK_SLACK_MIN 0 16)
      let lower := decide (x < least ∨ (x = least ∧ g.val < rdf s Reg.INK_SLACK_MIN 16 5))
      let s := when lower s (fun s => wr s Reg.INK_SLACK_MIN w)
      incf s (Reg.INK_SLACK_HIST (slackBin x (window s))) 0 32
    else s

/-- Work of the last stroke ends on an engine: its program is cancelled, nothing is left to dispatch, and a change to
service that is due takes effect (R64, R119, R238). -/
def engineEnd (s : State) (e : Fin 16) : State :=
  modeIfIdle (updEng (cancelEngine s e) e (fun g => { g with list := [] })) e

/-- Work of the last stroke ends, and the slack of each group is settled (R64, R238). -/
def waveEnd (s : State) : State := slackStats (forAll (fins 16) s engineEnd)

/-- The stroke descriptor (R84). -/
def descriptor (s : State) : List Half :=
  let p := pageNo s
  let l := s.wave.latency
  [BitVec.ofNat 16 (strokeNo s), BitVec.ofNat 16 p, BitVec.ofNat 16 (p / 65536), BitVec.ofNat 16 l,
    BitVec.ofNat 16 (l / 65536), BitVec.ofNat 16 (s.wave.lastBefore.toNat + 2 * s.wave.firstAfter.toNat),
    BitVec.ofNat 16 (rdf s Reg.BSL_STROKE_CFG 0 2)] ++ List.replicate 9 0

/-- Halfwords stored from a map address up. -/
def mwrHalves (s : State) (a : Nat) : List Half → State
  | [] => s
  | v :: r => mwrHalves (mwr16 s a v) (a + 2) r

/-- The descriptor written into the X memory of every engine whose domain is on (R84). -/
def writeDescriptor (s : State) : State :=
  let d := descriptor s
  forAll (fins 16) s (fun s e => when (pdOn s (pdOfEngine e)) s (fun s => mwrHalves s (qAddr e false 0) d))

/-- The axis runs in the present stroke (R236). -/
def runsNow (s : State) (n : Fin 256) : Bool := s.axcfg[n].runMap.getLsbD (strokeNo s)

/-- The axis is dispatched in this wave where its run map has it run, but an axis whose program was stopped waits while a
reaction holds its group at a quick-stop (R114, R236; log entry 120). -/
def dispatchedNow (s : State) (n : Fin 256) : Bool :=
  runsNow s n && !(s.ax[n].halted && bit s.mgn.effQs s.axcfg[n].group.val)

/-- The entry of an axis at the start of a wave; one that is not dispatched although it should run never completes (R114,
R236). -/
def entryBegin (s : State) (n : Fin 256) : State :=
  updAx s n (fun a => { a with
    ran := false, ent := if dispatchedNow s n then .waiting else if runsNow s n then .stopped else .complete })

/-- The wave of the present stroke is computed until its release mark; no group ligature is held any more (R29, R56, R62,
R503). -/
def waveOpen (s : State) : State :=
  { s with
    ink := { s.ink with held := s.ink.held.filter (fun l => decide (32 ≤ l.val)) }
    wave := { s.wave with closed := false, relTick := s.base.sendTick + rdf s Reg.BSL_MARK_REL 0 17 } }

/-- The wave begins: engine lists restart, entries stand, and groups with nothing to run are released at the freeze mark
with the compute window as their slack (R65, R114, R236). -/
def waveBegin (s : State) : State :=
  let s := forAll (fins 32) (waveOpen s) (fun s g =>
    let s := updGrp s g (fun k => { k with released := false, late := false, slack := none })
    forAll s.wave.grpList[g] s entryBegin)
  let s := forAll (fins 16) s (fun s e => updEng s e (fun g => { g with
    list := s.wave.engList[e].filter (dispatchedNow s) }))
  forAll (fins 32) (showInfl s) (fun s g =>
    let empty := !s.wave.grpList[g].isEmpty && s.wave.grpList[g].all (fun n => !runsNow s n)
    let s := groupRun s g
    when empty s (fun s => updGrp s g (fun k => { k with slack := some (min 32767 (window s)) })))

/-- A draft axis at the freeze mark: it takes its measured position and speed from fresh feedback, its held position from
the first of it, and its jog velocity moves by at most JOG_ACC (R262, R266). -/
def draftStroke (s : State) (d : DraftAxis) : DraftAxis :=
  let a := s.ax[d.axis]
  let acc : Int := fld (d.words.getD 7 0) 0 12
  let v := d.vel + max (-acc) (min acc (d.jog - d.vel))
  let meas : Int := (a.fb[2] ++ (a.fb[1] ++ a.fb[0]) : Pos48).toInt
  match d.held with
  | none => if a.fbAge = 0 then { d with held := some meas, pos := meas } else d
  | some h =>
    let d := { d with vel := v, held := some (h + v * 2 ^ 16) }
    if a.fbAge = 0 then { d with pos := meas, speed := (BitVec.ofInt 48 (meas - d.pos)).toInt } else d

/-- The draft wave begins: each engine in mode draft lists its draft axes (R260, R264). -/
def draftBegin (s : State) : State :=
  let s := waveOpen s
  let s := { s with drafts := s.drafts.map (draftStroke s) }
  let s := forAll (s.drafts.map (·.axis)) s (fun s n => updAx s n (fun a => { a with ran := false, ent := .waiting }))
  forAll (fins 16) s (fun s e => updEng s e (fun g => { g with
    list := (s.drafts.filter (fun d => d.engine == e)).map (·.axis) }))

/-! ## The release mark's part (R56, R66 to R69, R264) -/

/-- A group not released by the release mark repeats (R36, R66, R68, R69). -/
def repeatGroup (s : State) (g : Fin 32) : State :=
  let k := s.grp[g]
  let s := updGrp s g (fun k => { k with late := true })
  let s := forAll s.wave.grpList[g] s (fun s n =>
    updAx s n (fun a => { a with age := true, out := if k.ever then a.out else standstillOut s.axcfg[n], libNew := none }))
  let s := wrb s Reg.INK_SLACK_MISS g true
  let s := folEvent s 2 (fun s => rdb s Reg.FOL_TGRP g)
  let s := incf s (Reg.INK_OVR g) 0 8
  let s := when (rdb s Reg.INK_SLACK_CTL 0) s (fun s => incf s (Reg.INK_OVR g) 8 24)
  if !k.raised && decide (max 1 (rdf s Reg.INK_OVR_CFG 0 8) ≤ rdf s (Reg.INK_OVR g) 0 8) then
    assertSource (updGrp s g (fun k => { k with raised := true })) g 0
  else s

/-- Groups and draft axes at the release mark (R56, R66, R264). -/
def waveRelease (s : State) : State :=
  let late := (fins 32).filter (fun g => !s.grp[g].released && s.wave.grpList[g].any (fun n => s.ax[n].ent != .none))
  let s := if fullService s then forAll late s repeatGroup else s
  let s := if draftService s then forAll (s.drafts.map (·.axis)) s (fun s n =>
      when (s.ax[n].ent != .released) s (fun s => updAx s n (fun a => { a with age := true }))) else s
  showInfl { s with wave := { s.wave with closed := true } }

/-- CLEAR (R65). -/
def slackClear (s : State) : State :=
  let s := forAll (fins 32) s (fun s g => wrf (wrf s (Reg.INK_SLACK_GRP g) 16 16 0x7FFF) (Reg.INK_OVR g) 8 24 0)
  let s := wr s Reg.INK_SLACK_MIN 0x7FFF#32
  forAll (List.range 6) s (fun s b => wr s (Reg.INK_SLACK_HIST b) 0)

/-! ## Meanings -/

/-- AXIS_DISPATCH (R81, R236). -/
def execAxisDispatch (e : Fin 16) (s : State) : Host.Outcome State Fault Refusal := .next (dispatchNext s e)

/-- INSTRUCTION_ILLEGAL (R96). -/
def execInstructionIllegal (f : EngineFetch) (s : State) : Host.Outcome State Fault Refusal :=
  .next (runIllegal s f.engine f.det)

/-- HANDSHAKE_TIMEOUT (R111, R113). -/
def execHandshakeTimeout (e : Fin 16) (s : State) : Host.Outcome State Fault Refusal := .next (engineError s e 7)

/-- MODE_CHANGE_EFFECT: a waiting change takes effect where its time has come (R119). -/
def execModeChangeEffect (e : Fin 16) (s : State) : Host.Outcome State Fault Refusal := .next (modeIfIdle s e)

/-- MOVE (R98). -/
def execMove (e : Fin 16) (det : Detect) (f : PFmt) (s : State) : Host.Outcome State Fault Refusal :=
  .next (runInstr e det (.par .move f) s)
/-- MPY (R98). -/
def execMpy (e : Fin 16) (det : Detect) (f : PFmt) (s : State) : Host.Outcome State Fault Refusal :=
  .next (runInstr e det (.par .mpy f) s)
/-- MAC (R98). -/
def execMac (e : Fin 16) (det : Detect) (f : PFmt) (s : State) : Host.Outcome State Fault Refusal :=
  .next (runInstr e det (.par .mac f) s)
/-- MSU (R98). -/
def execMsu (e : Fin 16) (det : Detect) (f : PFmt) (s : State) : Host.Outcome State Fault Refusal :=
  .next (runInstr e det (.par .msu f) s)
/-- ADD (R98). -/
def execAdd (e : Fin 16) (det : Detect) (f : PFmt) (s : State) : Host.Outcome State Fault Refusal :=
  .next (runInstr e det (.par .add f) s)
/-- SUB (R98). -/
def execSub (e : Fin 16) (det : Detect) (f : PFmt) (s : State) : Host.Outcome State Fault Refusal :=
  .next (runInstr e det (.par .sub f) s)
/-- ADDA (R98). -/
def execAdda (e : Fin 16) (det : Detect) (f : PFmt) (s : State) : Host.Outcome State Fault Refusal :=
  .next (runInstr e det (.par .adda f) s)
/-- SUBA (R98). -/
def execSuba (e : Fin 16) (det : Detect) (f : PFmt) (s : State) : Host.Outcome State Fault Refusal :=
  .next (runInstr e det (.par .suba f) s)
/-- LDA (R98). -/
def execLda (e : Fin 16) (det : Detect) (f : PFmt) (s : State) : Host.Outcome State Fault Refusal :=
  .next (runInstr e det (.par .lda f) s)
/-- CLR (R98). -/
def execClr (e : Fin 16) (det : Detect) (f : PFmt) (s : State) : Host.Outcome State Fault Refusal :=
  .next (runInstr e det (.par .clr f) s)
/-- NEG (R98). -/
def execNeg (e : Fin 16) (det : Detect) (f : PFmt) (s : State) : Host.Outcome State Fault Refusal :=
  .next (runInstr e det (.par .neg f) s)
/-- ABS (R98). -/
def execAbs (e : Fin 16) (det : Detect) (f : PFmt) (s : State) : Host.Outcome State Fault Refusal :=
  .next (runInstr e det (.par .abs f) s)
/-- ASH (R98). -/
def execAsh (e : Fin 16) (det : Detect) (f : PFmt) (s : State) : Host.Outcome State Fault Refusal :=
  .next (runInstr e det (.par .ash f) s)
/-- SAT (R98). -/
def execSat (e : Fin 16) (det : Detect) (f : PFmt) (s : State) : Host.Outcome State Fault Refusal :=
  .next (runInstr e det (.par .sat f) s)
/-- CLMP (R98). -/
def execClmp (e : Fin 16) (det : Detect) (f : PFmt) (s : State) : Host.Outcome State Fault Refusal :=
  .next (runInstr e det (.par .clmp f) s)
/-- CMP (R98). -/
def execCmp (e : Fin 16) (det : Detect) (f : PFmt) (s : State) : Host.Outcome State Fault Refusal :=
  .next (runInstr e det (.par .cmp f) s)
/-- LD (R98). -/
def execLd (e : Fin 16) (det : Detect) (reg : Fin 32) (y : Bool) (a : QAddr) (s : State) :
    Host.Outcome State Fault Refusal := .next (runInstr e det (.ld reg y a) s)
/-- ST (R98). -/
def execSt (e : Fin 16) (det : Detect) (reg : Fin 32) (y : Bool) (a : QAddr) (s : State) :
    Host.Outcome State Fault Refusal := .next (runInstr e det (.st reg y a) s)
/-- LDI (R98). -/
def execLdi (e : Fin 16) (det : Detect) (reg : Fin 32) (imm : Half) (s : State) :
    Host.Outcome State Fault Refusal := .next (runInstr e det (.ldi reg imm) s)
/-- MOVR (R98). -/
def execMovr (e : Fin 16) (det : Detect) (dst src : Fin 32) (s : State) :
    Host.Outcome State Fault Refusal := .next (runInstr e det (.movr dst src) s)
/-- MOVS (R80, R98). -/
def execMovs (e : Fin 16) (det : Detect) (reg : Fin 32) (toSpecial : Bool) (spec : Fin 14) (s : State) :
    Host.Outcome State Fault Refusal := .next (runInstr e det (.movs reg toSpecial spec) s)
/-- LDL (R88, R98). -/
def execLdl (e : Fin 16) (det : Detect) (an : Fin 4) (y : Bool) (a : QAddr) (s : State) :
    Host.Outcome State Fault Refusal := .next (runInstr e det (.ldl an y a) s)
/-- STL (R88, R98). -/
def execStl (e : Fin 16) (det : Detect) (an : Fin 4) (y : Bool) (a : QAddr) (s : State) :
    Host.Outcome State Fault Refusal := .next (runInstr e det (.stl an y a) s)
/-- ADDI (R98). -/
def execAddi (e : Fin 16) (det : Detect) (an : Fin 4) (imm : Half) (s : State) :
    Host.Outcome State Fault Refusal := .next (runInstr e det (.addi an imm) s)
/-- PERR (R100). -/
def execPerr (e : Fin 16) (det : Detect) (an p q : Fin 4) (inc : Bool) (s : State) :
    Host.Outcome State Fault Refusal := .next (runInstr e det (.perr an p q inc) s)
/-- GLU (R101). -/
def execGlu (e : Fin 16) (det : Detect) (dd ds : Fin 8) (gb : Fin 4) (s : State) :
    Host.Outcome State Fault Refusal := .next (runInstr e det (.glu dd ds gb) s)
/-- ROT (R102, R103). -/
def execRot (e : Fin 16) (det : Detect) (inverse hiPair : Bool) (da db dth : Fin 8) (s : State) :
    Host.Outcome State Fault Refusal := .next (runInstr e det (.rot inverse hiPair da db dth) s)
/-- JMP (R107). -/
def execJmp (e : Fin 16) (det : Detect) (cond : Fin 13) (target : BitVec 12) (s : State) :
    Host.Outcome State Fault Refusal := .next (runInstr e det (.jmp cond target) s)
/-- CALL (R108). -/
def execCall (e : Fin 16) (det : Detect) (cond : Fin 13) (target : BitVec 12) (s : State) :
    Host.Outcome State Fault Refusal := .next (runInstr e det (.call cond target) s)
/-- RET (R108). -/
def execRet (e : Fin 16) (det : Detect) (cond : Fin 13) (s : State) :
    Host.Outcome State Fault Refusal := .next (runInstr e det (.ret cond) s)
/-- REP (R104, R105). -/
def execRep (e : Fin 16) (det : Detect) (c : QCount) (last : BitVec 12) (s : State) :
    Host.Outcome State Fault Refusal := .next (runInstr e det (.rep c last) s)
/-- FIN (R109, R228, R229). -/
def execFin (e : Fin 16) (det : Detect) (s : State) :
    Host.Outcome State Fault Refusal := .next (runInstr e det (.fin) s)

end Sys2Proof.Machine
end

