-- ==== Sys2Proof/Machine/Banks.lean ====
section
/-! DEFINITION. Coefficient banks: swaps of a group, bank loads and their checks (R142 to R152). -/

namespace Sys2Proof.Machine

/-- Bytes of the Scriptorium (R12). -/
def scriptoriumSize : Nat := 0x400000

/-! ## Swaps (R146 to R148, R152) -/

/-- A request ends with RESULT `r`, which its queue hears too (R146, R152, R547). -/
def bankEnd (s : State) (g : Fin 32) (q : BankReq) (r : Nat) : State :=
  let s := updGrp s g (fun k => { k with swap := none })
  let s := wrb (wrf s (Reg.INK_BANK g) 8 3 r) (Reg.INK_BANK g) 7 false
  answer s q.src r

/-- A request commits and replaces one that is pending (R146). -/
def bankRequest (s : State) (g : Fin 32) (target atSwitch : Bool) (src : ReqSrc) : State :=
  let s := match s.grp[g].swap with
    | some q => bankEnd s g q 4
    | none => s
  let s := updGrp s g (fun k => { k with swap := some { target, atSwitch, due := false, src } })
  wrb s (Reg.INK_BANK g) 7 true

/-- READY of a bank of an axis (R159). -/
def bankReady (s : State) (n : Fin 256) (b : Bool) : Bool := rdb s (Reg.INK_AXS n) (if b then 8 else 7)
def setBankReady (s : State) (n : Fin 256) (b v : Bool) : State := wrb s (Reg.INK_AXS n) (if b then 8 else 7) v
def setLoad (s : State) (n : Fin 256) (v : Nat) : State := wrf s (Reg.INK_AXS n) 9 2 v

/-- The decision on a due request (R143, R147, R152). -/
def bankDecide (s : State) (g : Fin 32) (q : BankReq) : State :=
  if q.target = rdb s (Reg.INK_BANK g) 6 then bankEnd s g q 1
  else if s.wave.grpList[g].all (fun n => bankReady s n q.target) then
    let s := forAll s.wave.grpList[g] s (fun s n => wrb s (Reg.INK_AXS n) 6 q.target)
    let s := wrb s (Reg.INK_BANK g) 6 q.target
    bankEnd (incf s (Reg.INK_BANK g) 16 16) g q 1
  else bankEnd s g q 2

/-- Requests due at this freeze mark are decided (R147, R148). At the first freeze mark of full service bank 0 is active
on every axis, and a request that waits then is due at the next one (R603; log entry 114). -/
def bankSwaps (s : State) : State :=
  if s.dct.first then s
  else forAll (fins 32) s (fun s g =>
    match s.grp[g].swap with
    | some q => if !q.atSwitch || q.due then bankDecide s g q else s
    | none => s)

/-- A script switch is abandoned: requests that wait for it end with RESULT 3 (R148). -/
def bankAbandon (s : State) : State :=
  forAll (fins 32) s (fun s g =>
    match s.grp[g].swap with
    | some q => if q.atSwitch && !q.due then bankEnd s g q 3 else s
    | none => s)

/-- The boundary of a script switch: requests that wait for it are due at the next freeze mark (R148). -/
def bankBoundary (s : State) : State :=
  forAll (fins 32) s (fun s g => updGrp s g (fun k => { k with swap := k.swap.map (fun q => { q with due := true }) }))

/-! ## Loads (R142, R144, R145) -/

/-- Distinct elements in order of their first place. -/
def distinct {α : Type} [DecidableEq α] : List α → List α
  | [] => []
  | x :: r => x :: (distinct r).filter (· ≠ x)

/-- Bases of the tables that a bank image names: distinct and not 0, in the order GT0 to GT3 (R144). -/
def imageTables (s : State) (a : Nat) : List (BitVec 14) :=
  (distinct ((List.range 4).map (fun i => (mrd16 s (a + 2 * (19 + i))).setWidth 14))).filter (· ≠ 0)

/-- Words of an image (R144). -/
def imageLen (tables : List (BitVec 14)) : Nat := 32 + 64 * tables.length

/-- The image lies wholly within the Scriptorium, at a multiple of 4 (R144). -/
def imageInside (a len : Nat) : Bool := decide (a % 4 = 0 ∧ a + 2 * len ≤ scriptoriumSize)

/-- A table that the active bank of some axis on the engine names (R142). -/
def tableActive (s : State) (e : Fin 16) (t : BitVec 14) : Bool :=
  (fins 256).any (fun n => s.axcfg[n].used && !s.axcfg[n].virt && s.axcfg[n].engine == e
    && (List.range 4).any (fun i => (bankWord s n (activeBank s n) (19 + i)).setWidth 14 == t))

def updLoads (s : State) (f : List BankLoad → List BankLoad) : State := { s with loads := f s.loads }

/-- The load of an axis and bank that is being written. -/
def loadOf (s : State) (n : Fin 256) (b : Bool) : Option BankLoad :=
  s.loads.find? (fun l => l.axis == n && l.bank == b && l.accepted)

/-- A load ends with LOAD at `v`, and READY with it (R144, R145, R547). -/
def loadEnd (s : State) (l : BankLoad) (v : Nat) (result : Nat) : State :=
  answer (setLoad s l.axis v) l.src result

/-- A load offered at a freeze mark: refused while its bank is active, else accepted; an image outside the Scriptorium
fails its check (R144, R145). -/
def loadOffer (s : State) (l : BankLoad) : State × Option BankLoad :=
  if (loadOf s l.axis l.bank).isSome then (s, some l)
  else if activeBank s l.axis = l.bank then (loadEnd s l 3 3, none)
  else
    let s := setBankReady s l.axis l.bank false
    let a := l.addr.toNat
    let t := if imageInside a 32 then imageTables s a else []
    if imageInside a (imageLen t) then
      (setLoad s l.axis 1, some { l with accepted := true, tables := t, pos := 0, bad := false })
    else (loadEnd s l 2 2, none)

/-- The 16-bit two's-complement sum of a bank's words (R125). -/
def bankSum (s : State) (n : Fin 256) (b : Bool) : Half :=
  (List.range 32).foldl (fun a i => a + bankWord s n b i) 0

/-- Every word of the load is written. -/
def loadDone (l : BankLoad) : Bool := l.accepted && decide (imageLen l.tables ≤ l.pos)

/-- The end of a load at the first freeze mark after its last word (R145). -/
def loadCheck (s : State) (l : BankLoad) : State :=
  if !l.bad && bankSum s l.axis l.bank == 0 then loadEnd (setBankReady s l.axis l.bank true) l 0 1
  else loadEnd s l 2 2

/-- Loads at a freeze mark: those written in the last stroke end, then those that wait are offered (R144, R145, R147). -/
def bankLoads (s : State) : State :=
  let s' := forAll (s.loads.filter loadDone) s loadCheck
  let waiting := (s.loads.filter (fun l => !loadDone l)).filter (fun l => !l.accepted)
  let s' := updLoads s' (·.filter (fun l => l.accepted && !loadDone l))
  forAll waiting s' (fun s l =>
    let r := loadOffer s l
    match r.2 with
    | some k => updLoads r.1 (· ++ [k])
    | none => r.1)

/-- One word of an accepted image written while the engine is idle between programs; a table that an active bank names
is compared instead; `fixed` says that the word read for it has a single-bit error, which is corrected (R110, R142,
R145). -/
def loadWord (s : State) (n : Fin 256) (b fixed : Bool) : State :=
  match loadOf s n b with
  | none => s
  | some l =>
    let e := s.axcfg[n].engine
    if loadDone l || !engIdle (eng s e) || !pdOn s (pdOfEngine e) then s
    else
      let v := mrd16 s (l.addr.toNat + 2 * l.pos)
      let t := l.tables.getD ((l.pos - 32) / 64) 0
      let shared := decide (32 ≤ l.pos) && tableActive s e t
      let w : BitVec 14 := if l.pos < 32 then bankBase s n b + BitVec.ofNat 14 l.pos else t + BitVec.ofNat 14 ((l.pos - 32) % 64)
      let bad := l.bad || (shared && decide (qRead s e true w ≠ v))
      let s := if shared then corrected s e fixed.toNat else mwr16 s (qAddr e true w) v
      updLoads s (·.map (fun k => if k = l then { k with pos := k.pos + 1, bad := bad } else k))

/-- A load is requested (R144). -/
def loadRequest (s : State) (n : Fin 256) (b : Bool) (addr : Word) (src : ReqSrc) : State :=
  updLoads s (· ++ [{ axis := n, bank := b, addr, accepted := false, tables := [], pos := 0, bad := false, src }])

/-! ## Meanings -/

/-- BANK_IMAGE_WRITE (R142, R145). -/
def execBankImageWrite (n : Fin 256) (w : ImageWord) (s : State) : Host.Outcome State Fault Refusal :=
  .next (loadWord s n w.bank w.fixed)

end Sys2Proof.Machine
end

