-- ==== Sys2Proof/Machine/Island.lean ====
section
/-! DEFINITION. The safety island: Warden and Seal, lock-out, the safety configuration, its commands and its ledger
(R461 to R497). -/

namespace Sys2Proof.Machine

def updIsl (s : State) (f : Isl → Isl) : State := { s with isl := f s.isl }

/-! ## Configuration (R489) -/

/-- Word `i` of a configuration; 0 where none is held. -/
def cfgW (c : List Word) (i : Nat) : Word := c.getD i 0

def pairEn (c : List Word) (p : Nat) : Bool := bit (cfgW c (2 + p)) 31
def pairAnti (c : List Word) (p : Nat) : Bool := bit (cfgW c (2 + p)) 30
def pairFilt (c : List Word) (p : Nat) : Nat := fld (cfgW c (2 + p)) 16 8
def pairDisc (c : List Word) (p : Nat) : Nat := fld (cfgW c (2 + p)) 0 13
def outEn (c : List Word) (o : Nat) : Bool := bit (cfgW c (10 + 2 * o)) 31
def outManual (c : List Word) (o : Nat) : Bool := bit (cfgW c (10 + 2 * o)) 30
def outCat1 (c : List Word) (o : Nat) : Bool := bit (cfgW c (10 + 2 * o)) 29
def outPairs (c : List Word) (o : Nat) : BitVec 8 := BitVec.ofNat 8 (fld (cfgW c (10 + 2 * o)) 16 8)
/-- Output mask of a node. -/
def nodeOuts (c : List Word) (n : Nat) : BitVec 8 := byteOf (cfgW c (26 + n / 4)) (n % 4)
/-- The configuration CRC; 0 where none is held. -/
def cfgCrc (c : List Word) : Word := cfgW c 90

/-- Bytes of words, in address order. -/
def wordBytes (ws : List Word) : List Byte := ws.flatMap (fun w => leBytes 4 w.toNat)

/-- FORMAT, SID and CRC of a staged image (R490). -/
def cfgFormOk (s : State) (c : List Word) : Bool :=
  decide (fld (cfgW c 0) 16 16 = 1) && decide (fld (cfgW c 0) 0 16 = rdf s Reg.FUS_SAFE_ID 0 16)
    && cfgCrc c == crc32 (wordBytes (c.take 90))

/-- Ranges of a pair word (R489). -/
def pairRangeOk (w : Word) : Bool :=
  fld w 24 6 == 0 && fld w 13 3 == 0 && decide (1 ≤ fld w 16 8) && decide (50 ≤ fld w 0 13 ∧ fld w 0 13 ≤ 5000)

/-- Ranges of the words of an output; PAIRS names enabled pairs only (R489). -/
def outRangeOk (c : List Word) (o : Nat) : Bool :=
  let w := cfgW c (10 + 2 * o)
  let v := cfgW c (11 + 2 * o)
  fld w 24 5 == 0 && fld w 13 3 == 0 && fld v 26 6 == 0
    && outPairs c o != 0 && (List.range 8).all (fun p => !(outPairs c o).getLsbD p || pairEn c p)
    && decide (fld w 0 13 ≤ 5000) && (outCat1 c o || fld w 0 13 == 0)
    && decide (200 ≤ fld v 16 10 ∧ fld v 16 10 ≤ 800) && decide (50 ≤ fld v 0 16 ∧ fld v 0 16 ≤ 5000)

/-- Every range of R489, those of disabled pairs and outputs too (R490). -/
def cfgRangeOk (c : List Word) : Bool :=
  cfgW c 1 == 0
    && (List.range 8).all (fun p => pairRangeOk (cfgW c (2 + p)))
    && (List.range 8).all (outRangeOk c)
    && nodeOuts c 0 == 0 && nodeOuts c 255 == 0

/-! ## What the channels hold -/

def bit8 (i : Nat) : BitVec 8 := BitVec.ofNat 8 (2 ^ i)
/-- Bit `i` of a mask of outputs or pairs set to `b`. -/
def setBit8 (w : BitVec 8) (i : Nat) (b : Bool) : BitVec 8 := if b then w ||| bit8 i else w &&& ~~~(bit8 i)

/-- The mask of the numbers below 8 that `p` picks. -/
def mask8 (p : Fin 8 → Bool) : BitVec 8 := ((fins 8).filter p).foldl (fun w (i : Fin 8) => w ||| bit8 i.val) 0

/-- Enabled pairs in RUN (R467). -/
def pairRuns (c : List Word) (k : SafeCh) : BitVec 8 := mask8 (fun p => pairEn c p && k.pair[p] == .run)

/-- A channel's output commands: off during an off-pulse of its own (R469). -/
def outCmd (i : Isl) (isSeal : Bool) : BitVec 8 :=
  let k := if isSeal then i.sealCh else i.wdnCh
  match i.pulse with
  | some (o, t) => if t = isSeal then setBit8 k.cmd o false else k.cmd
  | none => k.cmd

/-- Outputs that both channels command on (R462). -/
def outBoth (i : Isl) : BitVec 8 := outCmd i true &&& outCmd i false

/-- Side A and B of a pair at run (R465). -/
def atRunA (k : SafeCh) (p : Fin 8) : Bool := k.lvlA.getLsbD p
def atRunB (c : List Word) (k : SafeCh) (p : Fin 8) : Bool := k.lvlB.getLsbD p != pairAnti c p

/-- Whether the safe output cells are forced off: a reset of PD0 is asserted, or VIO is below its range (R561, R586; log
entry 130). -/
def soOff (s : State) : Bool := s.pwr.por || s.pwr.nReset || s.isl.vioLow

/-- SEAL_STAT.STATE and the other status registers follow the island (R496), and WDN_CMD_STAT.AUTHD (R497). -/
def showIsl (s : State) : State :=
  let i := s.isl
  let k := i.sealCh
  let c := i.cfg
  let st : Nat := match i.mode with
    | .startup => 0
    | .running => 1
    | .lockout => if i.auth.isSome then 3 else 2
  let run := pairRuns c k
  let wait := mask8 (fun p => pairEn c p && match k.pair[p] with | .demand _ w => w | .run => false)
  let dis := mask8 (fun p => pairEn c p && atRunA k p != atRunB c k p)
  let dem := mask8 (fun p => pairEn c p && k.pair[p] != .run)
  let s := wr s Reg.SEAL_STAT (BitVec.ofNat 32 (st * 2 ^ 29 + i.pendCfg.isSome.toNat * 2 ^ 28 + i.mstop.toNat * 2 ^ 27
    + (outBoth i).toNat * 2 ^ 16 + rdf s Reg.SEAL_STAT 8 8 * 2 ^ 8 + run.toNat))
  let s := wr s Reg.SEAL_SI_STAT (BitVec.ofNat 32 (dem.toNat * 2 ^ 24 + wait.toNat * 2 ^ 16 + dis.toNat * 2 ^ 8
    + rdf s Reg.SEAL_SI_STAT 0 8))
  let s := wr s Reg.SEAL_SO_STAT (BitVec.ofNat 32 ((outCmd i true).toNat * 2 ^ 24 + (outCmd i false).toNat * 2 ^ 16
    + (k.wait ||| i.wdnCh.wait).toNat * 2 ^ 8 + rdf s Reg.SEAL_SO_STAT 0 8))
  let s := wrb s Reg.WDN_CMD_STAT 30 i.auth.isSome
  { s with pins := { s.pins with so := if soOff s then 0 else outBoth i } }

/-! ## Ledger (R488, R491, R495) -/

/-- The ledger answers: PD0 is not in its power-on reset, and the check of R487 is made (R488). -/
def ledgerUp (s : State) : Bool := s.isl.checked && !s.pwr.por

/-- Time of an entry: the active domain, or domain A while marks are not running (R495). -/
def ledgerTime (s : State) : Word × Word × Word :=
  (if rdb s Reg.BSL_CTL 4 then now s else s.base.dom.a).words

/-- An entry of the safety change log before it has its number (R495). -/
def safeEntry (s : State) (kind master cause detail : Nat) (old new : Word) (acts : Bool) : SafeEntry :=
  let t := ledgerTime s
  { words := [BitVec.ofNat 32 (kind * 2 ^ 24 + master % 256 * 2 ^ 16 + cause % 256 * 2 ^ 8 + detail % 256), t.1, t.2.1,
      t.2.2, old, new]
    acts }

/-- A command completes: its result, and the password registers are cleared (R493). -/
def cmdDone (s : State) (result : Nat) : State :=
  let s := wrb (wrf s Reg.WDN_CMD_STAT 16 8 result) Reg.WDN_CMD_STAT 31 false
  forAll (List.range 4) s (fun s w => wr s (Reg.WDN_PWD w) 0)

/-- A pending commit or password takes effect (R490 to R492). -/
def entryActs (s : State) : State :=
  let s := match s.isl.pendCfg with
    | some c =>
      let fresh := fun (k : SafeCh) =>
        { k with pair := Vector.replicate 8 (.demand true false), timer := Vector.replicate 8 0, dem := 0, inDem := 0 }
      let s := updIsl s (fun i => { i with
        cfg := c, pendCfg := none, sealCh := fresh i.sealCh, wdnCh := fresh i.wdnCh, tests := Vector.replicate 8 0 })
      wr s Reg.WDN_CRC (cfgCrc c)
    | none => s
  let s := match s.isl.pendPwd with
    | some d => updIsl s (fun i => { i with digest := d, pendPwd := none })
    | none => s
  showIsl (cmdDone s 1)

/-- An entry written into the ledger under the next number (R495). -/
def ledgerWrite (s : State) (e : SafeEntry) : State :=
  let n := s.isl.nextS
  let ws := e.words ++ [BitVec.ofNat 32 n]
  let ws := ws ++ [crc32 (wordBytes ws)]
  let addr := 0x300000 + n % 128 * 32
  let s := { s with wmem := s.wmem.writeWords addr ws }
  let s := wr (updIsl s (fun i => { i with nextS := n + 1, writing := some (addr, s.tick) })) Reg.WDN_LEDGER
    (BitVec.ofNat 32 n)
  when e.acts s entryActs

/-- An entry that finds the queue full is dropped; a commit or password that it was to record is discarded (R488). -/
def ledgerDrop (s : State) (e : SafeEntry) : State :=
  let s := wrb s Reg.SEAL_EVT 27 true
  when e.acts s (fun s => cmdDone (updIsl s (fun i => { i with pendCfg := none, pendPwd := none })) 0)

/-- An entry goes into the ledger, or waits in the queue of 8 (R488, R491). -/
def ledgerPut (s : State) (e : SafeEntry) : State :=
  if ledgerUp s && !warning s && s.isl.queue.isEmpty then ledgerWrite s e
  else if s.isl.queue.length < 8 then updIsl s (fun i => { i with queue := i.queue ++ [e] })
  else ledgerDrop s e

/-- The waiting entries written in order (R488). -/
def ledgerDrain (s : State) : State :=
  if ledgerUp s && !warning s then
    let q := s.isl.queue
    forAll q (updIsl s (fun i => { i with queue := [] })) ledgerWrite
  else s

/-- Entry number `n` as the ledger holds it, where it is whole (R495, R566). -/
def ledgerRead (s : State) (n : Nat) : Option (List Word) :=
  let ws := s.wmem.readWords (0x300000 + n % 128 * 32) 8
  if (ws.getD 6 0).toNat = n ∧ ws.getD 7 0 = crc32 (wordBytes (ws.take 7)) then some ws else none

/-- The whole entries in the ledger, newest first. -/
def ledgerEntries (s : State) : List (List Word) :=
  ((List.range 128).filter (fun i => i < s.isl.nextS)).filterMap (fun i => ledgerRead s (s.isl.nextS - 1 - i))

def entryKind (e : List Word) : Nat := fld (e.getD 0 0) 24 8
def entryCause (e : List Word) : Nat := fld (e.getD 0 0) 8 8
def entryDetail (e : List Word) : Nat := fld (e.getD 0 0) 0 8

/-! ## Lock-out (R484 to R487) -/

/-- A lock-out begins: both channels hold every output off (R484). -/
def lockBegin (s : State) (cause detail condCause condDetail : Nat) : State :=
  let off := fun (k : SafeCh) => { k with cmd := 0, delaying := 0, wait := 0, expired := 0, inDem := 0 }
  let s := updIsl s (fun i => { i with
    mode := .lockout, condCause, condDetail, pulse := none, pulseWait := [], sealCh := off i.sealCh
    wdnCh := off i.wdnCh })
  let s := wrf (wrf s Reg.WDN_LOCK 24 4 cause) Reg.WDN_LOCK 16 8 detail
  let s := wrb (incf s Reg.WDN_LOCK 0 8) Reg.SEAL_EVT 31 true
  let c := cfgCrc s.isl.cfg
  let s := ledgerPut s (safeEntry s 3 0xFF cause detail c c false)
  hstIrq (assertSource (showIsl s) 0x128 (BitVec.ofNat 32 cause)) 10

/-- A lock-out is latched; in a lock-out the first cause stands, but for both heartbeats missing and a commit that
replaces CAUSE 11 (R481, R484). Before the check of R487 it waits: the island holds every output off (R488; log entry
128). -/
def lockOut (s : State) (cause detail : Nat) : State :=
  if !s.isl.checked then
    updIsl s (fun i => { i with early := if i.early.contains (cause, detail) then i.early else i.early ++ [(cause, detail)] })
  else if s.isl.mode = .lockout then
    let old := rdf s Reg.WDN_LOCK 24 4
    let repl := fun v => updIsl (wrf (wrf s Reg.WDN_LOCK 24 4 v) Reg.WDN_LOCK 16 8 0) (fun i =>
      { i with condCause := v, condDetail := 0 })
    if (cause = 4 ∧ old = 5) ∨ (cause = 5 ∧ old = 4) then repl 6
    else if cause = 10 ∧ old = 11 then repl 10
    else s
  else lockBegin s cause detail cause detail

/-- The condition that a release needs (R484). -/
def releaseOk (s : State) (cause detail : Nat) : Bool :=
  let c := s.isl.cfg
  let p : Fin 8 := Fin.ofNat 8 detail
  match cause with
  | 1 => [s.isl.sealCh, s.isl.wdnCh].all (fun k => atRunA k p == atRunB c k p)
  | 2 | 3 => !rdb s Reg.SEAL_STAT (8 + detail % 8)
  | 4 | 5 | 6 | 7 | 8 => decide (100 ≤ s.isl.sealCh.good) && decide (100 ≤ s.isl.wdnCh.good)
  | 9 => s.pln.node[Fin.ofNat 256 detail].sto || !rdb s (Reg.PLN_NODE (detail % 256)) 31
  | 10 => true
  | 11 => !c.isEmpty
  | 12 => rdb s Reg.PWR_STAT 8
  | _ => false

/-- What the ledger makes of the power-on: a lock-out restored or for want of a configuration, or start-up (R487). -/
def ledgerFound (s : State) : State :=
    let l := ledgerEntries s
    match l.find? (fun e => entryKind e == 3 || entryKind e == 4) with
    | some e =>
      if entryKind e = 3 then
        match l.find? (fun e => entryKind e == 3 && entryCause e != 13) with
        | some o => lockBegin s 13 (entryCause e) (entryCause o) (entryDetail o)
        | none => lockBegin s 13 (entryCause e) (entryDetail e) 0
      else if s.isl.cfg.isEmpty then lockOut s 11 0 else showIsl s
    | none => if s.isl.cfg.isEmpty then lockOut s 11 0 else showIsl s

/-- The check at the first instant at which the ledger answers; lock-outs that waited for it follow (R487, R488; log
entry 128). -/
def ledgerCheck (s : State) : State :=
  if s.isl.checked || s.pwr.por then s
  else
    let early := s.isl.early
    let s := ledgerFound (updIsl (newInstant s) (fun i => { i with checked := true, early := [] }))
    forAll early s (fun s e => lockOut s e.1 e.2)

/-! ## Inputs (R463 to R468) -/

/-- One input's filter: new level and count of ticks at the other level (R466). -/
def filt (lvl raw : Bool) (cnt n : Nat) : Bool × Nat :=
  if raw = lvl then (lvl, 0) else if n ≤ cnt + 1 then (raw, 0) else (lvl, cnt + 1)

/-- A channel's inputs filtered (R466). -/
def filterCh (c : List Word) (a b : BitVec 8) (k : SafeCh) : SafeCh :=
  let fa := fun (p : Fin 8) => filt (k.lvlA.getLsbD p) (a.getLsbD p) k.cntA[p] (pairFilt c p)
  let fb := fun (p : Fin 8) => filt (k.lvlB.getLsbD p) (b.getLsbD p) k.cntB[p] (pairFilt c p)
  { k with
    lvlA := mask8 (fun p => (fa p).1), lvlB := mask8 (fun p => (fb p).1)
    cntA := Vector.ofFn (fun p => (fa p).2), cntB := Vector.ofFn (fun p => (fb p).2) }

/-- A pair's next phase (R467). -/
def pairNext (a b : Bool) : PairPhase → PairPhase
  | .run => if a && b then .run else .demand (!a && !b) false
  | .demand both waits =>
    if both && a && b then .run
    else if !a && !b then .demand true false
    else .demand both (waits || (a && b))

/-- A channel's pairs evaluated: phases, disagreement timers and the pairs that left RUN (R467, R468). -/
def pairsEval (c : List Word) (k : SafeCh) : SafeCh :=
  let nx := fun (p : Fin 8) =>
    if pairEn c p then pairNext (atRunA k p) (atRunB c k p) k.pair[p] else k.pair[p]
  { k with
    pair := Vector.ofFn nx
    timer := Vector.ofFn (fun p => if pairEn c p && atRunA k p != atRunB c k p then k.timer[p] + 1 else 0)
    dem := k.dem ||| mask8 (fun p => k.pair[p] == .run && nx p != .run) }

/-- Raw levels as the channels see them: demand, and readbacks off, while VIO is out of range (R561). -/
def rawLevels (c : List Word) (l : SafeLevels) : BitVec 8 × BitVec 8 × BitVec 8 :=
  if l.vioOk then (l.siA, l.siB, l.sob) else (0, mask8 (fun p => pairAnti c p), 0)

/-! ## Outputs (R469 to R471) -/

/-- Outputs that a demand acts on in a channel: a pair of the mask not in RUN, or one that left it since the outputs
were last commanded, or the Margin safe stop (R469, R475). -/
def outDemand (i : Isl) (k : SafeCh) : BitVec 8 :=
  let notRun := ~~~(pairRuns i.cfg k) ||| k.dem
  mask8 (fun o => outEn i.cfg o && (i.mstop || (outPairs i.cfg o &&& notRun) != 0))

/-- The output that is being pulsed (R473). -/
def pulsed (i : Isl) : BitVec 8 :=
  match i.pulse with
  | some (o, _) => bit8 o
  | none => 0

/-- Outputs at which a demand arrives during their pulse: they stay off, whatever CAT1 says (R474). -/
def pulseHeld (i : Isl) (k : SafeCh) : BitVec 8 := pulsed i &&& outDemand i k &&& ~~~k.inDem

/-- A channel's output commands (R469 to R471, R474). -/
def outEval (i : Isl) (k : SafeCh) : SafeCh :=
  if i.mode = .running then
    let d := outDemand i k
    let en := mask8 (fun o => outEn i.cfg o)
    let man := mask8 (fun o => outManual i.cfg o)
    let cat1 := mask8 (fun o => outCat1 i.cfg o)
    let ended := k.expired ||| pulseHeld i k
    let delaying := (k.delaying ||| (k.cmd &&& d &&& cat1)) &&& ~~~ended
    let wait := k.wait ||| (d &&& man)
    { k with cmd := delaying ||| (en &&& ~~~d &&& ~~~wait &&& ~~~ended), delaying, wait, expired := 0, dem := 0, inDem := d }
  else { k with expired := 0, dem := 0, inDem := 0 }

/-- The Seal commands its outputs, and a demand that begins is reported to Margin (R471). An output that a demand met
during its pulse stays off in the Warden's channel too (R474). -/
def sealOutputs (s : State) : State :=
  let was := s.isl.sealCh.inDem
  let s := showIsl (updIsl s (fun i => { i with
    sealCh := outEval i i.sealCh, wdnCh := { i.wdnCh with expired := i.wdnCh.expired ||| pulseHeld i i.sealCh } }))
  forAll (fins 8) s (fun s o =>
    when ((s.isl.sealCh.inDem &&& ~~~was).getLsbD o) s (fun s => assertSource s (0x120 + o.val) 0))

/-- The Warden commands its outputs (R463). -/
def wardenOutputs (s : State) : State := showIsl (updIsl s (fun i => { i with wdnCh := outEval i i.wdnCh }))

/-- A discrepancy fault of a pair (R468). -/
def discFault (s : State) (p : Fin 8) : State := lockOut (wrb s Reg.SEAL_SI_STAT p true) 1 p

/-- The line of Margin's safe-stop request is idle: it carries no request, and its rails differ (R475, R512). -/
def lineIdle (s : State) : Bool := !rdb s Reg.MGN_STAT 31 && !s.isl.lineFault

/-- A tick: both channels sample, filter and evaluate; the Seal commands its outputs; a disagreement that outlasts DISC
latches its fault (R463 to R468). -/
def sealTick (s : State) (l : SafeLevels) : State :=
  let s := updIsl (newInstant s) (fun i => { i with lineFault := l.sameRails, vioLow := !l.vioOk })
  let c := s.isl.cfg
  let r := rawLevels c l
  let ev := fun k => pairsEval c (filterCh c r.1 r.2.1 k)
  let s := updIsl s (fun i => { i with
    sealCh := ev i.sealCh, wdnCh := ev i.wdnCh, mstop := i.mstop || !lineIdle s })
  let s := wrf s Reg.SEAL_STAT 8 8 r.2.2.toNat
  let s := orReg s Reg.SEAL_EVT (s.isl.sealCh.dem.setWidth 32)
  let s := sealOutputs s
  forAll (fins 8) s (fun s p =>
    when (pairEn c p && decide (pairDisc c p < s.isl.sealCh.timer[p])) s (fun s => discFault s p))

/-- A channel's part of a press: waiting outputs whose pairs are all in RUN wait no longer, and those in demand wait for
the next press (R470). -/
def restartCh (i : Isl) (k : SafeCh) : SafeCh :=
  let d := outDemand i k
  let man := mask8 (fun o => outManual i.cfg o)
  { k with wait := k.wait &&& (d ||| k.delaying) ||| (d &&& man) }

/-- A press is ignored whatever the lock-out asks: too short or too long, before the check of R487, or in start-up before
the Warden's first heartbeat (R470, R488, R563). -/
def pressIgnored (s : State) (lowMs : Nat) : Bool :=
  decide (lowMs < 50 ∨ 3000 < lowMs) || !s.isl.checked || (s.isl.mode == .startup && !s.isl.hbSeen)

/-- An SRST_N press at its rising edge: the Seal commands its outputs at once, the Warden at the end of its cycle (R463,
R470, R475, R485, R486, R488). -/
def srstPress (s : State) (lowMs : Nat) : State :=
  let ignored := wrb s Reg.SEAL_EVT 29 true
  if pressIgnored s lowMs then ignored
  else
    let taken := fun (s : State) =>
      updIsl (wrb s Reg.SEAL_EVT 30 true) (fun i => { i with mstop := i.mstop && !lineIdle s })
    match s.isl.mode with
    | .lockout =>
      if s.isl.auth.isSome && releaseOk s s.isl.condCause s.isl.condDetail then
        let s := taken s
        let c := cfgCrc s.isl.cfg
        let e := safeEntry s 4 0xFF (rdf s Reg.WDN_LOCK 24 4) (rdf s Reg.WDN_LOCK 16 8) c c false
        let s := updIsl s (fun i => { i with mode := .startup, auth := none, condCause := 0, condDetail := 0 })
        let s := wrf (wrf s Reg.WDN_LOCK 24 4 0) Reg.WDN_LOCK 16 8 0
        let s := wrf (wrf s Reg.SEAL_SI_STAT 0 8 0) Reg.SEAL_SO_STAT 0 8 0
        endCond (showIsl (ledgerPut s e)) 0x128
      else ignored
    | _ =>
      let s := updIsl (taken s) (fun i => { i with mode := .running })
      showIsl (updIsl s (fun i => { i with sealCh := outEval i (restartCh i i.sealCh), wdnCh := restartCh i i.wdnCh }))

/-- The DELAY of an output ends: it switches off in the Seal's channel, and in the Warden's at the end of its cycle
(R463, R471). -/
def offDelay (s : State) (o : Fin 8) : State :=
  let off := fun (k : SafeCh) => { k with delaying := setBit8 k.delaying o false, cmd := setBit8 k.cmd o false }
  let ends := fun (k : SafeCh) => { k with expired := setBit8 k.expired o true }
  if (s.isl.sealCh.delaying ||| s.isl.wdnCh.delaying).getLsbD o then
    showIsl (updIsl s (fun i => { i with sealCh := off i.sealCh, wdnCh := ends i.wdnCh }))
  else s

/-! ## Tests of the outputs (R472 to R474) -/

/-- A fault of an output with its lock-out (R472, R473). -/
def outFault (s : State) (cause : Nat) (o : Fin 8) : State := lockOut (wrb s Reg.SEAL_SO_STAT o true) cause o

/-- An off-pulse begins, or is skipped while the output is off (R473, R474). -/
def pulseBegin (s : State) (o : Fin 8) : State :=
  if (outBoth s.isl).getLsbD o then
    showIsl (updIsl s (fun i => { i with
      pulse := some (o, i.tests[o] % 2 == 0), tests := i.tests.upd o (· + 1) }))
  else incf s Reg.WDN_LOCK 8 8

/-- A test is due (R473, R474). -/
def pulseTest (s : State) (o : Fin 8) : State :=
  if !outEn s.isl.cfg o then s
  else
    match s.isl.pulse with
    | some (p, _) =>
      if p = o then s else updIsl s (fun i => { i with pulseWait := i.pulseWait ++ [o] })
    | none => pulseBegin s o

/-- The waiting tests once no output is pulsed: those of outputs that are off are skipped, and the first other begins
(R474). -/
def pulseNext : List (Fin 8) → State → State
  | [], s => updIsl s (fun i => { i with pulseWait := [] })
  | q :: r, s =>
    let t := pulseBegin s q
    if t.isl.pulse.isSome then updIsl t (fun i => { i with pulseWait := r }) else pulseNext r t

/-- The off-pulse ends, and the first waiting test begins (R473, R474). -/
def pulseEnd (s : State) (o : Fin 8) : State :=
  match s.isl.pulse with
  | some (p, _) =>
    if p ≠ o then s
    else pulseNext s.isl.pulseWait (showIsl (updIsl s (fun i => { i with pulse := none })))
  | none => s

/-! ## Heartbeats (R480 to R482) -/

/-- The channel that receives, changed. -/
def updSafe (s : State) (isSeal : Bool) (f : SafeCh → SafeCh) : State :=
  updIsl s (fun i => if isSeal then { i with sealCh := f i.sealCh } else { i with wdnCh := f i.wdnCh })

/-- A channel finds the other's heartbeat missing: CAUSE 4 seen by the Seal, 5 seen by the Warden (R481). -/
def hbMissing (s : State) (isSeal : Bool) : State :=
  lockOut (updSafe (newInstant s) isSeal (fun k => { k with good := 0 })) (if isSeal then 4 else 5) 0

/-- The heartbeat that a channel forms: the next sequence number, its pair states, output commands and configuration CRC
(R480). -/
def hbForm (s : State) (sender : SafeChannel) : Heartbeat :=
  let isSeal := sender == .seal
  let k := if isSeal then s.isl.sealCh else s.isl.wdnCh
  { seq := k.sent + 1, pairs := pairRuns s.isl.cfg k, cmds := outCmd s.isl isSeal, crc := cfgCrc s.isl.cfg }

/-- A channel sends a heartbeat: its sequence advances by 1 (R480). -/
def hbSend (s : State) (sender : SafeChannel) : State :=
  updSafe s (sender == .seal) (fun k => { k with sent := k.sent + 1 })

/-- A heartbeat arrives (R480 to R482). -/
def hbReceive (s : State) (sender : SafeChannel) (h : Heartbeat) : State :=
  let isSeal := sender == .warden
  let s := wrf s Reg.WDN_HB (if isSeal then 16 else 0) 16 h.seq.toNat
  let s := when isSeal s (fun s => updIsl s (fun i => { i with hbSeen := true }))
  let i := s.isl
  let k := if isSeal then i.sealCh else i.wdnCh
  let seqOk := match k.seq with | some q => h.seq == q + 1 | none => true
  let same := h.pairs == pairRuns i.cfg k && h.cmds == outCmd i isSeal
  let s := updSafe s isSeal (fun k => { k with
    seq := some h.seq, diff := !same, good := if same then min 100 (k.good + 1) else 0 })
  if !seqOk || h.crc != cfgCrc i.cfg then hbMissing s isSeal
  else if !same && k.diff then lockOut (newInstant s) 7 0
  else s

/-! ## Commands (R485, R490 to R494) -/

/-- The characters of the password registers. -/
def pwdChars (s : State) : List Byte :=
  ((List.range 16).map (fun i => byteOf (rd s (Reg.WDN_PWD (i / 4))) (i % 4))).take (rdf s Reg.WDN_PWD_LEN 0 5)

/-- The format of a password (R492). -/
def pwdOk (s : State) : Bool :=
  let n := rdf s Reg.WDN_PWD_LEN 0 5
  decide (8 ≤ n ∧ n ≤ 16) && (pwdChars s).all (fun b => decide (0x21 ≤ b.toNat ∧ b.toNat ≤ 0x7E))

/-- The digest of the salt and the characters (R492). -/
def pwdDigest (s : State) : List Byte :=
  sha256 (wordBytes ((List.range 4).map (fun w => rd s (Reg.FUS_SAFE_SALT w))) ++ pwdChars s)

/-- AUTH (R485, R494). -/
def cmdAuth (s : State) : State :=
  if s.isl.refusing then cmdDone (wrb s Reg.SEAL_EVT 28 true) 3
  else if s.isl.digest.isEmpty then cmdDone (wrb s Reg.SEAL_EVT 28 true) 9
  else if pwdDigest s = s.isl.digest then
    showIsl (cmdDone (updIsl s (fun i => { i with auth := some s.tick, fails := 0 })) 1)
  else
    let n := s.isl.fails + 1
    cmdDone (updIsl (wrb s Reg.SEAL_EVT 28 true) (fun i => { i with fails := n, refusing := decide (3 ≤ n) })) 2

/-- The staged image (R489). -/
def staged (s : State) : List Word := s.wmem.readWords 0x100100 91

/-- COMMIT by master `m` (R490, R491). -/
def cmdCommit (s : State) (m : Nat) : State :=
  let c := staged s
  if s.isl.auth.isNone then cmdDone s 4
  else if !cfgFormOk s c then cmdDone s 5
  else if !cfgRangeOk c then cmdDone s 6
  else
    let old := cfgCrc s.isl.cfg
    let s := updIsl s (fun i => { i with auth := none, pendCfg := some c })
    let s := lockOut (newInstant s) 10 0
    showIsl (ledgerPut s (safeEntry s 1 m 0 0 old (cfgCrc c) true))

/-- SET_PWD by master `m` (R491, R492). -/
def cmdSetPwd (s : State) (m : Nat) : State :=
  if s.isl.auth.isNone && !s.isl.digest.isEmpty then cmdDone s 4
  else if !pwdOk s then cmdDone s 7
  else
    let s := updIsl s (fun i => { i with pendPwd := some (pwdDigest s) })
    ledgerPut s (safeEntry s 2 m 0 0 0 0 true)

/-- A command with OP and TAG of the word: refused to other masters, and not executed again under the tag of the
previous one (R493). -/
def wdnRun (s : State) (m : Master) (v : Word) : State :=
  let tag : Half := BitVec.ofNat 16 (fld v 16 16)
  if s.isl.lastTag = some tag then s
  else
    let s := updIsl s (fun i => { i with lastTag := some tag })
    let s := wrb (wrf (wrf s Reg.WDN_CMD_STAT 0 16 tag.toNat) Reg.WDN_CMD_STAT 16 8 0) Reg.WDN_CMD_STAT 31 true
    if 1 < m.val then cmdDone s 8
    else
      match fld v 0 8 with
      | 1 => cmdAuth s
      | 2 => cmdCommit s m
      | 3 => cmdSetPwd s m
      | 4 => showIsl (cmdDone (updIsl s (fun i => { i with auth := none })) 1)
      | _ => cmdDone s 0

/-- A write of 1 to WDN_CMD.GO: run at once, or after the command that runs (R493). -/
def wdnGo (s : State) (m : Master) (v : Word) : State :=
  if rdb s Reg.WDN_CMD_STAT 31 then updIsl s (fun i => { i with nextCmd := some (m, v) }) else wdnRun s m v

/-- A command that waited runs once the one before it has completed (R493). -/
def wdnNext (s : State) : State :=
  match s.isl.nextCmd with
  | some (m, v) =>
    if rdb s Reg.WDN_CMD_STAT 31 then s else wdnRun (updIsl s (fun i => { i with nextCmd := none })) m v
  | none => s

/-! ## Power (R461, R488, R563) -/

/-- VSAFE power-on: the island resets, keeps configuration, password, failure count and ledger, and holds every output
off until the ledger answers (R461, R488, R494). -/
def vsafeOn (s : State) : State :=
  let s := updIsl s (fun i => { Isl.reset with
    mode := .startup, checked := false, cfg := i.cfg, digest := i.digest, fails := i.fails, refusing := i.refusing
    condCause := 0, nextS := i.nextS, lineFault := i.lineFault, vioLow := i.vioLow, writing := i.writing })
  let s := dropRegs s (fun a => decide (0x04A00000 ≤ a ∧ a < 0x04A00020) || decide (Reg.WDN_CMD ≤ a ∧ a < Reg.WDN_CMD + 0x20))
  let s := wr (wr s Reg.WDN_LOCK 0) Reg.WDN_CRC (cfgCrc s.isl.cfg)
  let s := wr s Reg.WDN_LEDGER (BitVec.ofNat 32 (s.isl.nextS - 1))
  endCond (showIsl s) 0x128

/-- The power-on reset of PD0 stops the Warden's tick: CAUSE 4, once a Warden heartbeat has been seen (R461, R563). -/
def islPowerOnReset (s : State) : State := if s.isl.hbSeen then hbMissing s true else s

/-! ## STOP bits (R476, R477) -/

/-- A channel's STOP bit for node `n`. -/
def stopBitOf (i : Isl) (k : SafeCh) (n : Nat) : Bool :=
  decide (1 ≤ n ∧ n ≤ 254) && (i.mode == .lockout || (nodeOuts i.cfg n &&& ~~~k.cmd) != 0)

/-- The STOP bit that the container carries: the OR of both channels' (R476). -/
def stopBit (s : State) (n : Nat) : Bool := stopBitOf s.isl s.isl.wdnCh n || stopBitOf s.isl s.isl.sealCh n

/-- The STOP field of the downlink container, 32 bytes (R301). -/
def stopField (s : State) : List Byte :=
  (List.range 32).map (fun b => mask8 (fun j => stopBit s (8 * b + j.val)))

/-! ## Meanings -/

/-- SEAL_TICK (R463). -/
def execSealTick (l : SafeLevels) (s : State) : Host.Outcome State Fault Refusal := .next (sealTick s l)

/-- WARDEN_CYCLE (R463). -/
def execWardenCycle (s : State) : Host.Outcome State Fault Refusal := .next (wardenOutputs s)

/-- DISCREPANCY_FAULT: the timer of the pair has reached DISC (R468). -/
def execDiscrepancyFault (p : Fin 8) (s : State) : Host.Outcome State Fault Refusal :=
  .next (if pairEn s.isl.cfg p && decide (pairDisc s.isl.cfg p ≤ s.isl.sealCh.timer[p]) then discFault (newInstant s) p
    else s)

/-- OFF_DELAY_EXPIRY (R471). -/
def execOffDelayExpiry (o : Fin 8) (s : State) : Host.Outcome State Fault Refusal := .next (offDelay s o)

/-- READBACK_FAULT (R472). -/
def execReadbackFault (o : Fin 8) (s : State) : Host.Outcome State Fault Refusal := .next (outFault (newInstant s) 2 o)

/-- OFF_PULSE_TEST (R473). -/
def execOffPulseTest (o : Fin 8) (s : State) : Host.Outcome State Fault Refusal := .next (pulseTest s o)

/-- OFF_PULSE_FAULT (R473). -/
def execOffPulseFault (o : Fin 8) (s : State) : Host.Outcome State Fault Refusal :=
  .next (if outEn s.isl.cfg o then outFault (newInstant s) 3 o else s)

/-- OFF_PULSE_END (R473). -/
def execOffPulseEnd (o : Fin 8) (s : State) : Host.Outcome State Fault Refusal := .next (pulseEnd s o)

/-- HEARTBEAT: the sender's own, or another that arrives in its place (R480). -/
def execHeartbeat (sender : SafeChannel) (h : Option Heartbeat) (s : State) : Host.Outcome State Fault Refusal :=
  .next (hbReceive (hbSend s sender) sender (h.getD (hbForm s sender)))

/-- HEARTBEAT_MISSING: the Seal supervises from the first Warden heartbeat on (R481, R563). -/
def execHeartbeatMissing (seenBy : SafeChannel) (s : State) : Host.Outcome State Fault Refusal :=
  .next (if s.isl.hbSeen || seenBy == .warden then hbMissing s (seenBy == .seal) else s)

/-- TICK_LOSS (R464). -/
def execTickLoss (s : State) : Host.Outcome State Fault Refusal := .next (lockOut (newInstant s) 8 0)

/-- SRST_N_PRESS (R470, R485, R486). -/
def execSrstNPress (lowMs : Half) (s : State) : Host.Outcome State Fault Refusal := .next (srstPress s lowMs.toNat)

/-- AUTHORISATION_EXPIRY (R485). -/
def execAuthorisationExpiry (s : State) : Host.Outcome State Fault Refusal :=
  .next (showIsl (updIsl s (fun i => { i with auth := none })))

/-- AUTH_REFUSAL_END (R494). -/
def execAuthRefusalEnd (s : State) : Host.Outcome State Fault Refusal :=
  .next (updIsl s (fun i => { i with refusing := false }))

/-- NODE_STO_FEEDBACK: a member with the capability has not reported STO since its STOP bit was first sent (R479). -/
def execNodeStoFeedback (n : Fin 256) (s : State) : Host.Outcome State Fault Refusal :=
  let k := s.pln.node[n]
  .next (if rdb s (Reg.PLN_NODE n) 31 && k.safe && k.stopSent && !k.stoSeen then lockOut (newInstant s) 9 n else s)

/-- MARGIN_SAFE_STOP (R475). -/
def execMarginSafeStop (s : State) : Host.Outcome State Fault Refusal :=
  .next (sealOutputs (updIsl (newInstant s) (fun i => { i with mstop := true })))

/-- VSAFE_POWER_ON (R461, R488). -/
def execVsafePowerOn (s : State) : Host.Outcome State Fault Refusal := .next (vsafeOn s)

/-- LEDGER_CHECK (R487, R488). -/
def execLedgerCheck (s : State) : Host.Outcome State Fault Refusal := .next (ledgerCheck s)

/-- LEDGER_QUEUE_WRITE (R488). -/
def execLedgerQueueWrite (s : State) : Host.Outcome State Fault Refusal := .next (wdnNext (ledgerDrain s))

/-- VSAFE_FAULT (R574). -/
def execVsafeFault (s : State) : Host.Outcome State Fault Refusal := .next (lockOut (newInstant s) 12 0)

end Sys2Proof.Machine
end

