-- ==== Sys2Proof/Machine/PlenilFrames.lean ====
section
/-! DEFINITION. Plenil frames: their bytes, the tests of a receiver, the containers, and the frames that the controller
sends (R282 to R312). -/

namespace Sys2Proof.Machine

def updPln (s : State) (f : Pln → Pln) : State := { s with pln := f s.pln }

/-- Changes what a channel, a port or a node keeps. -/
def updCh (s : State) (c : Bool) (f : ChSt → ChSt) : State := updPln s (fun p => { p with ch := p.ch.set c (f (p.ch.get c)) })
def updPort (s : State) (p : Fin 4) (f : PortSt → PortSt) : State := updPln s (fun k => { k with port := k.port.upd p f })
def updNode (s : State) (n : Fin 256) (f : NodeSt → NodeSt) : State := updPln s (fun k => { k with node := k.node.upd n f })

/-- Channel B as an index. -/
def chIdx (c : Bool) : Nat := if c then 1 else 0
/-- What a channel keeps. -/
def chSt (s : State) (c : Bool) : ChSt := s.pln.ch.get c
/-- PLN_CH_STAT.STATE of a channel (R378). -/
def chState (s : State) (c : Bool) : Nat := rdf s (Reg.PLN_CH_STAT (chIdx c)) 29 3
/-- Port 0 and port 1 of a channel (R316). -/
def port0 (c : Bool) : Fin 4 := if c then 2 else 0
def port1 (c : Bool) : Fin 4 := if c then 3 else 1
/-- STATE of a port (R288). -/
def portState (s : State) (p : Fin 4) : Nat := rdf s (Reg.PLN_PORT_STAT p) 0 3
/-- DELAY in use of a port (R289). -/
def portDelay (s : State) (p : Fin 4) : Nat := rdf s (Reg.PLN_PORT_DLY p) 0 24
/-- The power domain of a channel (R12). -/
def chOn (s : State) (c : Bool) : Bool := pdOn s (11 + chIdx c)

/-! ## Bytes of a frame (R290) -/

def fb (f : List Byte) (i : Nat) : Byte := f.getD i 0
def f8 (f : List Byte) (i : Nat) : Nat := (fb f i).toNat
def f16 (f : List Byte) (i : Nat) : Nat := leNat ((f.drop i).take 2)
def f32 (f : List Byte) (i : Nat) : Nat := leNat ((f.drop i).take 4)

def frType (f : List Byte) : Nat := f8 f 0
def frSrc (f : List Byte) : Nat := f8 f 2
def frDst (f : List Byte) : Nat := f8 f 3
def frLen (f : List Byte) : Nat := f16 f 4
def frStroke (f : List Byte) : Nat := f16 f 6
def frHops (f : List Byte) : Nat := f8 f 8
def frCorr (f : List Byte) : Nat := f32 f 10
/-- The payload of a frame. -/
def payload (f : List Byte) : List Byte := (f.drop 16).take (frLen f)

/-- The next multiple of 4. -/
def pad4 (n : Nat) : Nat := (n + 3) / 4 * 4

/-- The FCS of the bytes before it (R291). -/
def fcsOf (body : List Byte) : List Byte := leBytes 4 (crc32 body).toNat

/-- The body of a frame: every byte but the FCS. -/
def frBody (f : List Byte) : List Byte := f.take (f.length - 4)
def frFcs (f : List Byte) : List Byte := f.drop (f.length - 4)

/-- The FCS is correct; the frame is stomped, its FCS being the complement (R291). -/
def fcsOk (f : List Byte) : Bool := frFcs f == fcsOf (frBody f)
def isStomped (f : List Byte) : Bool := frFcs f == (fcsOf (frBody f)).map (~~~ ·)

/-- The frame with the complement of its FCS (R291). -/
def stomp (f : List Byte) : List Byte := frBody f ++ (frFcs f).map (~~~ ·)

/-- The stroke of the header: page count bits [9:0] and stroke (R290). -/
def strokeField (s : State) : Nat := pageNo s % 1024 * 64 + strokeNo s

/-- The controller follows a stroke grid that is its network's: integrated, or, where it is not capable of a cold start
and its STATE stays 0, after 64 valid strokes (R292, R334, R356; log entry 39). -/
def integrated (s : State) : Bool :=
  let st := rdf s Reg.PLN_CS_STAT 0 4
  marks s && (decide (5 ≤ st) || (st == 0 && decide (64 ≤ s.pln.integ)))

/-- The tests of R292 but for the FCS: the length, VER, TYPE, LEN, CH and STROKE. -/
def headerOk (s : State) (c : Bool) (f : List Byte) : Bool :=
  decide (20 ≤ f.length ∧ f.length ≤ 4096) && f.length == 16 + pad4 (frLen f) + 4
    && (fb f 1).toNat / 16 == 1 && decide (1 ≤ frType f ∧ frType f ≤ 9)
    && (fb f 1).getLsbD 3 == c && (!integrated s || frStroke f == strokeField s)

/-- A frame that a receiver accepts on channel `c` (R286, R292). -/
def frameOk (s : State) (c : Bool) (f : RxFrame) : Bool := !f.viol && headerOk s c f.bytes && fcsOk f.bytes

/-- Frames pass forward through the controller on the channel: its port 1 is in state 4, or, where that port is down and
it wraps, its port 0 (R288, R361, R362). -/
def rxUp (s : State) (c : Bool) : Bool := portState s (port1 c) == 4 || portState s (port0 c) == 4

/-- A copy that the controller takes: valid, and the channel neither withdrawn, probing, down nor off (R288, R370,
R377). -/
def copyOk (s : State) (c : Bool) (f : RxFrame) : Bool :=
  chOn s c && decide (chState s c < 2) && rxUp s c && frameOk s c f

/-- The copy is addressed to the controller (R283). -/
def toMe (s : State) (f : List Byte) : Bool := frDst f == ctrlId s || frDst f == 255

/-- Present time after the send mark in 2^-8 ns: a receive timestamp (R311, R313). -/
def strokeTime (s : State) : Nat := (((now s).diff s.base.sendTime) / 2 ^ 16).toNat

/-- The port by which frames reach the controller forward: port 1, or port 0 while port 1 is down (R361, R362). -/
def rxPort (s : State) (c : Bool) : Fin 4 := if portState s (port1 c) = 4 then port1 c else port0 c

/-- Path delay of a received frame: CORR and the link delay of the port that received it, in 2^-8 ns (R312, R346,
R362). -/
def pathOf (s : State) (c : Bool) (f : List Byte) : Nat := frCorr f + portDelay s (rxPort s c)

/-! ## Sending (R290, R291) -/

/-- The active script. -/
def activeScript (s : State) : Fin 8 := Fin.ofNat 8 (rdf s Reg.PLN_SCR_STAT 0 3)

/-- The script that stands under number `k`: the draft script in place of script 7 during draft service (R342). -/
def scriptAt (s : State) (k : Fin 8) : Option Script :=
  if k = 7 ∧ draftService s then s.pln.draftScript else s.pln.script[k]

/-- A frame of the controller's own on channel `c` (R290, R291). -/
def mkFrame (s : State) (c : Bool) (typ dst : Nat) (pl : List Byte) : List Byte :=
  let n := pl.length
  let b1 := 16 + 8 * chIdx c + (activeScript s).val
  let hdr := [BitVec.ofNat 8 typ, BitVec.ofNat 8 b1, BitVec.ofNat 8 (ctrlId s), BitVec.ofNat 8 dst] ++ leBytes 2 n
    ++ leBytes 2 (strokeField s) ++ List.replicate 8 0
  let body := hdr ++ pl ++ List.replicate (pad4 n - n) 0
  body ++ fcsOf body

/-- Columns of a frame with its start and end columns and one idle pair (R285, R319). -/
def columns (f : List Byte) : Nat := f.length / 4 + 4

/-- Columns as a time in 2^-8 ns: 1.6 ns each (R285). -/
def colTime (n : Nat) : Nat := n * 4096 / 10

/-- The reference block: the latched send mark in the active domain, and the offset of the other (R295, R386). -/
def refBlock (s : State) : List Byte :=
  let b := activeB s
  let t := s.base.latch.get b
  let ofs := shr ((s.base.latch.get (!b)).diff t) 8
  let st := rd s Reg.PLN_TIME_STAT
  [byteOf st 0, byteOf st 1, BitVec.ofNat 8 (b.toNat + 2 * (bit st 20).toNat + 4 * (bit st 21).toNat), 0]
    ++ leBytes 6 t.sec.toNat ++ leBytes 4 t.ns.toNat ++ leBytes 2 (t.frac.toNat / 256) ++ leBytes 8 (unsignedOf 64 ofs)

/-- The axes that a set-point frame names, ascending: every used axis that is not virtual, or the draft axes (R294,
R261). -/
def frameAxes (s : State) : List (Fin 256) :=
  if fullService s then (fins 256).filter (fun n => s.axcfg[n].used && !s.axcfg[n].virt)
  else (fins 256).filter (fun n => s.drafts.any (fun d => d.axis == n))

/-- Group stops that the Steward holds in the transmit control of channel `c` (R24, R511). -/
def stwStops (s : State) (c : Bool) : Word := s.mgn.stwStop.get c ||| s.mgn.stwReact.get c

/-- QS of an axis entry (R298, R327, R348, R351). -/
def entryQs (s : State) (c : Bool) (n : Fin 256) : Bool :=
  let a := s.ax[n]
  a.qsLoss || a.qsJoin || a.qsLeave || bit (stwStops s c) s.axcfg[n].group.val

/-- An axis entry (R296). -/
def axisEntry (s : State) (c : Bool) (n : Fin 256) : List Byte :=
  let a := s.ax[n]
  [BitVec.ofNat 8 (a.out[0].toNat % 4 + 4 * a.age.toNat + 8 * (entryQs s c n).toNat), BitVec.ofNat 8 n.val]
    ++ leBytes 2 a.out[1].toNat ++ leBytes 2 a.out[2].toNat ++ leBytes 2 a.out[3].toNat

/-- SCRC over a container's bytes and the header's STROKE (R303). -/
def scrc (cont : List Byte) (stroke : Nat) : List Byte := leBytes 4 (crc32c (cont ++ leBytes 2 stroke)).toNat

/-- The downlink container (R301, R476). -/
def downContainer (s : State) : List Byte :=
  let c := leBytes 2 (rdf s Reg.FUS_SAFE_ID 0 16) ++ leBytes 2 s.pln.sseq.toNat ++ stopField s ++ [0, 0, 0, 0]
  c ++ scrc c (strokeField s)

/-- The SETPOINT of the stroke on channel `c` (R294). -/
def setpointFrame (s : State) (c : Bool) : List Byte :=
  let axes := frameAxes s
  mkFrame s c 1 255 (refBlock s ++ leBytes 2 axes.length ++ [0, 0] ++ axes.flatMap (axisEntry s c) ++ downContainer s)

/-- The REFERENCE of the stroke (R304). -/
def referenceFrame (s : State) (c : Bool) : List Byte := mkFrame s c 3 255 (refBlock s)

/-- The COLDSTART of the stroke (R305). -/
def coldstartFrame (s : State) (c : Bool) : List Byte :=
  let t := s.base.latch.get (activeB s)
  mkFrame s c 4 255 ([BitVec.ofNat 8 (rdf s Reg.PLN_CS_STAT 8 2),
      BitVec.ofNat 8 (s.base.period + 4 * (activeScript s).val)]
    ++ leBytes 2 (rdf s Reg.PLN_CS_STAT 16 16) ++ leBytes 4 s.pln.netid.toNat ++ leBytes 6 t.sec.toNat
    ++ leBytes 4 t.ns.toNat ++ [0, 0])

/-- A JOIN_GRANT on channel `c`, with that channel's transmit instant (R305, R347). -/
def grantFrame (s : State) (c : Bool) (g : Grant) : List Byte :=
  mkFrame s c 6 255 (leBytes 8 g.uid.toNat ++ [g.id, BitVec.ofNat 8 g.result] ++ leBytes 2 g.slot
    ++ leBytes 4 ((g.inst.get c).getD 0) ++ leBytes 2 g.page ++ [BitVec.ofNat 8 g.axes.length, 0]
    ++ g.axes.map (fun a => BitVec.ofNat 8 a.val))

/-- An ACYC_CMD to node `n` (R306). -/
def acycFrame (s : State) (c : Bool) (n : Fin 256) (k : AcycCmd) : List Byte :=
  mkFrame s c 7 n (leBytes 2 k.tag.toNat ++ [k.op, k.la] ++ leBytes 2 k.data.length ++ [0, 0] ++ k.data)

/-- A SWITCH with PHASE `ph` and the PERIOD after the boundary (R310). -/
def switchFrame (s : State) (c : Bool) (w : SwitchSt) (ph period : Nat) : List Byte :=
  mkFrame s c 9 255 ([BitVec.ofNat 8 ph, BitVec.ofNat 8 w.target.val] ++ leBytes 2 w.page ++ leBytes 2 (w.page + 2)
    ++ [BitVec.ofNat 8 period, 0])

end Sys2Proof.Machine
end

