-- ==== Sys2Proof/Machine/Plenil.lean ====
section
/-! DEFINITION. Plenil members: nodes and their loss, acyclic commands and request rings, joins, leaves and the script
switch agreement (R324 to R330, R340 to R357). -/

namespace Sys2Proof.Machine

/-! ## Node registers (R356) -/

def isMember (s : State) (n : Fin 256) : Bool := rdb s (Reg.PLN_NODE n) 31
def isJoining (s : State) (n : Fin 256) : Bool := rdb s (Reg.PLN_NODE n) 30
def isLeaving (s : State) (n : Fin 256) : Bool := rdb s (Reg.PLN_NODE n) 29
def isLost (s : State) (n : Fin 256) : Bool := rdb s (Reg.PLN_NODE n) 28
def isDrift (s : State) (n : Fin 256) : Bool := rdb s (Reg.PLN_NODE n) 27
def missRun (s : State) (n : Fin 256) : Nat := rdf s (Reg.PLN_NODE n) 16 8
def setNodeBit (s : State) (n : Fin 256) (i : Nat) (b : Bool) : State := wrb s (Reg.PLN_NODE n) i b

/-- The members, ascending. -/
def members (s : State) : List (Fin 256) := (fins 256).filter (isMember s)

/-- The node table's entry of a node (R602), and its axes. -/
def nodeCfg (s : State) (n : Nat) : Option NodeCfg := s.pln.nodes.find? (fun k => k.id.toNat == n)
def nodeAxes (s : State) (n : Fin 256) : List (Fin 256) :=
  match nodeCfg s n with
  | some k => k.axes
  | none => (s.drafts.filter (fun d => d.node.toNat == n.val)).map (·.axis)

/-- The node that serves an axis; 0 is none. -/
def axisNode (s : State) (a : Fin 256) : Nat :=
  match s.pln.nodes.find? (fun k => k.axes.contains a) with
  | some k => k.id.toNat
  | none => 0

/-- Groups with an axis on the node. -/
def nodeGroups (s : State) (n : Fin 256) : List (Fin 32) :=
  (fins 32).filter (fun g => (nodeAxes s n).any (fun a => s.axcfg[a].group == g))

/-- A flag of every axis of a node set. -/
def forAxes (s : State) (n : Fin 256) (f : AxisSt → AxisSt) : State := forAll (nodeAxes s n) s (fun s a => updAx s a f)

/-! ## Loss (R327, R328, R330) -/

/-- The node-loss source of each group of the node follows LOST of the group's nodes (R501). -/
def lossSources (s : State) (n : Fin 256) : State :=
  forAll (nodeGroups s n) s (fun s g =>
    setCond s (0x20 + g.val) ((fins 256).any (fun m => isLost s m && (nodeGroups s m).contains g)) (BitVec.ofNat 32 n.val))

/-- The loss reaction (R327). -/
def nodeLoss (s : State) (n : Fin 256) : State :=
  if isLost s n then s
  else lossSources (forAxes (setNodeBit s n 28 true) n (fun a => { a with qsLoss := true })) n

/-- LOST ends (R330, R352). -/
def lossEnds (s : State) (n : Fin 256) : State :=
  lossSources (forAxes (setNodeBit s n 28 false) n (fun a => { a with qsLoss := false })) n

/-- RESUME (R330). -/
def resumeNode (s : State) (n : Fin 256) : State :=
  if isLost s n && missRun s n == 0 && !isDrift s n then lossEnds s n else wrb s Reg.PLN_NODE_CTL 31 true

/-- A member at the freeze mark: missing or not, and its drift (R326 to R328). -/
def nodeFreeze (s : State) (n : Fin 256) : State :=
  let k := s.pln.node[n]
  let run := if k.seen then 0 else satN 8 (missRun s n + 1)
  let s := setNodeBit (wrf s (Reg.PLN_NODE n) 16 8 run) n 26 (decide (3 ≤ run))
  let s := updNode s n (fun k => { k with
    seen := false, edge := false, clean := if k.seen && !k.edge then k.clean + 1 else 0
    driftAge := if isDrift s n then k.driftAge + 1 else 0 })
  let s := when (isDrift s n && decide (8 ≤ s.pln.node[n].clean)) s (fun s => setNodeBit s n 27 false)
  when (decide (s.pln.absence < run)) s (fun s => nodeLoss s n)

/-- An edge violation (R325, R328). -/
def edgeViolation (s : State) (n : Fin 256) : State :=
  let s := incf (incf s (Reg.PLN_NODE n) 8 8) (Reg.PLN_NODE n) 0 8
  let s := updNode s n (fun k => { k with edge := true })
  if rdf s (Reg.PLN_NODE n) 8 8 < 3 ∨ isDrift s n then s
  else updNode (setNodeBit s n 27 true) n (fun k => { k with clean := 0, driftAge := 0 })

/-! ## Scripts and slots (R317 to R320, R343) -/

/-- Scripts that are loaded. -/
def loadedScripts (s : State) : List (Fin 8 × Script) :=
  ((fins 8).filter (fun k => rdb s Reg.PLN_SCR_STAT (8 + k.val))).filterMap (fun k => (scriptAt s k).map (fun c => (k, c)))

/-- The active script. -/
def activeScr (s : State) : Option Script := scriptAt s (activeScript s)

/-- DOWN_END of the active script; without one there is no bound. -/
def downEnd (s : State) : Nat := match activeScr s with | some c => c.downEnd | none => 2 ^ 32

/-- ACYC_MAX of the active script. -/
def acycMax (s : State) : Nat := match activeScr s with | some c => c.acycMax | none => 0

/-- A frame is counted as late (R324). -/
def lateFrame (s : State) : State := incf s Reg.PLN_SCR_STAT 24 8

/-- The slot that node `n` holds in the active script (R325). -/
def activeSlot (s : State) (n : Fin 256) : Option ScrSlot :=
  match activeScr s, s.pln.node[n].slot[activeScript s] with
  | some c, some i => c.slots[i]?
  | _, _ => none

/-- A slot is held by a member or reserved by a grant. -/
def slotTaken (s : State) (k : Fin 8) (i : Nat) : Bool :=
  (fins 256).any (fun n => (isMember s n || isJoining s n) && s.pln.node[n].slot[k] == some i)

/-- Channels with a known path. -/
def pathList (p : AB (Option Nat)) : List Nat := p.a.toList ++ p.b.toList

/-- A slot is usable: on every channel its transmit instant falls at least 200 ns after NODE_INSTANT (R346). -/
def slotUsable (c : Script) (t : ScrSlot) (p : AB (Option Nat)) : Bool :=
  (pathList p).all (fun d => decide (c.instant + 200 * 256 + d ≤ t.start))

/-- The slot of a script for a node: its fixed one, or the lowest usable pool slot that covers its axes (R346; log entry
41). -/
def findSlot (s : State) (k : Fin 8) (c : Script) (id axes : Nat) (p : AB (Option Nat)) : Option Nat :=
  let l := c.slots.zipIdx
  match l.find? (fun e => e.1.node == id) with
  | some e => if slotUsable c e.1 p then some e.2 else none
  | none => (l.find? (fun e => e.1.node == 0 && decide (axes ≤ e.1.cap) && slotUsable c e.1 p && !slotTaken s k e.2)).map (·.2)

/-- Transmit instant of a slot for a path (R346). -/
def txInstant (t : ScrSlot) (d : Nat) : Nat := t.start - d

/-! ## Acyclic commands (R306 to R309, R324, R355) -/

/-- A WRITE of a node parameter: OP and data (R307). -/
def paramWrite (index value : Nat) : Byte × List Byte := (2, leBytes 2 index ++ leBytes 4 value)

/-- The writes of a node's timing for script `k` (R343). -/
def timingWrites (s : State) (n : Fin 256) (k : Fin 8) : List (Byte × List Byte) :=
  match scriptAt s k, s.pln.node[n].slot[k] with
  | some c, some i =>
    match c.slots[i]? with
    | some t =>
      let p := s.pln.node[n].path
      let one := fun (j : Nat) (d : PathSt) => match d.assumed with
        | some x => [paramWrite (0x10 + 4 * k.val + j) (txInstant t x)]
        | none => []
      [paramWrite (0x10 + 4 * k.val) c.instant] ++ one 1 p.a ++ one 2 p.b ++ [paramWrite (0x13 + 4 * k.val) (2 ^ 31 + i)]
    | none => []
  | _, _ => []

/-- The controller's own commands queued for a node. -/
def queueTodo (s : State) (n : Fin 256) (l : List (AcycOwner × Byte × List Byte)) : State :=
  updNode s n (fun k => { k with todo := k.todo ++ l })

/-- The timing of script `k` as commands of which the last makes it VALID. -/
def timingCmds (s : State) (n : Fin 256) (k : Fin 8) : List (AcycOwner × Byte × List Byte) :=
  let l := timingWrites s n k
  l.zipIdx.map (fun e => (AcycOwner.timing k (e.2 + 1 == l.length), e.1.1, e.1.2))

/-- The timing of every loaded script but the active one is written (R348, R349). -/
def writeOthers (s : State) (n : Fin 256) : State :=
  forAll ((loadedScripts s).filter (fun e => e.1 ≠ activeScript s)) s (fun s e => queueTodo s n (timingCmds s n e.1))

/-- A command becomes the node's outstanding one, with the node's next TAG (R309). -/
def startCmd (s : State) (n : Fin 256) (owner : AcycOwner) (op la : Byte) (data : List Byte) : State :=
  updNode s n (fun k => { k with
    tag := k.tag + 1
    cmd := some { owner, op, la, data, tag := k.tag, due := true, busy := false, resends := 0, busys := 0, sent := 0 } })

/-- The next of the controller's own commands starts where none is outstanding. -/
def issueTodo (s : State) (n : Fin 256) : State :=
  match s.pln.node[n].cmd, s.pln.node[n].todo with
  | none, (o, op, d) :: r => startCmd (updNode s n (fun k => { k with todo := r })) n o op 0xFF d
  | _, _ => s

/-- A request ring: entries, address of entry `i`, RD (R356). -/
def ringLen (s : State) (q : Fin 4) : Nat := rdf s (Reg.PLN_ACQ_CFG q) 4 10 + 1
def ringAddr (s : State) (q : Fin 4) (i : Nat) : Nat := rdf s (Reg.PLN_ACQ_CFG q) 14 18 * 16 + i * 16
def ringRd (s : State) (q : Fin 4) : Nat := rdf s (Reg.PLN_ACQ_RD q) 0 10

/-- The entries of ring `q` in progress. -/
def ringActive (s : State) (q : Fin 4) : Nat :=
  ((fins 256).filter (fun n => match s.pln.node[n].cmd with
    | some k => match k.owner with | .ring p _ => p == q | _ => false
    | none => false)).length

/-- RD passes every ended entry at the head (R355). -/
def ringAdvance (q : Fin 4) : Nat → State → State
  | 0, s => s
  | k + 1, s =>
    let i := ringRd s q
    if s.pln.ended[q].contains i then
      let s := updPln s (fun p => { p with ended := p.ended.upd q (·.filter (· ≠ i)) })
      ringAdvance q k (wrf s (Reg.PLN_ACQ_RD q) 0 10 ((i + 1) % ringLen s q))
    else s

/-- An entry ends: word 3 and RD (R355). -/
def ringEnd (s : State) (q : Fin 4) (i result : Nat) (tag : Half) : State :=
  let s := when (pdOn s 10) s (fun s =>
    mwr32 s (ringAddr s q i + 12) (BitVec.ofNat 32 (2 ^ 31 + result * 2 ^ 16 + tag.toNat)))
  ringAdvance q 1024 (updPln s (fun p => { p with ended := p.ended.upd q (· ++ [i]) }))

/-- The next entry of a ring is taken, where it may be (R355; log entry 42). -/
def ringTake1 (s : State) (q : Fin 4) : Option State :=
  let i := (ringRd s q + ringActive s q + s.pln.ended[q].length) % ringLen s q
  if i = rdf s (Reg.PLN_ACQ_WR q) 0 10 ∨ acycMax s ≤ ringActive s q ∨ !pdOn s 10 then none
  else
    let a := ringAddr s q i
    let w0 := mrd32 s a
    let w1 := mrd32 s (a + 4)
    let len := fld w1 16 16
    let n : Fin 256 := Fin.ofNat 256 (fld w0 24 8)
    if fld w0 0 8 ≠ 0 ∨ fld w1 0 16 ≠ 0 ∨ 256 < len then
      some (ringEnd (wrb s (Reg.PLN_ACQ_RD q) 31 true) q i 3 0)
    else if !isMember s n then some (ringEnd s q i 0xFE 0)
    else if (s.pln.node[n].cmd).isSome then none
    else some (startCmd s n (.ring q i) (byteOf w0 2) (byteOf w0 1) (s.mem.readBytes (mrd32 s (a + 8)).toNat len))

/-- Entries of a ring taken in order until one is held back. -/
def ringTake (q : Fin 4) : Nat → State → State
  | 0, s => s
  | k + 1, s => match ringTake1 s q with
    | some t => ringTake q k t
    | none => s

/-- Every ring takes what it may. -/
def ringsTake (s : State) : State := forAll (fins 4) s (fun s q => ringTake q 1024 s)

/-- A join fails: its slots return to their use (R347). -/
def joinFail (s : State) (n : Fin 256) : State :=
  if !isJoining s n then s
  else
    let own := fun (o : AcycOwner) => match o with | .ring _ _ => false | _ => true
    let s := updNode (setNodeBit s n 30 false) n (fun k => { k with
      slot := Vector.replicate 8 none, todo := [], removeHeld := false, joinBad := false
      cmd := k.cmd.filter (fun c => !own c.owner), valid := 0, uid := 0 })
    wrf (wrf s Reg.PLN_JOIN_STAT 8 4 5) Reg.PLN_JOIN_STAT 0 8 n

/-- VALID timing after a WRITE of a timing parameter that the node has carried out: an instant clears it, and the last
index sets it as written (R344). -/
def validAfter (k : AcycCmd) (v : BitVec 8) : BitVec 8 :=
  let i := leNat (k.data.take 2)
  if k.op = 2 ∧ 0x10 ≤ i ∧ i < 0x30 then
    let m := bit8 (Fin.ofNat 8 ((i - 0x10) / 4))
    if i % 4 = 3 ∧ (fb k.data 5).getLsbD 7 then v ||| m else v &&& ~~~m
  else v

/-- The outstanding command of a node ends with RESULT and response data (R306, R344, R347, R351, R355). -/
def acycDone (s : State) (n : Fin 256) (k : AcycCmd) (result : Nat) (data : List Byte) : State :=
  let s := updNode s n (fun m => { m with cmd := none, valid := if result = 0 then validAfter k m.valid else m.valid })
  let s := match k.owner with
    | .ring q i =>
      let buf := (mrd32 s (ringAddr s q i + 8)).toNat
      let s := when (pdOn s 10) s (fun s => { s with mem := s.mem.writeBytes buf data })
      ringEnd s q i result k.tag
    | .join => if result = 0 then s else joinFail s n
    | .timing sc _ =>
      if result = 0 then s
      else updNode s n (fun m => { m with todo := m.todo.filter (fun e => match e.1 with
        | .timing sc' _ => sc' != sc
        | _ => true) })
    | .tables => s
    | .leave => updNode s n (fun m => { m with ends := true, left := decide (result ≠ 0xFF) })
  ringsTake (issueTodo s n)

/-- The outstanding command of a node fails (R309, R324, R351). -/
def acycFail (s : State) (n : Fin 256) (k : AcycCmd) : State :=
  match k.owner with
  | .leave => acycDone (setNodeBit s n 24 true) n k 0xFF []
  | .join => ringsTake (updNode s n (fun m => { m with cmd := none, joinBad := true }))
  | _ => acycDone s n k 0xFF []

/-- No response has arrived by the eighth stroke (R309). -/
def acycResend (s : State) (n : Fin 256) : State :=
  match s.pln.node[n].cmd with
  | some k =>
    if k.due || k.busy then s
    else if 3 ≤ k.resends then acycFail s n k
    else updNode s n (fun m => { m with cmd := some { k with due := true, resends := k.resends + 1 } })
  | none => s

/-- The eighth stroke after a busy answer (R324). -/
def acycBusyResend (s : State) (n : Fin 256) : State :=
  match s.pln.node[n].cmd with
  | some k => if k.busy then updNode s n (fun m => { m with cmd := some { k with due := true, busy := false } }) else s
  | none => s

/-- An acyclic response on channel `c` (R306, R309, R324). -/
def acycResponse (s : State) (c : Bool) (f : RxFrame) : State :=
  let b := f.bytes
  if !copyOk s c f || frType b ≠ 8 || !toMe s b then s
  else if downEnd s < strokeTime s then lateFrame s
  else
    let n : Fin 256 := Fin.ofNat 256 (frSrc b)
    let p := payload b
    match s.pln.node[n].cmd with
    | some k =>
      if k.due || f16 p 0 ≠ k.tag.toNat || fb p 2 ≠ k.op then s
      else if f8 p 3 = 4 then
        if k.busy then s
        else if 64 ≤ k.busys + 1 then acycFail s n k
        else updNode s n (fun m => { m with cmd := some { k with busy := true, busys := k.busys + 1 } })
      else acycDone s n k (f8 p 3) ((p.drop 8).take (f16 p 4))
    | none => s

/-! ## Joining (R345 to R350) -/

/-- A join request on channel `c` is taken, one per UID and page (R324, R345). -/
def joinRequest (s : State) (c : Bool) (f : RxFrame) : State :=
  let b := f.bytes
  if !copyOk s c f || frType b ≠ 5 || frSrc b ≠ 0 || !toMe s b then s
  else if downEnd s < strokeTime s then lateFrame s
  else
    let p := payload b
    let uid : BitVec 64 := BitVec.ofNat 64 (leNat (p.take 8))
    let d := pathOf s c b
    if s.pln.reqs.any (fun r => r.uid == uid && !r.kept) then
      updPln s (fun k => { k with reqs := k.reqs.map (fun r =>
        if r.uid = uid ∧ (r.path.get c).isNone then { r with path := r.path.set c (some d) } else r) })
    else
      let s := updPln s (fun k => { k with reqs := k.reqs.filter (fun r => r.uid ≠ uid) })
      let r : JoinReq := { kept := false, uid, reqId := fb p 8, axes := f8 p 9, caps := fb p 10, vendor := BitVec.ofNat 32 (f32 p 12)
                           path := (⟨none, none⟩ : AB (Option Nat)).set c (some d) }
      updPln s (fun k => { k with reqs := k.reqs ++ [r] })

/-- The member that a UID belongs to. -/
def memberOf (s : State) (uid : BitVec 64) : Option (Fin 256) :=
  (fins 256).find? (fun n => isMember s n && s.pln.node[n].uid == uid)

/-- The node table's entry matches a request (R346, R602). -/
def cfgMatches (k : NodeCfg) (r : JoinReq) : Bool := k.vendor == r.vendor && k.axes.length == r.axes

/-- The node ID that a request gets, or the RESULT that refuses it (R346). -/
def joinId (s : State) (r : JoinReq) : Nat × Nat :=
  let taken := fun (i : Nat) => isMember s (Fin.ofNat 256 i) || isJoining s (Fin.ofNat 256 i)
  let long := fun c => (r.path.get c).isSome && decide (128 < (chSt s c).hops + 1)
  let i := r.reqId.toNat
  if long false || long true then (i, 4)
  else if i ≠ 0 then
    if taken i then (i, 3)
    else match nodeCfg s i with
      | some k => (i, if cfgMatches k r then 0 else 2)
      | none => (i, 2)
  else
    match ((List.range 255).filter (fun j => j ≠ 0 && !taken j)).find? (fun j =>
        match nodeCfg s j with | some k => cfgMatches k r | none => false) with
    | some j => (j, 0)
    | none => (0, 2)

/-- The slots of a request in every loaded script, or none (R346). -/
def joinSlots (s : State) (id : Nat) (r : JoinReq) : Option (List (Fin 8 × Nat)) :=
  (loadedScripts s).mapM (fun e => (findSlot s e.1 e.2 id r.axes r.path).map (fun i => (e.1, i)))

/-- A decision is put into the grants of the next page, and into PLN_JOIN_STAT (R346, R347). -/
def putGrant (s : State) (r : JoinReq) (id result slot : Nat) (inst : AB (Option Nat)) (axes : List (Fin 256)) : State :=
  let g : Grant := { on := ⟨r.path.a.isSome, r.path.b.isSome⟩, uid := r.uid
                     id := BitVec.ofNat 8 (if result = 0 then id else 0), result, slot, inst
                     page := pageAfter (pageNo s) 2, axes }
  let s := updPln s (fun p => { p with grants := p.grants ++ [g] })
  wrf (wrf s Reg.PLN_JOIN_STAT 8 4 result) Reg.PLN_JOIN_STAT 0 8 (if result = 0 then id else r.reqId.toNat)

/-- A granted node: its slots are reserved, and its writes wait (R347). -/
def grantNode (s : State) (r : JoinReq) (n : Fin 256) (slots : List (Fin 8 × Nat)) : State :=
  let none8 : Tab 8 (Option Nat) := Vector.replicate 8 none
  let tab := slots.foldl (fun (t : Tab 8 (Option Nat)) e => t.put e.1 (some e.2)) none8
  let path := fun (d : Option Nat) => ({ last := d.getD 0, assumed := d, sum := 0, n := 0 } : PathSt)
  let s := updNode (setNodeBit s n 30 true) n (fun k => { k with
    uid := r.uid, safe := r.caps.getLsbD 4, sto := false, slot := tab, valid := 0, path := ⟨path r.path.a, path r.path.b⟩
    joinPage := pageAfter (pageNo s) 2, joinBad := false, removeHeld := false, ends := false, left := false
    cmd := none, todo := [] })
  let w := timingWrites s n (activeScript s) ++ [paramWrite 0x30 s.pln.absence]
  issueTodo (queueTodo s n (w.map (fun e => (AcycOwner.join, e.1, e.2)))) n

/-- One request decided (R346): the state, and whether it was granted. -/
def decideJoin (s : State) (r : JoinReq) : State × Bool :=
  let none2 : AB (Option Nat) := ⟨none, none⟩
  match joinId s r with
  | (id, 0) =>
    match joinSlots s id r, nodeCfg s id with
    | some slots, some k =>
      let n : Fin 256 := Fin.ofNat 256 id
      let s := grantNode s r n slots
      let i := (s.pln.node[n].slot[activeScript s]).getD 0
      let inst := match activeSlot s n with
        | some t => (⟨r.path.a.map (txInstant t), r.path.b.map (txInstant t)⟩ : AB (Option Nat))
        | none => none2
      (putGrant s r id 0 i inst k.axes, true)
    | _, _ => (putGrant s r id 1 0 none2 [], false)
  | (id, e) => (putGrant s r id e 0 none2 [], false)

/-- Requests decided in order until 8 are granted (R346). -/
def decideJoins : List JoinReq → Nat → State → State
  | [], _, s => s
  | r :: l, k, s =>
    if 8 ≤ k then s
    else
      let t := decideJoin s r
      decideJoins l (if t.2 then k + 1 else k) t.1

/-- The requests of the page at the release mark of stroke 63: those of members end the membership and wait, those under
a running switch wait (R342, R346, R350). -/
def joinDecision (s : State) : State :=
  let reqs := s.pln.reqs
  let s := updPln s (fun p => { p with
    joinReqs := satN 8 (reqs.filter (fun r => !r.kept)).length, reqs := p.reqs.map (fun r => { r with kept := true }) })
  let again := s.pln.reqs.filter (fun r => (memberOf s r.uid).isSome)
  let s := forAll again s (fun s r => match memberOf s r.uid with
    | some n => updNode s n (fun k => { k with ends := true })
    | none => s)
  if s.pln.sw.isSome then s
  else
    let s' := updPln s (fun p => { p with reqs := again })
    decideJoins (reqs.filter (fun r => (memberOf s r.uid).isNone)) 0 s'

/-! ## Membership at a page boundary (R347 to R352) -/

/-- A REMOVE of a member (R351). -/
def removeMember (s : State) (n : Fin 256) : State :=
  let s := forAxes (setNodeBit s n 29 true) n (fun a => { a with qsLeave := true })
  issueTodo (queueTodo s n [(.leave, 7, [])]) n

/-- REMOVE (R351). -/
def removeNode (s : State) (n : Fin 256) : State :=
  if isMember s n then if isLeaving s n then s else removeMember s n
  else if isJoining s n then updNode s n (fun k => { k with removeHeld := true })
  else wrb s Reg.PLN_NODE_CTL 31 true

/-- A membership ends: slots return, QS stays set, and FORCED is set where LEAVE was not answered (R350 to R352, R356). -/
def endMember (s : State) (n : Fin 256) : State :=
  let cmd := s.pln.node[n].cmd
  let s := when (!s.pln.node[n].left) (lossEnds s n) (fun s => setNodeBit s n 24 true)
  let s := forAxes s n (fun a => { a with qsLeave := true, qsJoin := false })
  let s := wr s (Reg.PLN_NODE n) (rd s (Reg.PLN_NODE n) &&& 0x0100FFFF#32)
  let s := updNode s n (fun k => { NodeSt.reset with count := k.count, tag := k.tag, path := k.path })
  match cmd with
  | some k => match k.owner with
    | .ring q i => ringsTake (ringEnd s q i 0xFE k.tag)
    | _ => ringsTake s
  | none => ringsTake s

/-- A granted membership begins, or its join has failed (R347, R348). -/
def beginMember (s : State) (n : Fin 256) : State :=
  let k := s.pln.node[n]
  if k.joinBad || k.cmd.isSome || !k.todo.isEmpty then joinFail s n
  else
    let s := setNodeBit (setNodeBit s n 30 false) n 31 true
    let s := incf (wrf s (Reg.PLN_NODE n) 16 8 0) Reg.PLN_JOIN_STAT 24 8
    let s := updNode s n (fun k => { k with valid := bit8 (activeScript s).val, clean := 0, driftAge := 0 })
    let s := forAxes s n (fun a => { a with qsJoin := true, qsLeave := false })
    let s := issueTodo (writeOthers s n) n
    when k.removeHeld s (fun s => removeMember (updNode s n (fun k => { k with removeHeld := false })) n)

/-- A member whose mean path on a channel has moved by more than 32 ns is retimed (R349, R365). -/
def retime (s : State) (n : Fin 256) : State :=
  let k := s.pln.node[n]
  let mean := fun (c : Bool) => let p := k.path.get c
    if p.n = 0 ∨ (chSt s c).wrap then p.assumed
    else match p.assumed with
      | some a => let m := p.sum / p.n
        if 32 * 256 < ((m : Int) - a).natAbs then some m else some a
      | none => none
  let new : AB (Option Nat) := ⟨mean false, mean true⟩
  let clear := fun (p : PathSt) => { p with sum := 0, n := 0 }
  let s := updNode s n (fun k => { k with path := ⟨clear k.path.a, clear k.path.b⟩ })
  if new.a = k.path.a.assumed ∧ new.b = k.path.b.assumed then s
  else
    match activeScr s, activeSlot s n with
    | some c, some t =>
      if !slotUsable c t new then s
      else
        let s := updNode s n (fun k => { k with path :=
          ⟨{ k.path.a with assumed := new.a }, { k.path.b with assumed := new.b }⟩ })
        let g : Grant := { on := ⟨new.a.isSome, new.b.isSome⟩, uid := k.uid, id := BitVec.ofNat 8 n.val, result := 0
                           slot := (k.slot[activeScript s]).getD 0
                           inst := ⟨new.a.map (txInstant t), new.b.map (txInstant t)⟩
                           page := pageAfter (pageNo s) 1, axes := nodeAxes s n }
        issueTodo (writeOthers (updPln s (fun p => { p with grants := p.grants ++ [g] })) n) n
    | _, _ => s

/-- Memberships at a page boundary: ends, then beginnings, then retiming; the page's edge violations restart, and REQS
shows the requests of the page that ends (R356). -/
def membersPage (s : State) : State :=
  let s := updPln (wrf s Reg.PLN_JOIN_STAT 16 8 s.pln.joinReqs) (fun p => { p with joinReqs := 0 })
  let s := forAll ((members s).filter (fun n => s.pln.node[n].ends)) s endMember
  let s := forAll (members s) s retime
  let s := forAll ((fins 256).filter (fun n => isJoining s n && s.pln.node[n].joinPage == pageNo s)) s beginMember
  forAll (fins 256) s (fun s n => wrf s (Reg.PLN_NODE n) 8 8 0)

/-- QS of a join clears once every axis of the node has age 0 (R348). -/
def joinQsClears (s : State) : State :=
  forAll (members s) s (fun s n =>
    when ((nodeAxes s n).all (fun a => s.ax[a].fbAge == 0)) s (fun s => forAxes s n (fun a => { a with qsJoin := false })))

/-! ## The script switch agreement (R340 to R342) -/

/-- RESULT and PHASE of PLN_SW_STAT. -/
def swResult (s : State) (r : Nat) : State := wrf s Reg.PLN_SW_STAT 8 4 r
def swPhase (s : State) (p : Nat) : State := wrf s Reg.PLN_SW_STAT 0 3 p

/-- The refusal of a switch request to script `k`, if any (R340). -/
def swRefusal (s : State) (k : Fin 8) : Option Nat :=
  if s.pln.sw.isSome then some 3
  else if activeScript s = k ∨ !rdb s Reg.PLN_SCR_STAT (8 + k.val) ∨ rdb s Reg.PLN_SCR_STAT (16 + k.val) then some 4
  else if (members s).any (fun n => !s.pln.node[n].valid.getLsbD k) then some 5
  else if !fullService s then some 6
  else none

/-- A switch requested (R340). -/
def switchRequest (s : State) (k : Fin 8) (src : ReqSrc) : State :=
  match swRefusal s k with
  | some r => answer (hstIrq (swResult s r) 11) src r
  | none =>
    let w : SwitchSt := { target := k, page := 0, announced := false, transition := false, attempts := 0, required := []
                          taken := none, src }
    swPhase (updPln s (fun p => { p with sw := some w })) 1

def setSw (s : State) (w : Option SwitchSt) : State := updPln s (fun p => { p with sw := w })

/-- The agreement settles at the freeze mark of stroke 47 of page P+1 (R341, R148). -/
def switchSettle (s : State) : State :=
  match s.pln.sw with
  | some w =>
    if !w.announced || pageNo s ≠ pageAfter w.page 1 || strokeNo s ≠ 47 || w.taken.isSome then s
    else
      let req := w.required.filter (fun n => !isLost s n)
      let miss := req.filter (fun n => !s.pln.node[n].ack)
      let t := miss.isEmpty
      let s := wrf (wrf s Reg.PLN_SW_STAT 24 8 ((miss.head?.map (·.val)).getD 0)) Reg.PLN_SW_STAT 16 8 (satN 8 miss.length)
      let s := swPhase (swResult s (if t then 1 else 2)) (if t then 4 else 5)
      let s := raiseEvent (setSw s (some { w with taken := some t })) 0x04
      let s := when (!t) s bankAbandon
      answer (hstIrq s 11) w.src (if t then 1 else 2)
  | none => s

/-- The boundary of page P+2: a taken switch changes the active script, and its LOST members are removed (R342). -/
def switchBoundary (s : State) (w : SwitchSt) : State :=
  let s := swPhase (setSw s none) 0
  if w.taken = some true then
    bankBoundary (forAll ((members s).filter (isLost s)) (wrf s Reg.PLN_SCR_STAT 0 3 w.target) endMember)
  else s

/-- The switch at a page boundary: announcement, collection (R340, R341). The boundary of P+2 comes before it. -/
def switchPage (s : State) : State :=
  match s.pln.sw with
  | some w =>
    if !w.announced then swPhase (setSw s (some { w with announced := true, page := pageNo s })) 2
    else if pageNo s = pageAfter w.page 1 then
      let s := swPhase (setSw s (some { w with required := members s })) 3
      forAll (fins 256) s (fun s n => updNode s n (fun k => { k with ack := false }))
    else s
  | none => s

/-- The PHASE that this stroke's SWITCH carries, if one is sent (R341). -/
def switchSends (s : State) : Option (SwitchSt × Nat) :=
  match s.pln.sw with
  | some w =>
    if !w.announced then none
    else if pageNo s = w.page then some (w, 1)
    else if pageNo s = pageAfter w.page 1 ∧ 48 ≤ strokeNo s then w.taken.map (fun t => (w, if t then 2 else 3))
    else none
  | none => none

/-! ## Uplinks (R299 to R303, R325, R326, R364) -/

/-- Latest end of an uplink slot in ns for a PERIOD code (R53). -/
def latestUplink : Nat → Nat
  | 0 => 9750
  | 1 => 15600
  | 2 => 19500
  | _ => 78000

/-- The window of a slot: too early, inside, or later than it. -/
inductive SlotFit where
  | early | inside | late
deriving DecidableEq, Repr

/-- Where a receive timestamp lies in a slot's window (R325, R364). -/
def slotFit (s : State) (c : Bool) (t : ScrSlot) (rx : Nat) : SlotFit :=
  let g := match activeScr s with | some k => k.guard * 256 | none => 0
  let hi := if (chSt s c).wrap then latestUplink s.base.period * 256 else t.start + g
  if rx + g < t.start then .early else if rx ≤ hi then .inside else .late

/-- The status bits that make a node axis fault: OVERCUR, ENC_ERR, DC_OVER, TEMP and BRIDGE (R501). -/
def faultBits : Half := 0xEC#16

/-- One axis record of an uplink (R299, R300, R326). -/
def axisRecord (s : State) (n : Fin 256) (unlocked : Bool) (r : List Byte) : State :=
  let a : Fin 256 := Fin.ofNat 256 (f8 r 0)
  if !(nodeAxes s n).contains a then s
  else
    let w := fun i => (BitVec.ofNat 16 (f16 r i) : Half)
    let posv := (fb r 1).getLsbD 0
    let curv := (fb r 1).getLsbD 1
    let routed := s.axcfg[a].lf.isSome
    let s := when ((w 14 &&& faultBits) != 0) s (fun s =>
      assertSource s (0x60 + s.axcfg[a].group.val) (BitVec.ofNat 32 a.val))
    if unlocked || !curv || !(posv || routed) then s
    else updAx s a (fun x =>
      let p := if routed then x.fbIn else ((x.fbIn.set 0 (w 2)).set 1 (w 4)).set 2 (w 6)
      { x with fresh := true, fbIn := (((p.set 3 (w 8)).set 4 (w 10)).set 5 (w 12)).set 6 (w 14) })

/-- The records of an uplink in turn. -/
def axisRecords (n : Fin 256) (unlocked : Bool) : Nat → List Byte → State → State
  | 0, _, s => s
  | k + 1, b, s => axisRecords n unlocked k (b.drop 16) (axisRecord s n unlocked (b.take 16))

/-- The uplink container passes its tests (R303). -/
def upContainerOk (s : State) (cont : List Byte) (stroke : Nat) : Bool :=
  f16 cont 0 == rdf s Reg.FUS_SAFE_ID 0 16 && (cont.drop 8).take 4 == scrc (cont.take 8) stroke

/-- An accepted copy: path delay and container of every copy, the rest of the first. A copy accepted after the freeze mark
is not in the input area of its stroke, whose uplink is missing (R55, R303, R326, R335, R341, R349, R357). -/
def uplinkAccept (s : State) (c : Bool) (n : Fin 256) (b : List Byte) : State :=
  let p := payload b
  let axes := f8 p 1
  let first := !s.pln.node[n].took
  let d := pathOf s c b
  let cont := p.drop (4 + 16 * axes)
  let good := upContainerOk s cont (frStroke b)
  let upd := fun (q : PathSt) => if (chSt s c).wrap then { q with last := d } else { q with last := d, sum := q.sum + d, n := q.n + 1 }
  let s := updNode s n (fun k => { k with
    took := true, seen := k.seen || !s.wave.frozen, path := k.path.set c (upd (k.path.get c))
    count := if first then k.count + 1 else k.count
    sto := if good then (fb cont 4).getLsbD 0 else if first then false else k.sto
    stoSeen := k.stoSeen || (k.stopSent && good && (fb cont 4).getLsbD 0) })
  if !first then s
  else
    let unlocked := (fb p 2).getLsbD 2
    let s := setNodeBit s n 25 unlocked
    let late := s.wave.frozen
    let s := match s.pln.sw with
      | some w => when (w.announced && pageNo s == pageAfter w.page 1 && (fb p 0).getLsbD 0 && f8 p 0 / 2 % 8 == w.target.val) s
          (fun s => updNode s n (fun k => { k with ack := true }))
      | none => s
    if late then s else axisRecords n unlocked axes (p.drop 4) s

/-- A good uplink copy of member `n`, by where it lies against the node's slot (R325, R364). -/
def uplinkFits (s : State) (c : Bool) (n : Fin 256) (b : List Byte) : SlotFit → State
  | .inside => uplinkAccept s c n b
  | .early => edgeViolation s n
  | .late => if (chSt s c).wrap then s else edgeViolation s n

/-- A good uplink copy of member `n` with its slot in the active script; one without a slot is dropped (R325). -/
def uplinkSlot (s : State) (c : Bool) (n : Fin 256) (b : List Byte) : Option ScrSlot → State
  | some t => uplinkFits s c n b (slotFit s c t (strokeTime s))
  | none => s

/-- The node a copy comes from, as a place in the node tables. -/
def frNode (b : List Byte) : Fin 256 := Fin.ofNat 256 (frSrc b)

/-- The copy is a good uplink of a member (R283, R299, R325). -/
def uplinkOk (s : State) (c : Bool) (f : RxFrame) : Bool :=
  copyOk s c f && frType f.bytes == 2 && toMe s f.bytes && isMember s (frNode f.bytes)
    && frLen f.bytes == 16 + 16 * f8 f.bytes 17

/-- An uplink copy on channel `c` (R325, R364). -/
def uplink (s : State) (c : Bool) (f : RxFrame) : State :=
  if uplinkOk s c f then uplinkSlot s c (frNode f.bytes) f.bytes (activeSlot s (frNode f.bytes)) else s

/-! ## The view (R353) -/

/-- Address of a half of the view area in the Scriptorium (R353; log entry 43). -/
def viewAddr (s : State) (half : Nat) : Nat := rdf s Reg.PLN_VIEW_CFG 13 9 * 8192 + half * 4112

/-- The 16 bytes of an axis in the view: words 0 to 2, words 3 to 6, age and node ID. -/
def viewAxis (s : State) (n : Fin 256) : List Byte :=
  let f := s.ax[n].fb
  (List.range 7).flatMap (fun i => leBytes 2 (f.toList.getD i 0).toNat)
    ++ [BitVec.ofNat 8 f[7].toNat, BitVec.ofNat 8 (axisNode s n)]

/-- The copy of the stroke (R353). -/
def viewCopy (s : State) : State :=
  if !rdb s Reg.PLN_VIEW_CFG 0 || !pdOn s 10 then s
  else
    let hdr := leBytes 4 (rd s Reg.BSL_STROKE_NUM).toNat ++ List.replicate 12 0
    { s with mem := s.mem.writeBytes (viewAddr s (strokeNo s % 2)) (hdr ++ (fins 256).flatMap (viewAxis s)) }

/-- PLN_VIEW_PUB names the copy that has completed (R353). -/
def viewPublish (s : State) : State :=
  if !rdb s Reg.PLN_VIEW_CFG 0 then s
  else wr s Reg.PLN_VIEW_PUB (BitVec.ofNat 32 (pageNo s % 65536 * 65536 + strokeNo s % 2 * 64 + strokeNo s))

/-! ## Meanings -/

/-- UPLINK (R325). -/
def execUplink (c : Fin 2) (f : RxFrame) (s : State) : Host.Outcome State Fault Refusal := .next (uplink (newInstant s) (c == 1) f)

/-- DRIFT_LOSS: a drifting node has not recovered within the absence limit (R328). -/
def execDriftLoss (n : Fin 256) (s : State) : Host.Outcome State Fault Refusal :=
  .next (if isMember s n && isDrift s n && decide (s.pln.absence ≤ s.pln.node[n].driftAge) then nodeLoss (newInstant s) n else s)

/-- JOIN_REQ (R345). -/
def execJoinReq (c : Fin 2) (f : RxFrame) (s : State) : Host.Outcome State Fault Refusal :=
  .next (joinRequest s (c == 1) f)

/-- ACYC_RSP (R309). -/
def execAcycRsp (c : Fin 2) (f : RxFrame) (s : State) : Host.Outcome State Fault Refusal :=
  .next (acycResponse s (c == 1) f)

/-- ACYC_RESEND (R309). -/
def execAcycResend (n : Fin 256) (s : State) : Host.Outcome State Fault Refusal := .next (acycResend s n)

/-- ACYC_BUSY_RESEND (R324). -/
def execAcycBusyResend (n : Fin 256) (s : State) : Host.Outcome State Fault Refusal := .next (acycBusyResend s n)

/-- JOIN_FAIL: the writes are not all answered by stroke 55 of the page before the membership (R347). -/
def execJoinFail (n : Fin 256) (s : State) : Host.Outcome State Fault Refusal :=
  let k := s.pln.node[n]
  .next (if k.joinBad || k.cmd.isSome || !k.todo.isEmpty then joinFail s n else s)

/-- VIEW_PUBLISH (R353). -/
def execViewPublish (s : State) : Host.Outcome State Fault Refusal := .next (viewPublish s)

end Sys2Proof.Machine
end

