-- ==== Sys2Proof/Machine/Mailbox.lean ====
section
/-! DEFINITION. The mailboxes of wide values (R541, R542). -/

namespace Sys2Proof.Machine

/-- The two words of a 64-bit value, low first (R542). -/
def words64 (x : BitVec 64) : List Word := [x.setWidth 32, x.extractLsb' 32 32]

/-- The two words of a 48-bit position: the upper one sign-extended (R542). -/
def words48 (x : Pos48) : List Word := [x.setWidth 32, (x.extractLsb' 32 16).signExtend 32]

/-- A count as a 48-bit position with fraction 0 (R425). -/
def countPos (c : Word) : Pos48 := posOf (c.toInt * 2 ^ 16)

/-- The three words of a time (R391). -/
def words3 (t : Word × Word × Word) : List Word := [t.1, t.2.1, t.2.2]

/-- Running time of a task, the present run with it (R239, R240). -/
def taskRunNs (s : State) (n : Fin 512) : BitVec 64 :=
  let t := s.ink.task[n]
  t.runNs + (if rdf s (Reg.INK_TSTAT n) 29 3 = 3 then BitVec.ofNat 64 (s.tick - t.startTick) else 0)

/-- The words of a wide value, and what its last word ties; none for an unassigned selector, no words for an empty
capture FIFO (R211, R240, R357, R390, R422, R425, R439, R524, R542). -/
def mbValue (s : State) (sel : Nat) : Option (List Word × MbTie) :=
  let o := sel % 0x1000
  if sel / 0x1000 = 1 then
    if o < 2048 then some (words48 (slotItem s (Fin.ofNat 256 (o / 8)) (o % 8)), .none) else none
  else if sel / 0x1000 = 2 then
    if o < 1024 then
      let n : Fin 512 := Fin.ofNat 512 (o / 2)
      some (words64 (if o % 2 = 0 then s.ink.task[n].takes else if o < 512 then 0 else taskRunNs s n), .none)
    else none
  else if sel / 0x1000 = 3 then
    if 4 ≤ o ∧ o < 1020 then
      let k := s.pln.node[Fin.ofNat 256 (o / 4)]
      some (words64 (match o % 4 with
        | 0 => k.uid
        | 1 => BitVec.ofNat 64 k.path.a.last
        | 2 => BitVec.ofNat 64 k.path.b.last
        | _ => k.count), .none)
    else none
  else if sel / 0x1000 = 4 then
    match o with
    | 0 => some (words3 s.base.dom.a.words, .none)
    | 1 => some (words3 s.base.dom.b.words, .none)
    | 2 => some (words3 (now s).words, .none)
    | 3 => some (words3 (s.base.latch.get (activeB s)).words, .none)
    | 4 => some (words64 (BitVec.ofInt 64 (shr (s.base.latch.b.diff s.base.latch.a) 8)), .none)
    | _ => none
  else if sel / 0x1000 = 5 then
    if o < 32 ∧ o % 4 = 0 then some (words48 (countPos (rd s (Reg.LF_POS (o / 4)))), .none)
    else if o < 32 ∧ o % 4 = 1 then some (words48 (countPos s.lf[Fin.ofNat 8 (o / 4)].idxC), .none)
    else if 0x100 ≤ o ∧ o < 0x110 then
      let n : Fin 16 := Fin.ofNat 16 (o - 0x100)
      match s.cap[n].fifo with
      | e :: _ => some (e, .capture n)
      | [] => some ([], .none)
    else none
  else if sel = 0x6000 then some ([s.fol.trig.setWidth 32], .none)
  else if sel / 0x1000 = 7 then
    if o < 0x400 then
      if o % 2 = 0 then some (words64 (smGet (fun _ => 0) s.mgn.counts (o / 2)), .none)
      else some (words3 (smGet (fun _ => (0, 0, 0)) s.mgn.times (o / 2)), .none)
    else if o = 0x400 then some (words3 s.mgn.firstTime, .none)
    else none
  else none

/-- The block that holds a selector's value is on (R555). -/
def mbOn (s : State) (sel : Nat) : Bool :=
  match sel / 0x1000 with
  | 1 => pdOn s 10
  | 2 => pdOn s 10
  | 3 => pdOn s 11 || pdOn s 12
  | 5 => pdOn s 14
  | 6 => pdOn s 15
  | _ => true

def mbStat (m : Master) : Nat := Reg.banked m Reg.HST_MB_STAT
def mbValid (s : State) (m : Master) : Bool := rdb s (mbStat m) 31

def putMailbox (s : State) (m : Master) (b : Mailbox) : State := updHst s (fun h => { h with mb := h.mb.put m b })

/-- A selector written: the value in hand is discarded without its side effect, and the target latches the new one;
one that is unassigned sets ERR (R541). A target that is off answers nothing (log entry 65). -/
def mbSelect (s : State) (m : Master) (sel : Nat) : State :=
  let s := wrb (putMailbox s m { words := [], tie := .none, waiting := false }) (mbStat m) 31 false
  match mbValue s sel with
  | none => wrb s (mbStat m) 30 true
  | some (w, t) => if mbOn s sel then putMailbox s m { words := w, tie := t, waiting := true } else s

/-- The latched value reaches the mailbox: VALID and LEN (R541, R422). -/
def mbArrives (s : State) (m : Master) : State :=
  let b := s.hst.mb[m]
  if b.waiting then
    let s := putMailbox s m { b with waiting := false }
    if b.words.isEmpty then s else wrf (wrb s (mbStat m) 31 true) (mbStat m) 0 3 b.words.length
  else s

/-- A read of data word `i`: the last word releases the mailbox, with what is tied to it (R541). -/
def mbRead (s : State) (m : Master) (i : Nat) : Word × State :=
  if mbValid s m then
    let b := s.hst.mb[m]
    let v := b.words.getD i 0
    if i + 1 = b.words.length then
      let s := wrb (putMailbox s m { words := [], tie := .none, waiting := false }) (mbStat m) 31 false
      (v, match b.tie with
        | .capture n => when (s.cap[n].fifo.head? == some b.words) s (fun s => capRemove s n)
        | .none => s)
    else (v, s)
  else (0, s)

end Sys2Proof.Machine
end

