-- ==== Sys2Proof/Machine/CodexImage.lean ====
section
/-! DEFINITION. A Codex image: its header, section table and signature, and the checks before a load (R248 to R253,
R261, R263, R265, R317 to R320, R505, R602, R603). -/

namespace Sys2Proof.Machine

/-- A section of an image: type, instance, index in the section table, contents (R250). -/
structure Sect where
  typ : Nat
  inst : Nat
  idx : Nat
  bytes : List Byte
deriving DecidableEq, Repr

/-- An image whose header, key, signature and sections have passed (R249). -/
structure Img where
  part : Bool
  id : Word
  base : Word
  minStep : Nat
  period : Nat
  axes : Nat
  sects : List Sect
deriving DecidableEq, Repr

/-- Word `i` of a list of bytes, little-endian (R248). -/
def wAt (b : List Byte) (i : Nat) : Word := BitVec.ofNat 32 (f32 b (4 * i))

/-- The words of a section that is a list of words: none where bytes are left over. -/
def reactWords (b : List Byte) : Option (List Word) :=
  if b.length % 4 = 0 then some ((List.range (b.length / 4)).map (wAt b)) else none

/-- The words of a list of bytes. -/
def wordsOf (b : List Byte) : List Word := (List.range (b.length / 4)).map (wAt b)

/-- Check 1: MAGIC, FORMAT, IMAGE_LEN, HDR_CRC, the section count, and a full image's PERIOD (R249, R253). -/
def imgHeaderOk (b : List Byte) : Bool :=
  let w1 := wAt b 1
  let n := fld w1 0 8
  decide (160 ≤ b.length) && wAt b 0 == 0x58444F43#32 && fld w1 16 16 == 2 && (wAt b 2).toNat == b.length
    && decide (b.length ≤ 1048576) && wAt b 6 == crc32 (b.take 24) && decide (1 ≤ n ∧ n ≤ 96)
    && (bit w1 8 || fld (wAt b 5) 16 2 != 3)

/-- Check 2: the key against the fuse digest and its complement (R252). -/
def imgKeyOk (s : State) (b : List Byte) : Bool :=
  let d := wordsOf (sha256 ((b.drop 32).take 64))
  (List.range 8).any (fun w => rd s (Reg.FUS_KEYHASH w) != 0)
    && (List.range 8).all (fun w => rd s (Reg.FUS_KEYHASH w) == d.getD w 0 && rd s (Reg.FUS_KEYHASH_N w) == ~~~(d.getD w 0))

/-- Check 3: the signature over every byte but the last 64 (R252). -/
def imgSignatureOk (b : List Byte) : Bool :=
  let n := fun (i : Nat) => beNat 0 ((b.drop i).take 32)
  let e := b.length - 64
  ecdsaVerify (n 32) (n 64) (n e) (n (e + 32)) (b.take e)

/-- Instances that a section type has, and whether a partial image may hold it (R251). -/
def sectType : Nat → Option (Nat × Bool)
  | 1 | 2 | 4 | 5 | 6 | 7 | 9 | 13 => some (1, false)
  | 3 => some (16, false)
  | 8 => some (8, true)
  | 10 => some (1, true)
  | 11 => some (64, true)
  | 12 => some (16, true)
  | _ => none

/-- Check 4 of section `i`, behind the sections already taken: an error code, or the section (R250, R251, R253). -/
def imgSection (b : List Byte) (part : Bool) (i : Nat) (seen : List Sect) : Nat × Sect :=
  let k := 24 + 4 * i
  let typ := fld (wAt b k) 24 8
  let inst := fld (wAt b k) 16 8
  let ofs := (wAt b (k + 1)).toNat
  let len := (wAt b (k + 2)).toNat
  let x : Sect := { typ, inst, idx := i, bytes := (b.drop ofs).take len }
  if ofs % 64 ≠ 0 ∨ ofs < 96 + 16 * fld (wAt b 1) 0 8 ∨ b.length - 64 < ofs + len then (6, x)
  else match sectType typ with
    | none => (7, x)
    | some (n, inPart) =>
      if n ≤ inst ∨ (part && !inPart) ∨ seen.any (fun y => y.typ == typ && y.inst == inst) then (7, x)
      else if crc32 x.bytes ≠ wAt b (k + 3) then (6, x)
      else (0, x)

/-- The sections in turn: code and section index of the first failure, or the sections. -/
def imgSections (b : List Byte) (part : Bool) : Nat → Nat → List Sect → Nat × Nat × List Sect
  | 0, _, l => (0, 0, l)
  | n + 1, i, l =>
    match imgSection b part i l with
    | (0, x) => imgSections b part n (i + 1) (l ++ [x])
    | (e, _) => (e, i, l)

/-- A section of an image. -/
def Img.sect (g : Img) (typ inst : Nat) : Option Sect := g.sects.find? (fun x => x.typ == typ && x.inst == inst)
/-- All sections of a type. -/
def Img.all (g : Img) (typ : Nat) : List Sect := g.sects.filter (fun x => x.typ == typ)
/-- The contents of a section as a parser reads them. -/
def Img.read {α : Type} (g : Img) (typ : Nat) (f : List Byte → Option α) : Option α := (g.sect typ 0).bind (fun x => f x.bytes)

/-- The sections that a full image must hold (R251). -/
def imgComplete (g : Img) : Bool :=
  [1, 2, 4, 5].all (fun t => (g.sect t 0).isSome) && !(g.all 8).isEmpty

/-! ## Contents whose layout the manual gives -/

/-- Earliest start of an uplink slot and latest node instant in ns, and most axes, of a PERIOD code (R53). -/
def earliestUplink : Nat → Nat
  | 0 => 1000
  | 1 => 1600
  | 2 => 2000
  | _ => 8000
def latestInstant : Nat → Nat
  | 0 => 7000
  | 1 => 11200
  | 2 => 14000
  | _ => 56000
def mostAxes : Nat → Nat
  | 0 => 128
  | 1 => 200
  | 2 => 256
  | _ => 64

/-- A script as its section gives it; reserved fields are 0 and every field lies in its range (R317, R318). -/
def parseScript (b : List Byte) : Option Script :=
  let w := wAt b
  let n := fld (w 0) 0 11
  let slot := fun (i : Nat) => ({ start := (w (8 + 2 * i)).toNat, node := fld (w (9 + 2 * i)) 24 8
                                  cap := fld (w (9 + 2 * i)) 0 5 } : ScrSlot)
  let k : Script := { acycMax := fld (w 0) 16 8, instant := (w 1).toNat, downEnd := (w 2).toNat, guard := fld (w 3) 0 16
                      slots := (List.range n).map slot }
  let zero := fld (w 0) 24 8 == 0 && fld (w 0) 11 5 == 0 && fld (w 3) 16 16 == 0
    && [4, 5, 6, 7].all (fun i => w i == 0) && (List.range n).all (fun i => fld (w (9 + 2 * i)) 5 19 == 0)
  let range := decide (1 ≤ k.acycMax ∧ k.acycMax ≤ 8) && decide (1 ≤ n ∧ n ≤ 1024) && decide (50 ≤ k.guard ∧ k.guard ≤ 1000)
    && k.slots.all (fun t => decide (t.node ≤ 254) && decide (1 ≤ t.cap ∧ t.cap ≤ 16))
  if zero && range && b.length == 32 + 8 * n then some k else none

/-- Ten times the end of a slot's occupancy in 2^-8 ns (R319). -/
def slotEnd10 (t : ScrSlot) : Nat := 10 * t.start + (13 + 4 * t.cap) * 4096

/-- Each slot starts at or after the end of the one before it (R320). -/
def slotsAscend : List ScrSlot → Bool
  | a :: b :: r => decide (slotEnd10 a ≤ 10 * b.start) && slotsAscend (b :: r)
  | _ => true

/-- The rules of R54 and R320 for a script at a PERIOD. -/
def scriptOk (period : Nat) (nodes : List NodeCfg) (k : Script) : Bool :=
  let fixed := k.slots.filter (fun t => t.node != 0)
  decide (k.downEnd ≤ k.instant) && decide (k.instant ≤ latestInstant period * 256) && slotsAscend k.slots
    && k.slots.all (fun t => decide (earliestUplink period * 256 ≤ t.start) && decide (slotEnd10 t ≤ latestUplink period * 2560))
    && (distinct (fixed.map (·.node))).length == fixed.length
    && fixed.all (fun t => match nodes.find? (fun n => n.id.toNat == t.node) with
      | some n => decide (n.axes.length ≤ t.cap)
      | none => false)

/-- The DRAFT section: HOLD_DRAFT, the draft axes and the draft script (R261). -/
def parseDraft (b : List Byte) : Option (Bool × List DraftAxis × Script) :=
  let w := wAt b
  let n := fld (w 0) 0 7
  let axis := fun (i : Nat) =>
    let k := 1 + 8 * i
    ({ axis := Fin.ofNat 256 (fld (w k) 24 8), node := BitVec.ofNat 8 (fld (w k) 16 8)
       engine := Fin.ofNat 16 (fld (w k) 12 4), mode := BitVec.ofNat 2 (fld (w k) 10 2)
       words := (List.range 8).map (fun j => w (k + j)), held := none, vel := 0, jog := 0
       pos := 0, speed := 0, intV := 0, intD := 0, intQ := 0 } : DraftAxis)
  if fld (w 0) 9 23 ≠ 0 ∨ bit (w 0) 7 ∨ 64 < n then none
  else (parseScript (b.drop (4 + 32 * n))).map (fun k => (bit (w 0) 8, (List.range n).map axis, k))

/-- The axis numbers that a DRAFT section names, whatever else its entries hold (R3, R261). -/
def draftNames (b : List Byte) : List (Fin 256) :=
  (List.range (fld (wAt b 0) 0 7)).map (fun i => Fin.ofNat 256 (fld (wAt b (1 + 8 * i)) 24 8))

/-- The ranges of a draft axis entry (R261). -/
def draftAxisOk (d : DraftAxis) : Bool :=
  let w := fun i => d.words.getD i 0
  fld (w 0) 0 10 == 0 && d.mode != 3 && [1, 2, 4].all (fun i => fld (w i) 0 12 == 0)
    && [3, 5].all (fun i => decide (1 ≤ fld (w i) 0 16 ∧ fld (w i) 0 16 < 0x8000)) && decide (1 ≤ fld (w 7) 0 12)

/-- The rules of R261 and R263. -/
def draftOk (s : State) (l : List DraftAxis) : Bool :=
  let hold := l.filter (fun d => decide (0x2000 < fld (d.words.getD 3 0) 0 16))
  l.all draftAxisOk && decide (hold.length ≤ rdf s Reg.FUS_HOLD_LIMIT 0 6)
    && (distinct (l.map (·.axis))).length == l.length
    && (fins 16).all (fun e => decide ((l.filter (fun d => d.engine == e)).length ≤ 4))

/-- The two words of a class in their ranges (R505). -/
def classWordOk (w : Word) : Bool :=
  let lvl := fld w 28 3
  let ceil := fld w 25 3
  decide (lvl ≤ 4) && decide (lvl ≤ ceil ∧ ceil ≤ 4) && decide (2 ≤ fld w 10 10 ∧ fld w 10 10 ≤ 1000) && fld w 0 10 == 0

/-- Byte `n` of the source map. -/
def mapByte (w : List Word) (n : Nat) : Nat := fld (w.getD (129 + n / 4) 0) (8 * (n % 4)) 8

/-- The rules of a REACT section (R504, R505): a class is held to its ranges whether or not it is enabled. -/
def reactOk (w : List Word) : Bool :=
  w.length == 257 && w.getD 0 0 == 0x00010000#32
    && (List.range 64).all (fun c => classWordOk (w.getD (1 + 2 * c) 0))
    && (List.range 512).all (fun n =>
      let c := mapByte w n
      c == 0xFF || (decide (c < 64) && srcKind n != .transient && n != 0x1FF))

/-! ## Content rules (R253 check 6) -/

/-- A parameter record in its ranges (R124). -/
def paramRecOk (l : List Half) : Bool :=
  let w := fun i => l.getD i 0
  l.length == 16 && hfld (w 1) 8 8 == 0 && decide (1 ≤ (w 9).toNat ∧ (w 9).toNat ≤ 4095) && decide ((w 10).toNat ≤ 4095)
    && hfld (w 11) 0 2 != 3 && hfld (w 11) 5 11 == 0 && [12, 13, 14, 15].all (fun i => w i == 0)

/-- POLICY, FALLBACK and PLACE of an axis are those of word 11 of its parameter record (R124). A drive axis for which the
PARAM section gives no record is accepted, with what its AXES context says of the three: DESIGN CHOICE, as the manual does
not say whether such a Codex is rejected (log entry 7). -/
def ctxWith (l : List (Fin 256 × List Half)) (x : AxisCtx) : AxisCtx :=
  match l.find? (fun e => e.1 == x.axis) with
  | some e =>
    let w := e.2.getD 11 0
    { x with cfg := { x.cfg with policy := w.extractLsb' 0 2, fallback := w.getLsbD 2, place := w.getLsbD 3 } }
  | none => x

/-- The AXES section, with what the PARAM section says of its axes. -/
def Img.axesSec (g : Img) : Option AxesSec :=
  (g.read 2 Config.axesSec).map (fun a => { a with ctx := a.ctx.map (ctxWith ((g.read 4 Config.paramSec).getD [])) })

/-- A chained block's divisor is 1, 2, 4 or 8, its phase lies below it, and the blocks that have no divisor run in every
stroke (R48, R57, R127). -/
def chainEntOk (e : ChainEnt) : Bool :=
  [1, 2, 4, 8].contains e.div && decide (e.phase < e.div) && match e.block with
    | .fbk | .pred | .cur | .comm | .still => e.div == 1
    | .pos | .vel | .filt | .stall => true

/-- An axis chain (R48, R57, R128). PLACE is 1 for a node-side current loop. -/
def chainOk (x : AxisCtx) : Bool :=
  let div := fun b => (x.cfg.chain.find? (fun e => e.block == b)).map (·.div)
  let has := fun b => (div b).isSome
  let slow := match div .pos, div .vel with
    | some p, some v => decide (v ≤ p)
    | _, _ => true
  x.cfg.chain.all chainEntOk && (if x.cfg.place then !has .pred && !has .cur && !has .comm && has .vel
    else [ChainBlock.fbk, .pred, .cur, .comm].all (fun b => div b == some 1))
  && slow && (!has .stall || x.measured)

/-- The rules of the AXES section (R4, R19, R128, R153, R154, R249). -/
def axesOk (s : State) (g : Img) (a : AxesSec) : Bool :=
  let l := a.ctx
  let top := l.foldl (fun m x => max m (x.axis.val + 1)) 0
  let hold := l.filter (fun x => x.holdClass)
  g.axes == top && decide (l.length ≤ min (mostAxes g.period) (axisLimit s))
    && (distinct (l.map (·.axis))).length == l.length
    && l.all (fun x => x.groups == [x.cfg.group]
      && (fins 32).all (fun k => (a.lists[k].filter (fun y => y == x.axis)).length == (k == x.cfg.group).toNat))
    && l.all (fun x => x.cfg.virt || x.cfg.chain.isEmpty || chainOk x)
    && l.all (fun x => x.cfg.policy != 2 || x.holdClass)
    && decide (hold.length ≤ rdf s Reg.FUS_HOLD_LIMIT 0 6)

/-- The node table against the axes (R282, R602). -/
def routeOk (id : Byte) (a : AxesSec) (r : RouteSec) : Bool :=
  let drive := a.ctx.filter (fun x => !x.cfg.virt)
  r.nodes.all (fun n => n.id != 0 && n.id != 255 && n.id != id && n.count == n.axes.length)
    && (distinct (r.nodes.map (·.id))).length == r.nodes.length
    && drive.all (fun x =>
      ((r.nodes.flatMap (·.axes)).filter (fun y => y == x.axis)).length == 1
        && r.nodes.any (fun n => n.id.toNat == x.node && n.axes.contains x.axis))
    && (r.nodes.flatMap (·.axes)).all (fun y => drive.any (fun x => x.axis == y))

/-- The 16-bit sum of a bank image (R125). -/
def imageSum (ws : List Half) : Half := ws.foldl (· + ·) 0

/-- A bank image in its ranges, its words summing to 0 (R125). -/
def bankImageOk (l : List Half) : Bool :=
  let w := fun i => l.getD i 0
  l.length == 32 && imageSum l == 0 && hfld (w 8) 4 12 == 0
    && [9, 10].all (fun i => decide (1 ≤ (w i).toNat ∧ (w i).toNat < 0x8000))
    && decide (1 ≤ (w 18).toNat ∧ (w 18).toNat ≤ 4095) && hfld (w 23) 1 15 == 0 && w 24 != 0
    && [25, 26, 27, 28, 29, 30].all (fun i => w i == 0)

/-- The rules of the BANK section (R125, R142, R603). -/
def bankSecOk (a : AxesSec) (k : BankSec) : Bool :=
  (a.ctx.filter (fun x => !x.cfg.virt)).all (fun x => k.banks.any (fun b => b.1 == x.axis && b.2.1 == false))
    && k.banks.all (fun b => bankImageOk b.2.2)
    && k.tables.all (fun t => t.2.2.all (fun w => !w.getLsbD 15))

/-- A slot record: its limits are not 0 where R174 asks it, and its reserved fields are 0 (R174, R253). -/
def slotRecordOk (l : List Word) : Bool :=
  let w := fun i => l.getD i 0
  l.length == 16 && [3, 4, 5, 6, 7].all (fun i => w i != 0) && fld (w 0) 0 8 == 0 && fld (w 1) 0 16 == 0
    && fld (w 9) 0 12 == 0 && [12, 13, 14, 15].all (fun i => w i == 0)

/-- The rules of the DUCTUS section (R168, R174, R194, R210). -/
def ductusSecOk (a : AxesSec) (k : DuctusSec) : Bool :=
  let src := fun (n : Fin 256) => match k.cfg.find? (fun e => e.1 == n) with
    | some e => fld e.2 28 2
    | none => 0
  k.slots.all (fun e => slotRecordOk e.2)
    && k.cfg.all (fun e =>
      let m := fld e.2 20 8
      (match regRow (Reg.DCT_CFG e.1) with | some r => e.2 &&& ~~~(r.rw ||| r.rwl) == 0 | none => false)
        && bit e.2 31 == a.ctx.any (fun c => c.axis == e.1 && c.cfg.virt) &&
      let x := a.ctx.find? (fun c => c.axis.val == m)
      match fld e.2 28 2 with
      | 1 => x.isSome && m != e.1.val && src (Fin.ofNat 256 m) == 0
      | 2 => (match x with | some c => !c.cfg.virt | none => false) && m != e.1.val
      | _ => true)

/-- An ENGINE section keeps out of the draft area (R265). -/
def engineSecOk (k : EngineSec) : Bool :=
  (k.x ++ k.y).all (fun e => decide (e.1.toNat < 0x3E00)) && decide (k.prog.length ≤ 4096)

/-- Event codes that are assigned (R218). -/
def eventAssigned (n : Nat) : Bool :=
  decide (1 ≤ n ∧ n ≤ 7) || decide (0x10 ≤ n ∧ n < 0x24) || decide (0x40 ≤ n ∧ n < 0x60) || decide (0x80 ≤ n ∧ n < 0xC0)

/-- Every register value of a section lies in the writable fields of a register of the blocks `p` (R253). -/
def regsOk (p : Nat → Bool) (l : List (Nat × Word)) : Bool :=
  l.all (fun e => p e.1 && match regRow e.1 with
    | some r => e.2 &&& ~~~(r.rw ||| r.rwl) == 0
    | none => false)

/-- An address of Inkwell, of local feedback and captures. -/
def isInk (a : Nat) : Bool := decide (0x04000000 ≤ a ∧ a < 0x04100000)
def isLfCap (a : Nat) : Bool := decide (0x04400000 ≤ a ∧ a < 0x04500000)

/-- A value that the INKWELL section gives a register: a route names an application task and an assigned event, N of
INK_OVR_CFG is not 0, a task with LEN 1 names a ligature from 32 up, DEPTH is 1 to 8, and RESERVE at most 256 (R68,
R217, R245, R253). -/
def inkRegOk (e : Nat × Word) : Bool :=
  if inBank (Reg.INK_EVR 0) 4 128 e.1 then decide (256 ≤ fld e.2 7 9) && eventAssigned (fld e.2 16 8)
  else if e.1 = Reg.INK_OVR_CFG then fld e.2 0 8 != 0
  else if inBank (Reg.INK_TCFG 0) 4 512 e.1 then !bit e.2 21 || decide (32 ≤ fld e.2 22 6)
  else if inBank (Reg.INK_QSTAT 0) 0x20 16 e.1 then decide (1 ≤ fld e.2 0 4 ∧ fld e.2 0 4 ≤ 8)
  else if e.1 = Reg.INK_INFL then decide (fld e.2 0 9 ≤ 256)
  else true

/-- The rules of the INKWELL section (R68, R217, R245). -/
def inkwellOk (l : List (Nat × Word)) : Bool := regsOk isInk l && l.all inkRegOk

/-- The value that a section gives a register, or its reset value. -/
def regIn (l : List (Nat × Word)) (a : Nat) : Word := ((l.find? (fun e => e.1 == a)).map (·.2)).getD (resetOf a)

/-- The SSI frame of a channel ends by the freeze mark, `inst` being a node instant in 2^-8 ns (R414, R416). -/
def ssiFits (period : Nat) (ssi : Word) (inst : Nat) : Bool :=
  let clocks := 1 + (fld ssi 0 5 + 1) + fld ssi 6 1
  decide (inst + clocks * (20 * (fld ssi 16 8 + 1)) * 256 ≤ freezeOfs period * 256)

/-- The rules of channel `n` that the ROUTE section configures: its ranges, CPR where index correction is on, and a frame
of an SSI channel that ends by the freeze mark under each node instant of the image (R402, R414, R416, R424). -/
def lfRegsOk (period : Nat) (insts : List Nat) (l : List (Nat × Word)) (n : Nat) : Bool :=
  let cfg := regIn l (Reg.LF_CFG n)
  let ssi := regIn l (Reg.LF_SSI n)
  decide (fld cfg 0 3 ≤ 4) && decide (fld cfg 6 3 ≤ 6) && decide (1 ≤ fld cfg 16 8)
    && (!bit cfg 5 || decide (fld (regIn l (Reg.LF_CPR n)) 0 24 ≠ 0))
    && decide (4 ≤ fld ssi 16 8) && decide (7 ≤ fld ssi 0 5)
    && (decide (fld cfg 0 3 ≠ 3) || insts.all (ssiFits period ssi))

/-- The rules of a capture input that the ROUTE section configures (R424). -/
def capRegsOk (l : List (Nat × Word)) (n : Nat) : Bool :=
  let cfg := regIn l (Reg.CAP_CFG n)
  (!bit cfg 31 || decide (fld cfg 29 2 ≠ 0)) && decide (1 ≤ fld cfg 16 8)

/-- The feedback registers of the ROUTE section; an SSI frame ends by the freeze mark of each script of the image (R253,
R416, R424; log entry 37). -/
def fieldRegsOk (period : Nat) (insts : List Nat) (l : List (Nat × Word)) : Bool :=
  regsOk isLfCap l && (List.range 8).all (lfRegsOk period insts l) && (List.range 16).all (capRegsOk l)

/-- Node instants of the scripts of an image (R317). -/
def imageInsts (g : Img) : List Nat := (g.all 8).filterMap (fun x => (parseScript x.bytes).map (·.instant))

/-- The index that a failed section reports. -/
def sectIdx (g : Img) (typ : Nat) : Nat := ((g.sect typ 0).map (·.idx)).getD 0xFF

/-- The scripts of an image against a period and a node table: the index of the first that fails. -/
def scriptFails (g : Img) (period : Nat) (nodes : List NodeCfg) : Option Nat :=
  ((g.all 8).find? (fun x => match parseScript x.bytes with
    | some k => !scriptOk period nodes k
    | none => true)).map (·.idx)

/-- An optional section fails a rule. -/
def sectFails {α : Type} (g : Img) (typ : Nat) (f : List Byte → Option α) (ok : α → Bool) : Option Nat :=
  match g.sect typ 0 with
  | some x => match f x.bytes with
    | some v => if ok v then none else some x.idx
    | none => some x.idx
  | none => none

/-- Check 6 of a full image: the index of the first section that fails (R253). -/
def fullContent (s : State) (g : Img) : Option Nat :=
  match g.read 1 Config.machineSec, g.axesSec with
  | some m, some a =>
    let draft := g.read 13 parseDraft
    let nodes := match g.read 7 Config.routeSec with | some r => r.nodes | none => []
    if m.period ≠ g.period ∨ m.nodeId = 0 ∨ m.nodeId = 255 ∨ m.absence < 4 ∨ 255 < m.absence
        ∨ m.pace < 1 ∨ 255 < m.pace ∨ (g.sect 8 m.script).isNone
        ∨ (draft.isSome ∧ m.script = 7) then some (sectIdx g 1)
    else if !axesOk s g a then some (sectIdx g 2)
    else
      let engines := ((g.all 3).find? (fun x => match Config.engineSec x.bytes with
        | some k => !engineSecOk k
        | none => true)).map (·.idx)
      let route := if (g.sect 7 0).isNone && a.ctx.any (fun x => !x.cfg.virt) then some (sectIdx g 2) else none
      let d := sectFails g 13 parseDraft (fun d => draftOk s d.2.1 && scriptOk 3 nodes d.2.2)
      (engines <|> sectFails g 4 Config.paramSec (fun l => l.all (fun e => paramRecOk e.2)) <|> sectFails g 5 Config.bankSec (bankSecOk a)
        <|> sectFails g 6 Config.ductusSec (ductusSecOk a)
        <|> sectFails g 7 Config.routeSec (fun r => routeOk m.nodeId a r && fieldRegsOk m.period (imageInsts g) r.regs) <|> route
        <|> scriptFails g m.period nodes <|> sectFails g 9 Config.inkwellSec inkwellOk
        <|> sectFails g 10 reactWords reactOk <|> d)
  | none, _ => some (sectIdx g 1)
  | _, none => some (sectIdx g 2)

/-- Check 6 of a partial image (R253, R273). -/
def partContent (s : State) (g : Img) : Option Nat :=
  scriptFails g (rdf s Reg.BSL_STROKE_CFG 0 2) s.pln.nodes <|> sectFails g 10 reactWords reactOk

/-- The axes that a section names, as its parser reads it. -/
def axesNamed {α : Type} (g : Img) (typ : Nat) (f : List Byte → Option α) (names : α → List (Fin 256)) : List (Fin 256) :=
  match g.read typ f with
  | some v => names v
  | none => []

/-- The axes that a DCT_CFG value names: its own, and the master where MSRC takes one (R194, R210). -/
def cfgAxes (e : Fin 256 × Word) : List (Fin 256) :=
  if fld e.2 28 2 = 1 ∨ fld e.2 28 2 = 2 then [e.1, Fin.ofNat 256 (fld e.2 20 8)] else [e.1]

/-- Every axis that a full image names: contexts, group lists, engine lists, run maps and records, parameter records,
banks, slots and masters, node table, routed axes, draft axes (R3). -/
def imgAxes (g : Img) : List (Fin 256) :=
  axesNamed g 2 Config.axesSec (fun a => a.ctx.map (·.axis) ++ (fins 32).flatMap (fun k => a.lists[k]))
    ++ (g.all 3).flatMap (fun x => match Config.engineSec x.bytes with
      | some k => k.list ++ k.runMap.map (·.1) ++ k.lib.map (·.1)
      | none => [])
    ++ axesNamed g 4 Config.paramSec (·.map (·.1)) ++ axesNamed g 5 Config.bankSec (·.banks.map (·.1))
    ++ axesNamed g 6 Config.ductusSec (fun k => k.slots.map (·.1) ++ k.cfg.flatMap cfgAxes)
    ++ axesNamed g 7 Config.routeSec (fun r => r.nodes.flatMap (·.axes) ++ r.lf.map (·.1))
    ++ axesNamed g 13 some draftNames

/-- An image names an axis above the part's limit (R3, R4, R253 check 5). -/
def axisAbove (s : State) (g : Img) : Bool :=
  decide (axisLimit s < g.axes) || (imgAxes g).any (fun n => decide (axisLimit s ≤ n.val))

/-- The checks of R253 in order: RESULT and SECTION of the first that fails, or 0 with the image. -/
def checkImage (s : State) (b : List Byte) : Nat × Nat × Option Img :=
  if !imgHeaderOk b then (3, 0xFF, none)
  else if !imgKeyOk s b then (4, 0xFF, none)
  else if !imgSignatureOk b then (5, 0xFF, none)
  else
    let part := bit (wAt b 1) 8
    match imgSections b part (fld (wAt b 1) 0 8) 0 [] with
    | (0, _, l) =>
      let g : Img := { part, id := wAt b 3, base := wAt b 4, minStep := fld (wAt b 5) 24 8, period := fld (wAt b 5) 16 2
                       axes := fld (wAt b 5) 0 9, sects := l }
      if !part && !imgComplete g then (7, 0xFF, none)
      else if rdf s Reg.FUS_PART 24 8 < g.minStep ∨ axisAbove s g ∨ (part && g.base != rd s Reg.STW_CODEX_ID) then (8, 0xFF, none)
      else match (if part then partContent s g else fullContent s g) with
        | some i => (9, i, none)
        | none => (0, 0, some g)
    | (e, i, _) => (e, i, none)

end Sys2Proof.Machine
end

