-- ==== Sys2Proof/Machine/Redundancy.lean ====
section
/-! DEFINITION. Plenil ports and channels: bring-up, delays, forwarding, wraps, the checks of own frames, withdrawal and
rejoin (R280 to R289, R314, R316, R358 to R378). -/

namespace Sys2Proof.Machine

/-- The channel of a port, and whether it is the channel's port 1 (R316). -/
def portCh (p : Fin 4) : Bool := decide (2 ≤ p.val)
def isPort1 (p : Fin 4) : Bool := p.val % 2 == 1

def setPortState (s : State) (p : Fin 4) (v : Nat) : State := wrf s (Reg.PLN_PORT_STAT p) 0 3 v

/-! ## Wraps (R361 to R367, R375, R378) -/

/-- The controller sends frames for port 0 out of port 1; it sends what arrives on port 0 out of port 0 (R361). -/
def upWrap (s : State) (c : Bool) : Bool := (chSt s c).ownUp || portState s (port0 c) != 4
def downWrap (s : State) (c : Bool) : Bool := (chSt s c).ownDown || portState s (port1 c) != 4

/-- STATE of a channel written; source 0x112 + c follows it (R375, R501). -/
def setChState (s : State) (c : Bool) (v : Nat) : State :=
  setCond (wrf s (Reg.PLN_CH_STAT (chIdx c)) 29 3 v) (0x112 + chIdx c) (v == 2) 0

/-- A wrap begins (R375, R378). -/
def wrapBegin (s : State) (c : Bool) : State :=
  if (chSt s c).wrap then s
  else
    let s := updCh s c (fun k => { k with wrap := true })
    let s := wrb (incf s (Reg.PLN_CH_CNT (chIdx c)) 0 8) (Reg.PLN_CH_STAT (chIdx c)) 23 true
    let s := when (chState s c == 0) s (fun s => setChState s c 1)
    assertSource s (0x110 + chIdx c) 0

/-- A wrap ends (R367, R378). -/
def wrapEnd (s : State) (c : Bool) : State :=
  if !(chSt s c).wrap then s
  else
    let s := updCh s c (fun k => { k with wrap := false })
    let s := wrb (wrf s (Reg.PLN_CH_STAT (chIdx c)) 0 16 0) (Reg.PLN_CH_STAT (chIdx c)) 22 true
    when (chState s c == 1) s (fun s => setChState s c 0)

/-- The wrap has no member of the controller's own and none that a reverse frame shows (R367; log entry 44). -/
def wrapHeals (s : State) (c : Bool) : State :=
  let k := chSt s c
  if k.ownUp || k.ownDown || k.revLast then s else wrapEnd s c

/-- The controller leaves its own wraps after a whole page with a healthy port (R367). -/
def wrapLeave (s : State) (c : Bool) : State :=
  let ok := fun p => portState s p == 4 && s.pln.port[p].upLast
  let s := updCh s c (fun k => { k with
    ownUp := k.ownUp && !ok (port0 c), ownDown := k.ownDown && !(ok (port1 c) && !k.revLast) })
  wrapHeals s c

/-! ## Ports (R288, R289) -/

/-- A port falls to state 0; leaving state 4 is an event and begins a wrap (R288, R316, R361). -/
def portDown (s : State) (p : Fin 4) : State :=
  let was := portState s p
  let s := updPort (setPortState s p 0) p (fun k => { k with n := 0, sum := 0, next := none, upAll := false })
  if was ≠ 4 then s
  else
    let c := portCh p
    let s := wrb s (Reg.PLN_PORT_STAT p) 7 true
    let s := if isPort1 p then
        wrf (updCh s c (fun k => { k with ownDown := true })) (Reg.PLN_CH_STAT (chIdx c)) 0 8 ((chSt s c).hops + 1)
      else wrf (updCh s c (fun k => { k with ownUp := true })) (Reg.PLN_CH_STAT (chIdx c)) 8 8 0
    wrapBegin s c

/-- The SerDes reference is present and the channel's domain on, so that a port can leave state 0 (R572, R577). -/
def portLive (s : State) (p : Fin 4) : Bool := chOn s (portCh p) && !rdb s Reg.PWR_STAT 7

/-- Lanes gain or lose synchronisation, and are deskewed by an align column on all lanes (R288). -/
def laneSync (s : State) (p : Fin 4) (lanes : BitVec 4) (aligned : Bool) : State :=
  if !portLive s p then s
  else
    let s := wrf s (Reg.PLN_PORT_STAT p) 12 4 lanes.toNat
    if lanes ≠ 15 then portDown s p
    else if portState s p ≤ 1 then setPortState s p (if aligned then 2 else 1)
    else s

/-- A delay response: one measurement; 16 of them complete bring-up, later ones take effect at the page boundary
(R289). -/
def delayResponse (s : State) (p : Fin 4) (elapsed : Nat) : State :=
  let d := (elapsed - 16384) / 2
  let st := portState s p
  if !portLive s p || st < 2 then s
  else if st = 2 then
    let s := updPort s p (fun k => { k with n := k.n + 1, sum := k.sum + d })
    if s.pln.port[p].n < 16 then s
    else
      let s := wrf s (Reg.PLN_PORT_DLY p) 0 24 (s.pln.port[p].sum.toNat / 16)
      setPortState (updPort s p (fun k => { k with next := none })) p 3
  else updPort s p (fun k => { k with next := some d })

/-- A delay request is answered with its sequence byte (R289). -/
def delayRequest (s : State) (p : Fin 4) (seq : Byte) : State :=
  if portLive s p && decide (1 ≤ portState s p) then updPort s p (fun k => { k with answered := some seq }) else s

/-- A port's registers at a page boundary (R289, R316, R367). -/
def portPage (s : State) (p : Fin 4) : State :=
  let k := s.pln.port[p]
  let s := wrf s (Reg.PLN_PORT_RES p) 16 16 k.resMax
  let s := match k.next with
    | some d => wrf s (Reg.PLN_PORT_DLY p) 0 24 d
    | none => s
  updPort s p (fun k => { k with resMax := 0, next := none, upLast := k.upAll, upAll := portState s p == 4 })

/-! ## Forwarding (R283, R290, R291, R312, R361, R362) -/

/-- A counter of PLN_PORT_ERR: 24 CODE, 16 FCS, 8 STOMP, 0 DROP (R316). -/
def portErr (s : State) (p : Fin 4) (lo : Nat) : State := incf s (Reg.PLN_PORT_ERR p) lo 8

/-- Bytes of a list replaced from index `i` on. -/
def setBytes (f : List Byte) (i : Nat) : List Byte → List Byte
  | [] => f
  | b :: r => setBytes (f.set i b) (i + 1) r

/-- The outgoing frame: HOPS, CORR and a new FCS, complemented where the incoming one was wrong (R291, R312, R362). -/
def forwarded (f : List Byte) (bad hop : Bool) (add : Nat) : List Byte :=
  let body := setBytes (frBody f) 10 (leBytes 4 (frCorr f + add))
  let body := if hop then setBytes body 8 [BitVec.ofNat 8 (frHops f + 1)] else body
  body ++ (if bad then (fcsOf body).map (~~~ ·) else fcsOf body)

/-- The counts of a received frame but DROP: code violations and disparity errors, and a wrong or stomped FCS (R291,
R316). A violation inside the frame is one of them. -/
def countFrame (s : State) (p : Fin 4) (f : RxFrame) : State :=
  let r := Reg.PLN_PORT_ERR p
  let s := wrf s r 24 8 (satN 8 (rdf s r 24 8 + max f.codes f.viol.toNat))
  if fcsOk f.bytes then s
  else if isStomped f.bytes then portErr s p 8
  else portErr s p 16

/-- A frame invalid under R292 for a reason other than the FCS counts in DROP (R316). -/
def countDrop (s : State) (p : Fin 4) (f : RxFrame) : State :=
  when (fcsOk f.bytes && !headerOk s (portCh p) f.bytes) s (fun s => portErr s p 0)

/-- A frame leaves by port `e` (R314, R316; log entry 40). -/
def sendOn (s : State) (p e : Fin 4) (residence : Nat) (f : List Byte) : State :=
  let r := satN 16 residence
  let s := wrf s (Reg.PLN_PORT_RES p) 0 16 r
  let s := updPort s p (fun k => { k with resMax := max k.resMax r })
  updPort s e (fun k => { k with fwd := f })

/-- The own SETPOINT has come back reverse: the ring is wrapped upstream of it (R367, R378). -/
def ownReverse (s : State) (c : Bool) (b : List Byte) : State :=
  let s := wrapBegin s c
  wrf s (Reg.PLN_CH_STAT (chIdx c)) 8 8 (frHops b + 1)

/-- A frame received on a port is forwarded, turned or removed (R283, R361, R362). A frame back at its source is never
counted in DROP. A controller wrapped in both ways sends out of port 1 what a wrap would turn to port 0, while that port is
up: else it is cut off. -/
def frameForward (s : State) (p : Fin 4) (f : RxFrame) (residence : Nat) : State :=
  let c := portCh p
  let b := f.bytes
  if !chOn s c || portState s p ≠ 4 then s
  else
    let bad := !fcsOk b
    let add := residence + portDelay s p
    let s := countFrame s p f
    if isPort1 p then
      if ctrlId s ≠ 0 ∧ frSrc b = ctrlId s then s
      else if frHops b = 128 then portErr s p 0
      else
        let s := countDrop s p f
        if upWrap s c then sendOn s p (port1 c) residence (forwarded b bad false add)
        else sendOn s p (port0 c) residence (forwarded b bad true add)
    else
      let s := when (frSrc b != ctrlId s) s (fun s => countDrop s p f)
      let s := updCh s c (fun k => { k with reverse := true })
      let s := when (frameOk s c f && frType b == 1 && frSrc b == ctrlId s) s (fun s => ownReverse s c b)
      if downWrap s c && upWrap s c then
        when (portState s (port1 c) == 4) s (fun s => sendOn s p (port1 c) residence (forwarded b bad false add))
      else if downWrap s c then sendOn s p (port0 c) residence (forwarded b bad true add)
      else sendOn s p (port1 c) residence (forwarded b bad false add)

/-! ## Checks of own frames, withdrawal and rejoin (R368 to R378) -/

/-- The content of a frame: every byte but HOPS, CORR and the FCS (R369). -/
def frContent (f : List Byte) : List Byte := f.take 8 ++ (f.drop 9).take 1 ++ (frBody f).drop 14

/-- A check has failed with CAUSE `k`: the channel will be withdrawn, or its probe fails (R370, R377). -/
def checkFailed (s : State) (c : Bool) (k : Nat) : State :=
  if chState s c = 3 then updCh s c (fun x => { x with probeBad := k })
  else updCh s c (fun x => { x with decided := if x.decided = 0 then k else x.decided })

/-- The own SETPOINT returns forward on port 1 and is compared: a stomped copy only where the controller sent it stomped
(R323, R369, R377, R378). -/
def setpointReturn (s : State) (c : Bool) (f : RxFrame) : State :=
  let b := f.bytes
  let k := chSt s c
  let own := k.train.headD []
  let shown := fcsOk b || (isStomped b && isStomped own)
  if !chOn s c || portState s (port1 c) ≠ 4 || chState s c = 2 || own.isEmpty || f.viol || !headerOk s c b || frType b ≠ 1 || frSrc b ≠ ctrlId s || !shown
  then s
  else
    let h := frHops b
    let s := updCh s c (fun k => { k with returned := true, ret := strokeTime s, hops := if k.wrap then k.hops else h })
    let up := rdf s (Reg.PLN_CH_STAT (chIdx c)) 8 8
    let s := when k.wrap s (fun s => wrf s (Reg.PLN_CH_STAT (chIdx c)) 0 8 (k.hops + 1 - (h - (up - 1))))
    if frContent b = frContent own then s
    else
      let s := incf s (Reg.PLN_CH_CNT (chIdx c)) 16 8
      assertSource (checkFailed s c 2) (0x114 + chIdx c) 0

/-- Frame `i` of the train fails the transmit check: it is stomped where the mismatch is found before the last data
column, and a failure whose predecessor also failed withdraws the channel (R368, R370; log entry 36). -/
def txFailure (s : State) (c : Bool) (i : Nat) (early : Bool) : State :=
  let k := chSt s c
  if k.trainRev ∨ k.train.length ≤ i ∨ k.txFails.contains i then s
  else
    let near := (if i = 0 then k.txLast else k.txFails.contains (i - 1)) || k.txFails.contains (i + 1)
    let s := incf s (Reg.PLN_CH_CNT (chIdx c)) 24 8
    let s := updCh s c (fun k => { k with
      txFails := i :: k.txFails, train := k.train.modify i (fun f => if !early || isStomped f then f else stomp f) })
    if near || chState s c = 3 then checkFailed s c 1 else s

/-- Channels are withdrawn at the release mark of the stroke that decided it (R370, R376). -/
def releaseChannel (s : State) (c : Bool) : State :=
  let d := (chSt s c).decided
  if d = 0 then s
  else
    let r := Reg.PLN_CH_STAT (chIdx c)
    let s := updCh s c (fun k => { k with decided := 0, probeReq := false })
    let s := when (chState s c == 3) s (fun s => wrf s r 24 2 2)
    setChState (wrb (wrf s r 26 3 d) r 21 true) c 2

/-- WITHDRAW of a channel (R376). -/
def withdrawWrite (s : State) (c : Bool) : State :=
  if 2 ≤ chState s (!c) ∨ (chSt s (!c)).decided ≠ 0 then wrb s Reg.PLN_CH_CTL 31 true
  else if chState s c = 2 ∨ (chSt s c).decided ≠ 0 then s
  else updCh s c (fun k => { k with decided := 4 })

/-- REJOIN of a channel (R377). -/
def rejoinWrite (s : State) (c : Bool) : State :=
  if chState s c ≠ 2 then wrf s (Reg.PLN_CH_STAT (chIdx c)) 24 2 3
  else updCh s c (fun k => { k with probeReq := true })

/-- The W1P bits of a write to PLN_CH_CTL (R378). -/
def chCtlWrite (s : State) (v : Word) : State :=
  let s := when (bit v 0) s (fun s => withdrawWrite s false)
  let s := when (bit v 1) s (fun s => withdrawWrite s true)
  let s := when (bit v 8) s (fun s => rejoinWrite s false)
  when (bit v 9) s (fun s => rejoinWrite s true)

/-- The transmit control of a channel that is active again takes the group stops of the other, so that both send the same
frames (R24, R358, R511). -/
def stopsRejoin (s : State) (c : Bool) : State :=
  { s with mgn := { s.mgn with
      stwStop := s.mgn.stwStop.set c (s.mgn.stwStop.get (!c)), stwReact := s.mgn.stwReact.set c (s.mgn.stwReact.get (!c)) } }

/-- A probe ends, or a requested one begins, at a page boundary (R377). -/
def probePage (s : State) (c : Bool) : State :=
  let k := chSt s c
  let r := Reg.PLN_CH_STAT (chIdx c)
  if chState s c = 3 then
    if k.probeBad = 0 then setChState (wrf (stopsRejoin s c) r 24 2 1) c (if k.wrap then 1 else 0)
    else setChState (wrf (wrf s r 24 2 2) r 26 3 k.probeBad) c 2
  else if chState s c = 2 ∧ k.probeReq then setChState (updCh s c (fun k => { k with probeReq := false, probeBad := 0 })) c 3
  else s

/-- Channels at a page boundary: the controller leaves its wraps before the train of stroke 0 is sent (R367, R377). -/
def channelPage (s : State) (c : Bool) : State :=
  let s := updCh s c (fun k => { k with revLast := k.reverse, reverse := false })
  probePage (wrapLeave s c) c

/-- A freeze mark before which the own SETPOINT has not returned (R369). -/
def returnCheck (s : State) (c : Bool) : State :=
  let k := chSt s c
  if chState s c ≠ 2 ∧ chOn s c ∧ frType (k.train.headD []) = 1 ∧ !k.returned then incf s (Reg.PLN_CH_CNT (chIdx c)) 8 8
  else s

/-- The SerDes reference is lost: every port goes to state 0 (R572). -/
def portsDown (s : State) : State := forAll (fins 4) s portDown

/-! ## Meanings -/

/-- SOURCE_ASSERTION (R501, R503, R506). Source 0x11B names a failed slot in its detail; sources 0x116 and 0x117 stand
for a transmit-check failure of the frame of the train that the detail numbers, found in the last data column where the
detail's bit 31 is 1; 0x112 and 0x113 for a lasting fault of
the port engine, which withdraws the channel (R370; log entries 29 and 36). -/
def execSourceAssertion (src : Fin 512) (detail : Word) (s : State) : Host.Outcome State Fault Refusal :=
  .next (if src.val = 0x112 ∨ src.val = 0x113 then checkFailed s (src.val == 0x113) 3
    else
      let s := when (src.val == 0x116 || src.val == 0x117) s (fun s => 
        txFailure s (src.val == 0x117) (fld detail 0 31) (!bit detail 31))
      assertSource (slotFailed (ligFailed (newInstant s) src detail) src detail) src detail)

/-- SETPOINT_RETURN (R369). -/
def execSetpointReturn (c : Fin 2) (f : RxFrame) (s : State) : Host.Outcome State Fault Refusal :=
  .next (setpointReturn (newInstant s) (c == 1) f)

/-- FRAME_FORWARD (R283). -/
def execFrameForward (p : Fin 4) (f : RxFrame) (residence : BitVec 32) (s : State) : Host.Outcome State Fault Refusal :=
  .next (frameForward (newInstant s) p f residence.toNat)

/-- DELAY_REQUEST (R289). -/
def execDelayRequest (p : Fin 4) (seq : Byte) (s : State) : Host.Outcome State Fault Refusal := .next (delayRequest s p seq)

/-- DELAY_RESPONSE (R289). -/
def execDelayResponse (p : Fin 4) (_seq : Byte) (elapsed : BitVec 32) (s : State) : Host.Outcome State Fault Refusal :=
  .next (delayResponse s p elapsed.toNat)

/-- LANE_SYNC (R288). -/
def execLaneSync (p : Fin 4) (lanes : BitVec 4) (aligned : Bool) (s : State) : Host.Outcome State Fault Refusal :=
  .next (laneSync (newInstant s) p lanes aligned)

/-- PORT_UP (R288). -/
def execPortUp (p : Fin 4) (s : State) : Host.Outcome State Fault Refusal :=
  .next (if portLive s p && portState s p == 3 then setPortState s p 4 else s)

/-- PORT_DOWN (R288). -/
def execPortDown (p : Fin 4) (s : State) : Host.Outcome State Fault Refusal := .next (portDown (newInstant s) p)

/-- WRAP_LEAVE (R367). -/
def execWrapLeave (c : Fin 2) (s : State) : Host.Outcome State Fault Refusal := .next (wrapLeave s (c == 1))

end Sys2Proof.Machine
end

