-- ==== Sys2Proof/Machine/NetTime.lean ====
section
/-! DEFINITION. Network time: cold start, integration, masters and domains (R331 to R339, R382, R386 to R389), and the
downlink train of a stroke (R322 to R324, R358, R377). -/

namespace Sys2Proof.Machine

/-- PLN_CS_STAT.STATE (R356). -/
def csState (s : State) : Nat := rdf s Reg.PLN_CS_STAT 0 4
def setCsState (s : State) (v : Nat) : State := wrf s Reg.PLN_CS_STAT 0 4 v

/-- The controller still takes its stroke grid from the network (R334). -/
def integrating (s : State) : Bool :=
  csState s == 1 || csState s == 2 || csState s == 4 || (csState s == 0 && decide (s.pln.integ < 64))

/-- The controller begins to integrate (R331 to R333). -/
def integrate (s : State) : State := updPln (setCsState s 4) (fun p => { p with integ := 0 })

/-- The (rank, node ID) pair of the controller, and the order of such pairs (R333). -/
def ownPair (s : State) : Nat × Nat := (rdf s Reg.PLN_CS_STAT 8 2, ctrlId s)
def pairLt (a b : Nat × Nat) : Bool := decide (a.1 < b.1 ∨ (a.1 = b.1 ∧ a.2 < b.2))

/-! ## Domains (R336 to R339, R387) -/

/-- The master of a domain written; AVALID and BVALID say whether there is a master not missing for 3 strokes. -/
def setMaster (s : State) (b : Bool) (n : Nat) : State := wrf s Reg.PLN_TIME_STAT (8 * domIdx b) 8 n

def showValid (s : State) : State :=
  let ok := fun b => masterOf s b ≠ 0 ∧ s.pln.miss.get b < 3
  wrb (wrb s Reg.PLN_TIME_STAT 20 (decide (ok false))) Reg.PLN_TIME_STAT 21 (decide (ok true))

/-- The stroke period in units of 2^-24 ns. -/
def periodUnits (s : State) : Int := ((periodNs s * 2 ^ 24 : Nat) : Int)

/-- The other domain becomes the active one: the next mark is the latched send mark in it plus one period (R338,
R387). -/
def activeChange (s : State) : State :=
  let b := !activeB s
  let t := s.base.latch.get b
  let d := t.diff (s.base.latch.get (!b))
  let s := incf (wrb (wrb s Reg.PLN_TIME_STAT 16 b) Reg.PLN_TIME_STAT 22 false) Reg.PLN_TIME_STAT 24 8
  let s := updBase s (fun k => { k with next := t.shift (periodUnits s), sendTime := t })
  showLocked (lfConvert (tpConvert s d) d)

/-- The active master appoints the master of the other domain (R336). -/
def appoint (s : State) : State :=
  let b := activeB s
  let m := masterOf s (!b)
  if !isTimeMaster s b || (m ≠ 0 && s.pln.miss.get (!b) < 3) then s
  else
    let best := s.pln.coldLast.foldl (fun (o : Option (Nat × Nat)) x =>
      match o with | some y => if pairLt x y then some x else o | none => some x) none
    let s := setMaster s (!b) ((best.map (·.2)).getD 0)
    showValid (updPln s (fun p => { p with miss := p.miss.set (!b) 0 }))

/-- STATE 6 of an integrated controller while it is master of a domain, and 5 while it is not (R336, R356). -/
def showMaster (s : State) : State :=
  when (decide (5 ≤ csState s)) s (fun s =>
    setCsState s (if isTimeMaster s false || isTimeMaster s true then 6 else 5))

/-- The domains at a send mark: masters without a frame in the last stroke are counted, and a mark of the controller's
own as active master ends a holdover. Only the active master forms the valid bits of byte 2; the others show those that its
frame gave (R337 to R339). -/
def mastersStroke (s : State) : State :=
  let one := fun (s : State) (b : Bool) =>
    let own := isTimeMaster s b || masterOf s b == 0
    updPln s (fun p => { p with miss := p.miss.set b (if own || s.base.seen.get b then 0 else p.miss.get b + 1) })
  let s := one (one s false) true
  let s := when (isTimeMaster s (activeB s)) s (fun s => wrb s Reg.PLN_TIME_STAT 22 false)
  let s := when (csState s == 3) s (fun s => updPln s (fun p => { p with lead := p.lead + 1 }))
  showLocked (when (isTimeMaster s (activeB s)) s showValid)

/-- Holdover (R339): the lowest of the integrated capable members, the lost masters left out, continues the active
domain. -/
def holdover (s : State) : State :=
  let gone := fun b => !isTimeMaster s b && (masterOf s b == 0 || decide (3 ≤ s.pln.miss.get b))
  if !(gone false && gone true) then s
  else
    let s := wrb s Reg.PLN_TIME_STAT 22 true
    let st := csState s
    let live := s.pln.coldLast.filter (fun x => x.2 ≠ masterOf s false && x.2 ≠ masterOf s true)
    if 5 ≤ st ∧ s.pln.capable ∧ live.all (fun x => pairLt (ownPair s) x) then
      showLocked (showValid (setMaster (setCsState s 6) (activeB s) (ctrlId s)))
    else s

/-! ## Frames of the masters (R334, R337, R338, R382) -/

/-- The time of a reference block, and its offset in 2^-24 ns (R295). -/
def blockTime (k : List Byte) : BTime :=
  { sec := BitVec.ofNat 48 (leNat ((k.drop 4).take 6)), ns := BitVec.ofNat 30 (f32 k 10)
    frac := BitVec.ofNat 24 (f16 k 14 * 256) }
def blockOfs (k : List Byte) : Int := signedOf 64 (leNat ((k.drop 16).take 8)) * 256

/-- Bytes 0 to 2 of the active master's block (R337). -/
def takeMasters (s : State) (k : List Byte) : State :=
  let s := showMaster (setMaster (setMaster s false (f8 k 0)) true (f8 k 1))
  wrb (wrb (wrb s Reg.PLN_TIME_STAT 20 ((fb k 2).getLsbD 1)) Reg.PLN_TIME_STAT 21 ((fb k 2).getLsbD 2))
    Reg.PLN_TIME_STAT 22 false

/-- A domain's master has been heard, and its copy is compared with the local time at the origin instant (R312,
R382). -/
def measure (s : State) (x c : Bool) (b : List Byte) (t : BTime) (ofs : Int) : State :=
  if s.base.seen.get x then s
  else
    let origin := (domTime s x).shift (-((pathOf s c b * 2 ^ 16 : Nat) : Int))
    let s := updPln s (fun p => { p with miss := p.miss.set x 0 })
    phaseMeasure s x (origin.diff t - ofs)

/-- A valid frame while the controller integrates: its grid is that of the frame, and 64 of them complete the
integration (R334, R389; log entry 45). -/
def followGrid (s : State) (b : List Byte) (t : BTime) : State :=
  let s := updBase s (fun k => { k with next := t.shift (periodUnits s) })
  let s := wrf s Reg.BSL_STROKE_NUM 0 16 (frStroke b)
  let s := updPln s (fun p => { p with integ := p.integ + 1, grid := true })
  when (csState s == 4 && decide (64 ≤ s.pln.integ)) s (fun s => setCsState s 5)

/-- The active domain as an integrating controller learns it; a change while marks run converts what counts in it
(R334, R338, R397, R423). -/
def learnActive (s : State) (act : Bool) : State :=
  if act = activeB s then s else if marks s then activeChange s else wrb s Reg.PLN_TIME_STAT 16 act

/-- A valid frame while the controller integrates: the active master's gives the grid, and the other master's its offset
(R334, R337). -/
def integrateCopy (s : State) (c : Bool) (b k : List Byte) (act : Bool) : State :=
  let t := blockTime k
  if frSrc b = f8 k (domIdx act) then
    if s.base.seen.get act then s
    else measure (followGrid (takeMasters (learnActive s act) k) b t) act c b t 0
  else if frSrc b = masterOf s (!act) ∧ act = activeB s then measure s (!act) c b t (blockOfs k)
  else s

/-- Before the first send mark the strokes are those of the masters' frames: the first frame of another stroke ends the
one before it (R334, R382, R389). -/
def strokeTurn (s : State) (b : List Byte) : State :=
  if marks s || s.pln.integ == 0 || frStroke b == rdf s Reg.BSL_STROKE_NUM 0 16 then s
  else wrf (phaseStroke (phaseStroke s false) true) Reg.BSL_STROKE_NUM 0 16 (frStroke b)

/-- A SETPOINT copy after the node instant is not applied (R359). -/
def afterNode (s : State) (b : List Byte) : Bool :=
  frType b == 1 && marks s && (match activeScr s with | some c => decide (c.instant < strokeTime s) | none => false)

/-- A SETPOINT or REFERENCE of a master on channel `c`: a listening or waiting controller integrates at any (R331, R332,
R334, R337 to R339, R382). In holdover the frame of a member that names itself master of the active domain is its
first. -/
def refCopy (s : State) (c : Bool) (f : RxFrame) : State :=
  let b := f.bytes
  if !copyOk s c f || (frType b ≠ 1 && frType b ≠ 3) || frSrc b = ctrlId s || !toMe s b || afterNode s b then s
  else
    let k := (payload b).take 24
    let act := (fb k 2).getLsbD 0
    let t := blockTime k
    let s := when (csState s == 1 || csState s == 2) s integrate
    let s := when (frSrc b == masterOf s false || frSrc b == masterOf s true || frSrc b == f8 k (domIdx act)) s
      (fun s => strokeTurn s b)
    if integrating s then integrateCopy s c b k act
    else if frSrc b = masterOf s (activeB s)
        ∨ (rdb s Reg.PLN_TIME_STAT 22 ∧ act = activeB s ∧ frSrc b = f8 k (domIdx act)) then
      let s := when (act != activeB s) s activeChange
      measure (takeMasters s k) (activeB s) c b t 0
    else if frSrc b = masterOf s (!activeB s) then
      if act ≠ activeB s then
        let s := activeChange s
        measure (takeMasters s k) (activeB s) c b t 0
      else measure s (!activeB s) c b t (blockOfs k)
    else s

/-- A leader that yields sends nothing more of its own and is no master (R333). -/
def yieldLead (s : State) : State := showValid (setMaster (setMaster (integrate s) false 0) true 0)

/-- A COLDSTART on channel `c` (R324, R331 to R333, R336). Before the first send mark there is no stroke in which it could be
late. -/
def coldstart (s : State) (c : Bool) (f : RxFrame) : State :=
  let b := f.bytes
  let p := payload b
  if !copyOk s c f || frType b ≠ 4 || frSrc b = ctrlId s || !toMe s b || f32 p 4 ≠ s.pln.netid.toNat then s
  else
    let other := (f8 p 0, frSrc b)
    let record := fun (s : State) =>
      if frStroke b % 64 = 63 ∧ !s.pln.cold.contains other then updPln s (fun k => { k with cold := k.cold ++ [other] })
      else s
    match csState s with
    | 1 | 2 => integrate s
    | 3 => if pairLt other (ownPair s) then yieldLead s else record s
    | _ => if marks s && decide (downEnd s < strokeTime s) then lateFrame s else record s

/-! ## Cold start (R331 to R333, R389) -/

/-- A cold start begins: a capable member listens, any other integrates (R331). -/
def coldStartBegin (s : State) : State :=
  let s := updPln (setCsState s (if s.pln.capable then 1 else 0)) (fun p => { p with
    cold := [], coldLast := [], lead := 0, integ := 0, grid := false, miss := ⟨0, 0⟩ })
  updBase s (fun k => { k with seen := ⟨false, false⟩, errs := ⟨[], []⟩ })

/-- The first instant of domain A that is a whole multiple of the page length (R389). -/
def firstMark (s : State) : BTime :=
  let page := 64 * periodNs s * 2 ^ 24
  BTime.ofUnits ((s.base.dom.a.units + page - 1) / page * page)

/-- The rank wait expires: the member leads (R332, R336, R389). -/
def coldStartLead (s : State) : State :=
  if csState s ≠ 2 then s
  else
    let s := incf (setCsState s 3) Reg.PLN_CS_STAT 16 16
    let s := wrb (setMaster (setMaster s false (ctrlId s)) true 0) Reg.PLN_TIME_STAT 16 false
    let s := updBase s (fun k => { k with next := firstMark s })
    showLocked (showValid (updPln s (fun p => { p with lead := 0, grid := true, miss := ⟨0, 0⟩ })))

/-! ## The downlink train (R322 to R324, R358, R377) -/

/-- SETPOINTs flow: the controller is part of the network, in draft or full service (R304, R322). -/
def sendsSetpoint (s : State) : Bool := integrated s && (fullService s || draftService s)

/-- It sends REFERENCE: a time master or a cold-start leader that sends no SETPOINT (R304, R322). -/
def sendsReference (s : State) : Bool :=
  marks s && !sendsSetpoint s && (csState s == 3 || isTimeMaster s false || isTimeMaster s true)

/-- It sends COLDSTART: in 128 strokes of its leadership, and in stroke 63 once integrated (R322, R333). -/
def sendsColdstart (s : State) : Bool :=
  (csState s == 3 && decide (s.pln.lead ≤ 128)) || (s.pln.capable && decide (5 ≤ csState s) && integrated s && strokeNo s == 63)

/-- Columns of the frames that members send behind the SETPOINT in this stroke: responses due, and eight join requests
in strokes 56 to 63 (R323; log entry 46). -/
def answerCols (s : State) : Nat :=
  let rsp := (fins 256).foldl (fun a n => match s.pln.node[n].cmd with
    | some k => if !k.due && k.sent + 2 == strokeAbs s then a + (if k.op = 1 then 13 else 11) else a
    | none => a) 0
  rsp + (if 56 ≤ strokeNo s then 8 * 15 else 0)

/-- The latest return of the own SETPOINT on a channel in use. -/
def lastReturn (s : State) : Nat :=
  let one := fun c => if chOn s c && decide (chState s c ≠ 2) then (chSt s c).ret else 0
  max (one false) (one true)

/-- A train of `cols` columns is predicted to end at port 1 by DOWN_END (R323). -/
def trainFits (s : State) (cols : Nat) : Bool := decide (lastReturn s + colTime cols ≤ downEnd s)

/-- Frames added to a train while they fit: those that do, and the columns then. -/
def fitFrames {α : Type} (s : State) (len : α → Nat) : List α → Nat → List α × Nat
  | [], n => ([], n)
  | x :: r, n =>
    if trainFits s (n + len x) then
      let t := fitFrames s len r (n + len x)
      (x :: t.1, t.2)
    else fitFrames s len r n

/-- The nodes whose commands are due: at most ACYC_MAX, and none in strokes 56 to 63 (R322, R324). -/
def dueNodes (s : State) : List (Fin 256) :=
  if 56 ≤ strokeNo s then []
  else ((fins 256).filter (fun n => match s.pln.node[n].cmd with | some k => k.due | none => false)).take (acycMax s)

/-- The frames at the head of the train on channel `c`: the SETPOINT or the REFERENCE, and a COLDSTART. -/
def trainHead (s : State) (c : Bool) : List (List Byte) :=
  (if sendsSetpoint s then [setpointFrame s c] else if sendsReference s then [referenceFrame s c] else [])
    ++ (if sendsColdstart s && marks s then [coldstartFrame s c] else [])

/-- The port by which the train leaves: port 0, or port 1 in the reverse direction while the controller wraps upstream
(R361). -/
def trainPort (s : State) (c : Bool) : Fin 4 := if upWrap s c then port1 c else port0 c

/-- The train on a channel, from the head and what fits behind it, while the port it leaves by is up (R288, R323,
R361). -/
def trainOf (s : State) (c : Bool) (sw : List (SwitchSt × Nat)) (gr : List Grant) (cm : List (Fin 256)) (period : Nat) :
    List (List Byte) :=
  if !chOn s c || chState s c = 2 || portState s (trainPort s c) ≠ 4 then []
  else if chState s c = 3 then (if sendsSetpoint s then [stomp (setpointFrame s c)] else [])
  else trainHead s c ++ sw.map (fun w => switchFrame s c w.1 w.2 period)
    ++ (gr.filter (fun g => g.on.get c)).map (grantFrame s c)
    ++ cm.filterMap (fun n => (s.pln.node[n].cmd).map (acycFrame s c n))

/-- A container is sent: the nodes whose STOP bit is first sent as 1, which have not reported STO since, and those whose bit
is sent as 0 (R479). -/
def stopsSent (s : State) : State :=
  forAll ((fins 256).filter (fun (n : Fin 256) => stopBit s n != s.pln.node[n].stopSent)) s (fun s n =>
    updNode s n (fun k => { k with stopSent := !k.stopSent, stoSeen := false }))

/-- The downlink train of the stroke is fixed and sent (R322 to R324). `period` is the PERIOD after the boundary of a
running switch. -/
def sendTrain (s : State) (period : Nat) : State :=
  let head := ((trainHead s false).map columns).sum + answerCols s
  let sets := sendsSetpoint s
  let sw := fitFrames s (fun (_ : SwitchSt × Nat) => 11) (if sets then (switchSends s).toList else []) head
  let gr := fitFrames s (fun (g : Grant) => (pad4 (20 + g.axes.length) + 20) / 4 + 4)
    (if sets && decide (strokeNo s < 8) then s.pln.grants else []) sw.2
  let len := fun (n : Fin 256) => match s.pln.node[n].cmd with
    | some k => (pad4 (8 + k.data.length) + 20) / 4 + 4
    | none => 0
  let cm := (fitFrames s len (if sets then dueNodes s else []) gr.2).1
  let put := fun (s : State) (c : Bool) =>
    let t := trainOf s c sw.1 gr.1 cm period
    updCh s c (fun k => { k with
      txLast := if k.train.isEmpty || k.trainRev then k.txLast else k.txFails.contains (k.train.length - 1)
      txFails := [], returned := false, train := t
      trainRev := upWrap s c })
  let s := put (put s false) true
  let s := forAll cm s (fun s n => updNode s n (fun k => { k with
    cmd := k.cmd.map (fun x => { x with due := false, sent := strokeAbs s }) }))
  let s := when (7 ≤ strokeNo s) s (fun s => updPln s (fun p => { p with grants := if strokeNo s = 7 then [] else p.grants }))
  if sets then
    stopsSent (forAll (frameAxes s) s (fun s n => updAx s n (fun a => { a with
      sent := BitVec.ofNat 64 (leNat (axisEntry s false n)) })))
  else s

/-! ## Meanings -/

/-- REFERENCE (R382). -/
def execReference (c : Fin 2) (f : RxFrame) (s : State) : Host.Outcome State Fault Refusal := .next (refCopy s (c == 1) f)

/-- COLDSTART (R333). -/
def execColdstart (c : Fin 2) (f : RxFrame) (s : State) : Host.Outcome State Fault Refusal := .next (coldstart s (c == 1) f)

/-- COLD_START_LISTEN: two silent pages have passed (R331). -/
def execColdStartListen (s : State) : Host.Outcome State Fault Refusal :=
  .next (if csState s = 1 then setCsState s 2 else s)

/-- COLD_START_WAIT (R332). -/
def execColdStartWait (s : State) : Host.Outcome State Fault Refusal := .next (coldStartLead s)

/-- LEADERSHIP_END: 128 strokes of leadership have passed (R333, R336). -/
def execLeadershipEnd (s : State) : Host.Outcome State Fault Refusal :=
  .next (if csState s = 3 ∧ 128 ≤ s.pln.lead then setCsState s 6 else s)

/-- ACTIVE_DOMAIN_CHANGE: the controller is master of the other domain and has had no valid frame of the active master
for 3 strokes (R338). -/
def execActiveDomainChange (s : State) : Host.Outcome State Fault Refusal :=
  .next (if isTimeMaster s (!activeB s) ∧ 3 ≤ s.pln.miss.get (activeB s) then activeChange s else s)

/-- HOLDOVER (R339). -/
def execHoldover (s : State) : Host.Outcome State Fault Refusal := .next (holdover s)

end Sys2Proof.Machine
end

