-- ==== Sys2Proof/Machine/Codex.lean ====
section
/-! DEFINITION. The Steward's bring-up: loading a Codex, draft service, the transition to full service, partial images and
the restart (R254 to R279). -/

namespace Sys2Proof.Machine

def updStw (s : State) (f : Stw → Stw) : State := { s with stw := f s.stw }

/-- STAGE written (R259). -/
def setStage (s : State) (n : Nat) : State := wrf s Reg.STW_BOOT_STAT 28 4 n

/-- The present stage lasts a time that the manual bounds and does not fix, at most `most` ns (R259; log entry 116). -/
def stageFor (s : State) (most : Nat) : State :=
  let r := takeNat s
  { r.2 with stw := { r.2.stw with stageEnd := s.tick + r.1 % (most + 1) } }

/-- STW_CODEX_STAT.BUSY. -/
def codexBusy (s : State) : Bool := rdb s Reg.STW_CODEX_STAT 31

/-- An operation begins. -/
def codexStart (s : State) : State := wrb s Reg.STW_CODEX_STAT 31 true

/-- BUSY returns to 0, and the host is told (R551). -/
def codexIdle (s : State) : State :=
  when (codexBusy s) s (fun s => hstIrq (wrb s Reg.STW_CODEX_STAT 31 false) 13)

/-- An operation ends, or is refused, with RESULT and SECTION (R278, R279). -/
def codexResult (s : State) (r sect : Nat) : State := wrf (wrf s Reg.STW_CODEX_STAT 16 8 r) Reg.STW_CODEX_STAT 8 8 sect
def codexEnd (s : State) (r sect : Nat) : State :=
  codexIdle (codexResult (updStw s (fun k => { k with range := none })) r sect)

/-- Power domains switched on by the Steward. -/
def domainsOn (s : State) (m : Word) : State := orReg s Reg.PWR_PD_STAT m

/-! ## Sections written into their blocks (R247, R259 stage 6) -/

/-- Words and halfwords stored in turn. -/
def storeHalves (s : State) (e : Fin 16) (y : Bool) (l : List (BitVec 14 × Half)) : State :=
  forAll l s (fun s x => mwr16 s (qAddr e y x.1) x.2)

/-- An ENGINE section; the library state is what its record images say (R270; log entry 105). -/
def loadEngine (s : State) (e : Fin 16) (k : EngineSec) : State :=
  let s := mwrWords s (qProgAddr e 0) k.prog
  let s := storeHalves (storeHalves s e false k.x) e true k.y
  let s := { s with wave := { s.wave with engList := s.wave.engList.put e k.list } }
  let s := forAll k.runMap s (fun s r => { s with axcfg := s.axcfg.upd r.1 (fun c => { c with runMap := r.2 }) })
  forAll k.lib s (fun s r => updAx s r.1 (fun a => { a with lib := r.2 }))

/-- The AXES section: contexts, group lists and the Codex fields of INK_AXS (R159). -/
def loadAxes (s : State) (a : AxesSec) : State :=
  let s := { s with wave := { s.wave with grpList := a.lists } }
  forAll a.ctx s (fun s x =>
    let s := { s with axcfg := s.axcfg.put x.axis { x.cfg with used := true, hold := x.holdClass } }
    let s := updAx s x.axis (fun a => { a with lib := LibSt.reset })
    let w := rd s (Reg.INK_AXS x.axis)
    wr s (Reg.INK_AXS x.axis) (put (put (put (put w 14 2 x.cfg.policy.toNat) 13 1 x.holdClass.toNat) 12 1 x.cfg.place.toNat)
      0 5 x.cfg.group.val))

/-- Halfwords from a Y address up. -/
def loadY (s : State) (e : Fin 16) (b : BitVec 14) (l : List Half) : State :=
  storeHalves s e true (l.zipIdx.map (fun x => (b + BitVec.ofNat 14 x.2, x.1)))

/-- The BANK section: banks, tables, and READY of what it gives, and of nothing else (R603). -/
def loadBanks (s : State) (k : BankSec) : State :=
  let s := forAll (fins 256) s (fun s n => setBankReady (setBankReady s n false false) n true false)
  let s := forAll k.banks s (fun s b =>
    setBankReady (loadY s s.axcfg[b.1].engine (bankBase s b.1 b.2.1) b.2.2) b.1 b.2.1 true)
  forAll k.tables s (fun s t => loadY s t.1 t.2.1 t.2.2)

/-- The DUCTUS section: slot records with the limits that the first motion uses, DCT_CFG with VIRTUAL as the axis is, and
cam bases (R174, R210). -/
def loadDuctus (s : State) (k : DuctusSec) : State :=
  let s := forAll k.slots s (fun s e =>
    updSlot s e.1 (fun x => { x with
      record := Vector.ofFn (fun (i : Fin 16) => e.2.getD i 0)
      lim := ⟨(e.2.getD 2 0).toNat, (e.2.getD 3 0).toNat, (e.2.getD 4 0).toNat, (e.2.getD 5 0).toNat⟩ }))
  let s := forAll k.cfg s (fun s e => wr s (Reg.DCT_CFG e.1) e.2)
  let s := forAll (fins 256) s (fun s n => wrb s (Reg.DCT_CFG n) 31 (s.axcfg[n].used && s.axcfg[n].virt))
  forAll k.cams s (fun s e => wr s (Reg.DCT_CAM e.1) (e.2 &&& 0xFFFF0000#32))

/-- Registers written as a section gives them; a task's configuration acts as a write does (R214). -/
def loadRegs (s : State) (l : List (Nat × Word)) : State :=
  forAll l s (fun s e =>
    let s := wr s e.1 e.2
    when (inBank (Reg.INK_TCFG 0) 4 512 e.1) s (fun s => taskConfigured s (Fin.ofNat 512 ((e.1 - Reg.INK_TCFG 0) / 4))))

/-- Every RWL field of the feedback and capture registers at its reset value (R424). -/
def fieldCleared (s : State) : State :=
  forAll (s.regs.filter (fun e => isLfCap e.1)) s (fun s e => match regRow e.1 with
    | some r => wr s e.1 ((e.2 &&& ~~~r.rwl) ||| (resetOf e.1 &&& r.rwl))
    | none => s)

/-- The feedback registers of the ROUTE section, which writes every RWL field: one that it leaves out takes its reset
value (DESIGN CHOICE, log entry 124). A channel whose MODE changes is enabled (R412, R424). -/
def loadField (s : State) (l : List (Nat × Word)) : State := lfModes s (loadRegs (fieldCleared s) l)

/-- The ROUTE section: routed axes and the feedback registers; the node table stands since the checks (R602). -/
def loadRoute (s : State) (r : RouteSec) : State :=
  let s := updStw (loadField s r.regs) (fun k => { k with route := r.regs })
  forAll r.lf s (fun s e => { s with axcfg := s.axcfg.upd e.1 (fun c => { c with lf := some e.2 }) })

/-- A SCRIPT section. -/
def loadScript (s : State) (n : Nat) (k : Script) : State :=
  let s := updPln s (fun p => { p with script := p.script.put (Fin.ofNat 8 n) (some k) })
  wrb s Reg.PLN_SCR_STAT (8 + n) true

/-- A script loaded while members stand: their slots and timing for it are set up (R343, R348; log entry 48). -/
def scriptMembers (s : State) (k : Fin 8) : State :=
  forAll (members s) s (fun s n =>
    let p := s.pln.node[n].path
    let path : AB (Option Nat) := ⟨p.a.assumed, p.b.assumed⟩
    let slot := match s.pln.script[k] with
      | some c => findSlot s k c n (nodeAxes s n).length path
      | none => none
    let s := updNode s n (fun x => { x with slot := x.slot.put k slot, valid := x.valid &&& ~~~(bit8 k) })
    issueTodo (queueTodo s n (timingCmds s n k)) n)

/-- A script of a full image: beside a draft the Codex's own script 7 waits for the boundary of the transition, as the
members run the draft script under that number (R342). -/
def loadScriptFor (s : State) (k : Fin 8) : State :=
  if s.pln.draftScript.isSome ∧ k = 7 then s else scriptMembers s k

/-- The REACT section (R505). -/
def loadReact (s : State) (w : List Word) : State :=
  let s := forAll (fins 64) s (fun s c =>
    let w0 := w.getD (1 + 2 * c.val) 0
    let s := wr (wr s (Reg.MGN_CLSCFG0 c) w0) (Reg.MGN_CLSCFG1 c) (w.getD (2 + 2 * c.val) 0)
    wrb s (Reg.MGN_CLS c) 25 (bit w0 31))
  updMgn s (fun m => { m with
    srcMap := ((List.range 512).map (fun n => (n, mapByte w n))).filter (fun e => e.2 ≠ 0xFF) })

/-- A cam table image stored at the table's BASE (R203, R273). -/
def loadCam (s : State) (t : Nat) (b : List Byte) : State :=
  { s with mem := s.mem.writeBytes (camBase s (Fin.ofNat 64 t)) b }

/-- A local memory image of a Scribe core (R241, R251). -/
def loadApp (s : State) (c : Nat) (b : List Byte) : State := { s with mem := s.mem.writeBytes (0x02000000 + c * 0x100000) b }

/-- A section that is present, read by its parser, and written. -/
def loadSect {α : Type} (s : State) (g : Img) (typ : Nat) (f : List Byte → Option α) (put : State → α → State) : State :=
  match g.read typ f with
  | some v => put s v
  | none => s

/-- Every section of a full image written into its block (R259 stage 6). -/
def loadSections (s : State) (g : Img) : State :=
  let s := match g.axesSec with
    | some a => loadAxes s a
    | none => s
  let s := loadSect s g 1 Config.machineSec (fun s m =>
    domainsOn (wrf s Reg.INK_OVR_CFG 0 8 m.pace) (m.pdMask.setWidth 32))
  let s := forAll (g.all 3) s (fun s x => match Config.engineSec x.bytes with
    | some k => loadEngine s (Fin.ofNat 16 x.inst) k
    | none => s)
  let s := loadSect s g 4 Config.paramSec (fun s l => forAll l s (fun s e => loadY s s.axcfg[e.1].engine s.axcfg[e.1].ypar e.2))
  let s := loadSect s g 5 Config.bankSec loadBanks
  let s := loadSect s g 6 Config.ductusSec loadDuctus
  let s := loadSect s g 7 Config.routeSec loadRoute
  let s := loadSect s g 9 Config.inkwellSec loadRegs
  let s := forAll (g.all 8) s (fun s x => match parseScript x.bytes with
    | some k => loadScriptFor (loadScript s x.inst k) (Fin.ofNat 8 x.inst)
    | none => s)
  let s := loadSect s g 10 reactWords loadReact
  let s := forAll (g.all 11) s (fun s x => loadCam s x.inst x.bytes)
  let s := forAll (g.all 12) s (fun s x => loadApp s x.inst x.bytes)
  updStw s (fun k => { k with engines := (g.all 3).map (fun x => Fin.ofNat 16 x.inst)
                              apps := (g.all 12).map (fun x => Fin.ofNat 16 x.inst) })

/-- COMM_TABLE commands of a table, of at most 126 entries each (R307). -/
def tableCmds (t : Fin 6 × Nat × List Half) : List (AcycOwner × Byte × List Byte) :=
  (List.range ((t.2.2.length + 125) / 126)).map (fun i =>
    (.tables, 3, [BitVec.ofNat 8 t.1.val, 0] ++ leBytes 2 (t.2.1 + 126 * i)
      ++ ((t.2.2.drop (126 * i)).take 126).flatMap (fun w => leBytes 2 w.toNat)))

/-- Stage 7 sends each member its commutation tables, and then COMM_COMMIT, which makes them active (R137, R259, R307,
R308; log entry 99). -/
def sendTables (s : State) : State :=
  forAll (members s) s (fun s n => match (Config.nodeTables s.stw.image n).flatMap tableCmds with
    | [] => s
    | l => issueTodo (queueTodo s n (l ++ [(.tables, 4, [])])) n)

/-! ## Bring-up (R254 to R271) -/

/-- MODE of an engine set by the Steward, where LOCK is 0 (R119). -/
def modeSet (s : State) (e : Fin 16) (m : BitVec 2) : State := when (!rdb s (Reg.QE_CTL e) 8) s (fun s => modeWrite s e m)

/-- Draft service begins (R260 to R262). -/
def draftStart (s : State) (l : List DraftAxis) (k : Script) : State :=
  let s := domainsOn s (l.foldl (fun (m : Word) d => m ||| BitVec.ofNat 32 (2 ^ pdOfEngine d.engine)) 0x1C00#32)
  let s := setPeriod (updPln { s with drafts := l } (fun p => { p with draftScript := some k })) 3
  let s := wrb (wrf s Reg.PLN_SCR_STAT 0 3 7) Reg.PLN_SCR_STAT 15 true
  let s := forAll (l.map (·.engine)) s (fun s e => modeSet s e 1)
  coldStartBegin (wrf s Reg.STW_BOOT_STAT 0 7 l.length)

/-- A full image has passed its checks (R259 stages 5 and 6, R282). A draft that already runs goes on (log entry 47). -/
def imageTaken (s : State) (b : List Byte) (g : Img) : State :=
  let m := g.read 1 Config.machineSec
  let runs := draftService s
  let d := g.read 13 parseDraft
  let s := updStw s (fun k => { k with
    image := b, machine := m, ready := false, draft := runs || d.isSome
    holdDraft := match d with | some x => x.1 | none => false })
  let s := match m with
    | some m =>
      let s := wrf (wr s Reg.PLN_CTRL_ID (m.nodeId.setWidth 32)) Reg.PLN_CS_STAT 8 2 m.rank
      updPln s (fun p => { p with absence := m.absence, capable := m.capable, netid := m.netid })
    | none => s
  let s := loadSect s g 7 Config.routeSec (fun s r => updPln s (fun p => { p with nodes := r.nodes }))
  if runs then setStage s 5
  else match d with
    | some (_, l, k) => setStage (draftStart s l k) 5
    | none => setStage s 6

/-- ERR: the result of the last failed check of a flash slot (R278). -/
def slotErr (s : State) (source e : Nat) : State :=
  when (decide (source = 1 ∨ source = 2)) s (fun s => wrf s Reg.STW_BOOT_STAT 16 8 e)

/-- An image read from flash stands in the Scriptorium, at a multiple of 64 that the manual does not give (R259, R271;
log entry 83). -/
def imagePlace (s : State) (b : List Byte) : State :=
  let r := takeNat s
  let a := r.1 % ((scriptoriumSize - min b.length scriptoriumSize) / 64 + 1) * 64
  { r.2 with mem := r.2.mem.writeBytes a (b.take scriptoriumSize) }

/-- An image read from a source is checked and taken, or its failure reported: whether it was taken (R253, R255). -/
def tryImage (s : State) (b : List Byte) (source : Nat) : State × Bool :=
  let s := wrf (updStw s (fun k => { k with source })) Reg.STW_BOOT_STAT 24 4 source
  match checkImage s b with
  | (0, _, some g) =>
    if g.part then (codexResult (slotErr s source 7) 7 0xFF, false) else (imageTaken s b g, true)
  | (e, i, _) => (codexResult (slotErr s source e) e i, false)

/-- The Steward waits for the host (R255, R259 stage 10). -/
def waitForHost (s : State) : State :=
  setStage (domainsOn (codexIdle (wrf s Reg.STW_BOOT_STAT 24 4 0)) 0x400#32) 10

/-- The directory is good: its marks and CRC (R255). -/
def dirOk (d : List Byte) : Bool := wAt d 0 == 0x52494443#32 && wAt d 7 == crc32 (d.take 28)

/-- The slot's image as the directory gives its length. -/
def slotImage (d slot : List Byte) (i : Nat) : List Byte :=
  let b := slot.take (wAt d (2 + 3 * i)).toNat
  b.take (wAt b 2).toNat

/-- Flash slots tried in order until an image is taken; the host is waited for where none is (R255). -/
def trySlots (dir : List Byte) : List (Nat × List Byte) → State → State
  | [], s => waitForHost s
  | e :: r, s =>
    let b := slotImage dir e.2 e.1
    let t := tryImage (imagePlace s b) b (e.1 + 1)
    if t.2 then t.1 else trySlots dir r t.1

/-- The flash slots that hold an image, the one with the higher SEQ first (R255). -/
def slotOrder (dir a b : List Byte) : List (Nat × List Byte) :=
  (if (wAt dir 3).toNat < (wAt dir 6).toNat then [(1, b), (0, a)] else [(0, a), (1, b)]).filter
    (fun e => wAt dir (2 + 3 * e.1) ≠ 0)

/-- Stages 1 to 4 from flash: the slots in the order of SEQ (R255, R259). -/
def bootRead (s : State) (dir a b : List Byte) : State :=
  if !(decide (1 ≤ stage s ∧ stage s ≤ 3)) || s.stw.bootHost then s
  else
    let s := setStage (domainsOn (codexStart s) 0x400#32) 4
    if !dirOk dir then waitForHost s else trySlots dir (slotOrder dir a b) s

/-- Every lock bit that the Codex load sets (R268): BSL_STROKE_CFG, QE_CTL, DCT_CTL, INK_CTL, LF_CTL. -/
def setLocks (s : State) : State :=
  let s := forAll (fins 16) s (fun s e => wrb s (Reg.QE_CTL e) 8 true)
  wrb (wrb (wrb (wrb s Reg.BSL_STROKE_CFG 8 true) Reg.DCT_CTL 8 true) Reg.INK_CTL 8 true) Reg.LF_CTL 16 true

/-- Engines of the image change to service at the next page boundary (R119, R268). -/
def enginesService (s : State) : State := forAll s.stw.engines s (fun s e => modeSet s e 2)

/-- Bank 0 is active on every axis, and requests that wait go on waiting (R152, R603). -/
def banksFirst (s : State) : State :=
  let s := { s with grp := s.grp.map (fun k => { GroupSt.reset with swap := k.swap }) }
  let s := forAll (fins 32) s (fun s g => wrb s (Reg.INK_BANK g) 6 false)
  forAll (fins 256) s (fun s n => wrb s (Reg.INK_AXS n) 6 false)

/-- The Codex's own script 7, if present, replaces the draft script: VALID timing for 7 is cleared, and the members get
their slots and timing for the new one (R342, R348). -/
def draftScriptEnds (s : State) : State :=
  let s := updPln s (fun p => { p with draftScript := none })
  scriptMembers (wrb s Reg.PLN_SCR_STAT 15 (s.pln.script[7]).isSome) 7

/-- Full service begins at a page boundary (R268, R270, R342, R603). PAGE and STROKE count on: after draft service the
count goes on from the first mark of the draft. DESIGN CHOICE, as R51 leaves open whether it starts again (log entry
115). -/
def fullServiceBegin (s : State) : State :=
  let was := s.drafts.map (·.axis)
  let s := setStage s 9
  let s := match s.stw.machine with
    | some m => wrf (setPeriod s m.period) Reg.PLN_SCR_STAT 0 3 m.script
    | none => s
  let s := forAll (fins 256) s (fun s n => updAx s n (fun a => { AxisSt.reset with
    fbIn := a.fbIn, fresh := a.fresh, fb := a.fb, fbAge := a.fbAge, sent := a.sent, qsLoss := a.qsLoss, qsJoin := a.qsJoin
    qsLeave := a.qsLeave, lib := a.lib, out := if was.contains n then a.out else standstillOut s.axcfg[n] }))
  let s := banksFirst { s with drafts := [], dct := { s.dct with first := true } }
  let s := when s.pln.draftScript.isSome s draftScriptEnds
  let s := forAll s.stw.apps (wrb s Reg.INK_CTL 0 true) (fun s c => scSetRun s c true)
  let s := wr (wr s Reg.STW_CODEX_ID (wAt s.stw.image 3)) Reg.STW_CODEX_PART 0
  codexEnd (updStw s (fun k => { k with ready := false, draft := false })) 1 0

/-- The transition begins: a switch from the draft script to the initial one is announced in the next page (R268). -/
def transitionStart (s : State) (attempts : Nat) : State :=
  match s.stw.machine with
  | some m =>
    let w : SwitchSt := { target := m.script, page := 0, announced := false, transition := true, attempts, required := []
                          taken := none, src := .software }
    swPhase (updPln (setStage s 8) (fun p => { p with sw := some w })) 1
  | none => s

/-- A draft jog or its ramp runs (R267). -/
def jogRuns (s : State) : Bool := s.drafts.any (fun d => d.vel != 0 || d.jog != 0)

/-- Stage 7 is complete (R259, R267). -/
def transitionRequest (s : State) : State :=
  if stage s ≠ 7 ∨ s.stw.ready then s
  else if s.stw.draft then
    if s.stw.holdDraft then codexEnd (updStw s (fun k => { k with ready := true })) 1 0
    else if jogRuns s then codexEnd (updStw s (fun k => { k with ready := true })) 0x0D 0
    else transitionStart s 0
  else
    let s := match s.stw.machine with
      | some m => wrf (setPeriod s m.period) Reg.PLN_SCR_STAT 0 3 m.script
      | none => s
    coldStartBegin (setLocks (enginesService (setStage s 8)))

/-- PERIOD written for the next boundary (R268). -/
def periodAhead (s : State) : State :=
  match s.stw.machine with
  | some m => wrf s Reg.BSL_STROKE_CFG 0 2 m.period
  | none => s

/-- The transition settles at the freeze mark of stroke 47: PERIOD, modes and locks are written within page P+1 (R268). -/
def transitionSettled (s : State) : State :=
  match s.pln.sw with
  | some w => if w.transition && w.taken == some true then setLocks (enginesService (periodAhead s)) else s
  | none => s

/-- A page boundary under a settled transition, or without a draft once the network is integrated (R259, R268, R269). -/
def servicePage (s : State) (w : Option SwitchSt) : State :=
  match w with
  | some w =>
    if !w.transition then s
    else if w.taken = some true then fullServiceBegin s
    else if 3 ≤ w.attempts + 1 then codexEnd (updStw (setStage s 7) (fun k => { k with ready := true })) 0x0C 0
    else transitionStart s (w.attempts + 1)
  | none => if stage s = 8 ∧ !s.stw.draft ∧ integrated s then fullServiceBegin s else s

/-! ## Loads, transitions and restarts by register (R256 to R258, R267, R273 to R275) -/

/-- Bytes of the image at an address of the Scriptorium, as its header gives their number. -/
def hostImage (s : State) (a : Nat) : List Byte :=
  let n := (mrd32 s (a + 8)).toNat
  if a + n ≤ scriptoriumSize then s.mem.readBytes a n else []

/-- The address in STW_CODEX_ADDR. -/
def codexAddr (s : State) : Nat := rdf s Reg.STW_CODEX_ADDR 6 16 * 64

/-- A partial image's sections whose condition does not hold (R273). -/
def partBlocked (s : State) (g : Img) : Option Sect :=
  g.sects.find? (fun x =>
    if x.typ = 8 then activeScript s == Fin.ofNat 8 x.inst ||
      match s.pln.sw with | some w => w.taken.isNone && w.target.val == x.inst | none => false
    else if x.typ = 11 then camState s (Fin.ofNat 64 x.inst) != 0
    else if x.typ = 12 then rdb s (Reg.SC_CTL x.inst) 0
    else false)

/-- A partial image is taken as a whole (R273, R274). -/
def partTake (s : State) (g : Img) : State :=
  let react := (g.sect 10 0).map (fun x => wordsOf x.bytes)
  let s := forAll (g.all 8) s (fun s x => match parseScript x.bytes with
    | some k =>
      let s := scriptMembers (loadScript s x.inst k) (Fin.ofNat 8 x.inst)
      wrb s Reg.PLN_SCR_STAT (16 + x.inst) react.isSome
    | none => s)
  let s := forAll (g.all 11) s (fun s x => loadCam s x.inst x.bytes)
  let s := forAll (g.all 12) s (fun s x => loadApp s x.inst x.bytes)
  let s := updStw s (fun k => { k with partId := g.id, react })
  if react.isSome then s else codexEnd (wr s Reg.STW_CODEX_PART g.id) 1 0

/-- The waiting REACT map takes effect (R273, R274). -/
def reactTakes (s : State) : State :=
  match s.stw.react with
  | some w =>
    if (fins 64).any (fun c => clsState s c == 1) then s
    else
      let s := wrf (loadReact s w) Reg.PLN_SCR_STAT 16 8 0
      codexEnd (wr (updStw s (fun k => { k with react := none })) Reg.STW_CODEX_PART s.stw.partId) 1 0
  | none => s

/-- LOAD (R256 to R258, R273). -/
def codexLoad (s : State) : State :=
  if codexBusy s then codexResult s 2 0
  else
    let a := codexAddr s
    let b := hostImage s a
    let st := stage s
    if !imgHeaderOk b then codexResult s 3 0xFF
    else
      let part := bit (wAt b 1) 8
      if !part && !(st == 5 || st == 10) then codexResult s 0x0A 0xFF
      else if part && st ≠ 9 then codexResult s 8 0xFF
      else
        let s' := updStw (codexStart s) (fun k => { k with range := some (a, b.length) })
        match checkImage s b with
        | (0, _, some g) =>
          if part then match partBlocked s g with
            | some x => codexEnd s' 0x0A x.idx
            | none => partTake s' g
          else imageTaken (wrf (updStw s' (fun k => { k with source := 3 })) Reg.STW_BOOT_STAT 24 4 3) b g
        | (e, i, _) => codexEnd s' e i

/-- TRANSITION (R267, R269). -/
def codexTransition (s : State) : State :=
  if codexBusy s then codexResult s 2 0
  else if !draftService s || !s.stw.ready || jogRuns s then codexResult s 0x0D 0
  else transitionStart (updStw (codexStart s) (fun k => { k with ready := false })) 0

/-- Registers of the blocks in PD2 to PD12, PD14 and PD15 (R12, R275). -/
def restartReg (a : Nat) : Bool :=
  decide (0x01000000 ≤ a ∧ a < 0x04300000) || decide (0x04400000 ≤ a ∧ a < 0x04700000)

/-- The blocks of PD2 to PD12, PD14 and PD15 as after a reset. -/
def blocksReset (s : State) : State :=
  let r := State.reset
  { dropRegs s restartReg with
    eng := r.eng, ink := r.ink, axcfg := r.axcfg, ax := r.ax, grp := r.grp, wave := r.wave, drafts := [], loads := []
    dct := r.dct, lf := r.lf, cap := r.cap, tp := r.tp, sb := r.sb, pln := r.pln, fol := r.fol
    pins := { s.pins with tp := 0, lfCk := 0xFF } }

/-- What a restart resets: PD2 to PD12, PD14 and PD15 with their lock bits and that of BSL_STROKE_CFG, MARKS, the
Codex in service and the Steward's path; the conditions of those blocks are no longer active (R275, R501, R511, R569). -/
def restartReset (s : State) : State :=
  let s := blocksReset (forAll (fins 16) s serveHeld)
  let s := wrb (wrb s Reg.BSL_STROKE_CFG 8 false) Reg.BSL_CTL 4 false
  stwApply (forAll restartConds (updMgn s (fun m => { m with stwStop := ⟨0, 0⟩, stwPath := [] })) endCond)

/-- RESTART with the word written (R257, R275, R570). -/
def codexRestart (s : State) (v : Word) : State :=
  if codexBusy s then codexResult s 2 0
  else if fld v 8 8 ≠ 0x5A then codexResult s 0x0E 0
  else
    let s := wrb (restartReset (codexStart s)) Reg.PWR_RST_CAUSE 3 true
    let s := wrf (updStw (wr s Reg.STW_CODEX_ID 0) (fun _ => { Stw.reset with fromAddr := bit v 3 })) Reg.STW_BOOT_STAT 0 7 0
    stageFor (setStage s 11) 2000000

/-- Stages 1 and 2 and a restart end: the image at STW_CODEX_ADDR is read and checked, or flash is to be read, with PD10
on, or the host is waited for where BOOT_HOST was sampled high (R259, R275, R585; log entries 50 and 116). -/
def stageTick (s : State) : State :=
  if s.tick < s.stw.stageEnd then s
  else match stage s with
    | 1 => stageFor (setStage s 2) 2000000
    | 2 => if s.stw.bootHost then waitForHost s else setStage (domainsOn s 0x400#32) 3
    | 11 =>
      let s := setStage (domainsOn s 0x400#32) (if s.stw.fromAddr then 4 else 3)
      if s.stw.fromAddr then
        let r := tryImage s (hostImage s (codexAddr s)) 3
        if r.2 then r.1 else waitForHost r.1
      else s
    | _ => s

/-- The W1P bits of a write to STW_CODEX_CMD (R256, R267, R275). -/
def codexCmd (s : State) (v : Word) : State :=
  let s := when (bit v 0) s codexLoad
  let s := when (bit v 1) s codexTransition
  when (bit v 2) s (fun s => codexRestart s v)

/-- A write to STW_DRAFT_JOG (R266). -/
def draftJog (s : State) (v : Word) : State :=
  if !draftService s then s
  else { s with drafts := s.drafts.modify (fld v 16 6) (fun d =>
    if d.mode = 2 then d else { d with jog := signedOf 16 (fld v 0 16) }) }

/-! ## Meanings -/

/-- BOOT_FLASH_READ (R255). -/
def execBootFlashRead (dir slotA slotB : List Byte) (s : State) : Host.Outcome State Fault Refusal :=
  .next (bootRead s dir slotA slotB)

/-- TRANSITION_REQUEST (R267). -/
def execTransitionRequest (s : State) : Host.Outcome State Fault Refusal := .next (transitionRequest s)

/-- REACT_EFFECT (R273). -/
def execReactEffect (s : State) : Host.Outcome State Fault Refusal := .next (reactTakes s)

end Sys2Proof.Machine
end

