-- ==== Sys2Proof/Machine/Power.lean ====
section
/-! DEFINITION. Power, clocks and reset (R559 to R579): the resets and their reach, the brown-out warning, the reference
clocks, and the switching of power domains. -/

namespace Sys2Proof.Machine

def updPwr (s : State) (f : Pwr → Pwr) : State := { s with pwr := f s.pwr }

/-! ## Fuses (R533, R544, R557) -/

/-- Window address of the fuse array (R543). -/
def fuseBase : Nat := 0x400000

/-- A word of the fuse array. -/
def fuseWord (s : State) (ofs : Nat) : Word := s.wmem.read32 (fuseBase + ofs)

/-- The shadow of the fuse word at an offset (R154, R523, R557): AXES and LIMIT are formed from their cuts, OPEN reads 1
while the fuse is unblown. -/
def fuseShadow (ofs : Nat) (w : Word) : Word :=
  if ofs = 0 then BitVec.ofNat 32 (0xB0 * 2 ^ 24 + (if bit w 9 then 2 ^ 9 + 128 else 256))
  else if ofs = 0x40 ∨ ofs = 0x80 then BitVec.ofNat 32 (fld w 0 16)
  else if ofs = 0x44 then BitVec.ofNat 32 (fld w 8 6 * 2 ^ 8 + (32 - fld w 8 6))
  else if ofs = 0x48 then (if bit w 0 then 0 else 1)
  else if 0x100 ≤ ofs ∧ ofs % 8 = 4 then BitVec.ofNat 32 (fld w 0 10)
  else w

/-- Offsets of the fuse shadow's registers (R558). -/
def fuseOffsets : List Nat :=
  [0, 0x40, 0x44, 0x48] ++ (List.range 8).map (fun i => 0x60 + 4 * i) ++ (List.range 5).map (fun i => 0x80 + 4 * i)
    ++ (List.range 8).map (fun i => 0xC0 + 4 * i) ++ (List.range 42).map (fun i => 0x100 + 4 * i)

/-- The fuse array read into the shadow (R259 stage 1, R544, R569). -/
def fusesRead (s : State) : State :=
  forAll fuseOffsets s (fun s o => wr s (0x04B00000 + o) (fuseShadow o (fuseWord s o)))

/-- Bits blown in a word of the array (R544). -/
def fuseBlow (s : State) (ofs : Nat) (bits : Word) : State :=
  { s with wmem := s.wmem.write32 (fuseBase + ofs) (fuseWord s ofs ||| bits) }

/-- A word that a reset cuts off keeps the bits already blown: which, the spec leaves open (R566). -/
def fuseCut (s : State) (m : Master) : State :=
  match s.hst.fuseJob[m] with
  | some j => if j.begun then
      let t := takeNat s
      fuseBlow t.2 j.ofs (j.bits &&& BitVec.ofNat 32 t.1)
    else s
  | none => s

/-- The ledger entry last begun, where a reset cuts off its write: it fails its CRC, and what its words hold is left open
(R566; log entry 131). One begun before the warning rose is completed. -/
def entryCut (s : State) (w : Option (Nat × Nat)) : State :=
  match w with
  | none => s
  | some (addr, t) =>
    if warning s || !Config.entryBusy t s.tick then s
    else
      let cut := takeWords 7 s
      { cut.2 with wmem := cut.2.wmem.writeWords addr (cut.1 ++ [~~~(crc32 (wordBytes cut.1))]) }

/-- What a reset cuts off: the fuse words being programmed, and the entries being written into the ledger (R566). -/
def writesCut (s : State) : State :=
  let s := entryCut (entryCut (forAll (fins 21) s fuseCut) s.isl.writing) s.mgn.writing
  updIsl s (fun i => { i with writing := none })

/-! ## The reach of the resets (R461, R569, R570) -/

/-- Registers of the safety island, which no reset of PD0 reaches (R461). -/
def islandReg (a : Nat) : Bool :=
  decide (0x04A00000 ≤ a ∧ a < 0x04B00000) || decide (Reg.WDN_CMD ≤ a ∧ a < Reg.WDN_CMD + 0x1000)

/-- What the reset of PD0 leaves: the island, the window memories but the message RAM, the pins' input levels. The memories
of the map stand in domains that it switches off. Safe outputs are driven low. Conditions that PWR_STAT shows live stay
shown (R461, R569, R577, R586; log entry 53). -/
def resetAll (s : State) (pwr : Pwr) : State :=
  let r := State.reset
  let live := rd s Reg.PWR_STAT &&& 0x1F0#32
  let t : State := { r with
    pending := s.pending, tick := s.tick, free := s.free, isl := s.isl, regs := smDrop (fun a => !islandReg a) s.regs
    wmem := smDrop (fun a => decide (0x200000 ≤ a ∧ a < 0x208000)) s.wmem
    pins := { s.pins with tp := 0, lfCk := 0xFF, so := 0 }, pwr := pwr
    mgn := { Mgn.reset with histSeq := s.mgn.histSeq } }
  wr t Reg.PWR_STAT live

/-- The state of a reset's power part: a reset is asserted, and nRST is disarmed. -/
def pwrReset (s : State) (por : Bool) : Pwr :=
  { s.pwr with por := por, nReset := !por, nArmed := false, op := none, next := none, rstTick := s.tick }

/-- The power-on reset (R562, R563, R566, R569, R570). -/
def powerOnReset (s : State) (vioInRange : Bool) : State :=
  let s := writesCut s
  let s := updIsl (updPwr s (fun p => { p with por := true })) (fun i => { i with vioLow := !vioInRange })
  let s := resetAll (islPowerOnReset s) (pwrReset s true)
  wr s Reg.PWR_RST_CAUSE (BitVec.ofNat 32 (1 + 2 * vioInRange.toNat))

/-- A press of nRST (R567, R569, R570). -/
def nrstPress (s : State) : State :=
  if s.pwr.por || s.pwr.nReset || !s.pwr.nArmed then s
  else
    let cause := rd s Reg.PWR_RST_CAUSE
    wr (resetAll (writesCut s) (pwrReset s false)) Reg.PWR_RST_CAUSE (cause ||| 4#32)

/-- Conditions that still stand assert their sources, a lock-out among them (R501, R564, R572, R573). -/
def liveSources (s : State) : State :=
  let s := forAll [(4, 0x130), (5, 0x132), (6, 0x133), (7, 0x134)] (newInstant s) (fun s e =>
    when (rdb s Reg.PWR_STAT e.1) s (fun s => assertSource s e.2 0))
  when (s.isl.checked && s.isl.mode == .lockout) s (fun s =>
    assertSource s 0x128 (BitVec.ofNat 32 (rdf s Reg.WDN_LOCK 24 4)))

/-- Bring-up from stage 1: fuses are read, and the straps sampled; PD13 comes on, and the safe outputs follow the island
again (R259, R522, R584 to R586; log entry 50). -/
def bringUp (s : State) (testEn bootHost : Bool) : State :=
  let s := updIsl (updPwr s (fun p => { p with por := false, nReset := false })) (fun i => { i with vioLow := false })
  let s := showIsl s
  let s := domainsOn (stageFor (setStage (fusesRead s) 1) 1000000) 0x2000#32
  let s := updStw s (fun k => { k with bootHost })
  liveSources (wrb s Reg.MGN_INJ 31 (testEn && rdb s Reg.FUS_TEST 0))

/-- The power-on reset is released (R562). -/
def porRelease (s : State) (testEn bootHost : Bool) : State := when s.pwr.por s (fun s => bringUp s testEn bootHost)

/-- The 10 ms reset of nRST ends (R567). -/
def nrstResetEnd (s : State) (testEn bootHost : Bool) : State :=
  when (s.pwr.nReset && !s.pwr.por) s (fun s => bringUp s testEn bootHost)

/-- nRST has been high for 10 ms (R567). -/
def nrstArmed (s : State) : State := when (!s.pwr.por && !s.pwr.nReset) s (fun s => updPwr s (fun p => { p with nArmed := true }))

/-- nRST has been low for 4 s from a press or from the release of the power-on reset (R568). -/
def nrstStuck (s : State) : State := wrb (updPwr s (fun p => { p with nArmed := false })) Reg.PWR_STAT 1 true

/-- PE_PERST_N changes (R587). -/
def pePerst (s : State) (level : Bool) : State :=
  let s := updPwr s (fun p => { p with perst := level })
  if level then s else pcieReset s

/-! ## The brown-out warning (R564, R565) -/

/-- The warning rises. -/
def bowRise (s : State) : State :=
  if warning s then s
  else
    let s := orReg (newInstant s) Reg.PWR_STAT 0x11#32
    let s := updPwr (incf s Reg.PWR_BOW_CNT 0 16) (fun p => { p with bowTick := s.tick })
    assertSource s 0x130 0

/-- The warning falls: what it deferred is written (R491, R521, R544). LONGEST is truncated to whole µs (R8, R566). -/
def bowFall (s : State) : State :=
  if !warning s then s
  else
    let us := satN 16 ((s.tick - s.pwr.bowTick) / 1000)
    let s := wrb s Reg.PWR_STAT 4 false
    let s := wrf s Reg.PWR_BOW_CNT 16 16 (max us (rdf s Reg.PWR_BOW_CNT 16 16))
    let s := wdnNext (ledgerDrain (historyDrain (endCond s 0x130)))
    updHst s (fun h => { h with fuseJob := h.fuseJob.map (fun j => j.map (fun j => { j with begun := true })) })

/-! ## Reference clocks, temperature and VSAFE (R572 to R574) -/

/-- A condition of PWR_STAT, with its source. -/
def pwrCond (s : State) (b src : Nat) (on : Bool) : State := setCond (wrb (newInstant s) Reg.PWR_STAT b on) src on 0

/-- The SerDes reference is lost: the ports of both channels go to state 0 (R572). -/
def sdrefLost (s : State) : State := portsDown (pwrCond s 7 0x134 true)

/-- A reading of the junction sensor, LSB 0.25 °C (R573, R579). -/
def tempUpdate (s : State) (t : Half) : State :=
  let s := wrf s Reg.PWR_TEMP 0 16 t.toNat
  when (decide (signedOf 16 (rdf s Reg.PWR_TEMP 16 16) < t.toInt)) s (fun s => wrf s Reg.PWR_TEMP 16 16 t.toNat)

/-- A sample of VCORE in mV (R579). -/
def vcoreSample (s : State) (mv : Half) : State :=
  let s := wrf s Reg.PWR_VCORE 0 16 mv.toNat
  when (decide (mv.toNat < rdf s Reg.PWR_VCORE 16 16)) s (fun s => wrf s Reg.PWR_VCORE 16 16 mv.toNat)

/-- The W1P bits of PWR_CTL (R579). -/
def pwrCtl (s : State) (v : Word) : State :=
  let s := when (bit v 0) s (fun s => wrf s Reg.PWR_VCORE 16 16 (rdf s Reg.PWR_VCORE 0 16))
  when (bit v 1) s (fun s => wrf s Reg.PWR_TEMP 16 16 (rdf s Reg.PWR_TEMP 0 16))

/-! ## Power domains (R555, R575 to R577) -/

/-- Addresses of the map that stand in domain `d`, but for Plenil's (R553). -/
def pdAddr (d a : Nat) : Bool :=
  if 2 ≤ d ∧ d ≤ 5 then decide (0x01000000 + (d - 2) * 0x400000 ≤ a ∧ a < 0x01000000 + (d - 1) * 0x400000)
  else if 6 ≤ d ∧ d ≤ 9 then decide (0x02000000 + (d - 6) * 0x400000 ≤ a ∧ a < 0x02000000 + (d - 5) * 0x400000)
  else if d = 10 then decide (a < 0x400000) || decide (0x04000000 ≤ a ∧ a < 0x04200000)
  else if d = 14 then decide (0x04400000 ≤ a ∧ a < 0x04500000) || decide (0x04600000 ≤ a ∧ a < 0x04700000)
  else if d = 15 then decide (0x04500000 ≤ a ∧ a < 0x04600000) || decide (0x05000000 ≤ a ∧ a < 0x05100000)
  else false

/-- Registers of a channel's ports and its counters (R555). PLN_CH_STAT stays: it shows the withdrawal (log entry 54). -/
def chReg (c : Bool) (a : Nat) : Bool :=
  let p := if c then 0x04200120 else 0x04200100
  decide (p ≤ a ∧ a < p + 0x20) || a == Reg.PLN_CH_CNT (chIdx c)

/-- Registers and memories of the domain lost (R569, R577). -/
def pdDrop (s : State) (d : Nat) : State :=
  let s := dropRegs s (pdAddr d)
  let s := { s with mem := smDrop (pdAddr d) s.mem }
  if d = 14 then { s with wmem := smDrop (fun a => decide (0x200000 ≤ a ∧ a < 0x208000)) s.wmem } else s

/-- Engines of a quad off: programs stop, reads that they hold complete, and the groups with a drive axis there are stopped
by the Steward (R24, R555, R577). -/
def quadOff (s : State) (d : Nat) : State :=
  let there := fun (n : Fin 256) => !s.axcfg[n].virt && pdOfEngine s.axcfg[n].engine == d
  let s := stwStopGroups s (groupsWhere s there)
  let s := forAll (fins 256) s (fun s n =>
    when (there n && s.ax[n].ent == .running) s (fun s => updAx s n (fun a => { a with ent := .stopped })))
  forAll (fins 16) s (fun s e => when (pdOfEngine e == d) s (fun s => updEng (serveHeld s e) e (fun _ => QEng.reset)))

/-- Scribe cores of a quad off (R225, R577). -/
def coresOff (s : State) (d : Nat) : State := forAll (fins 16) s (fun s c => when (pdOfCore c == d) s (fun s => scSetRun s c false))

/-- PD10 off: Inkwell, Ductus and the Scriptorium are lost, and every group is stopped; what held the Steward's path in
use is gone (R511, R577). A group whose wave
has begun and that is not released repeats as a whole (R34, R66). -/
def dataOff (s : State) : State :=
  let r := State.reset
  let s := stwStopGroups s 0xFFFFFFFF#32
  let s := forAll ((fins 32).filter (fun g => !s.grp[g].released)) s (fun s g =>
    forAll (s.wave.grpList[g].filter (fun n => s.ax[n].ent != .none)) s (fun s n => updAx s n (fun a =>
      { a with age := true, out := if s.grp[g].ever then a.out else standstillOut s.axcfg[n], libNew := none })))
  { s with ink := r.ink, dct := r.dct, wave := r.wave, grp := r.grp, loads := [], mgn := { s.mgn with stwPath := [] }
           ax := s.ax.map (fun a => { a with ent := .none }), stw := { s.stw with range := none } }

/-- A channel's domain off: the channel is withdrawn with CAUSE 4 first (R370, R577); with both off the block is lost. -/
def channelOff (s : State) (c : Bool) : State :=
  let s := when (decide (chState s c ≠ 2)) s (fun s => releaseChannel (updCh s c (fun k => { k with decided := 4 })) c)
  let s := dropRegs (portDown (portDown s (port0 c)) (port1 c)) (chReg c)
  let s := updPort (updPort s (port0 c) (fun _ => PortSt.reset)) (port1 c) (fun _ => PortSt.reset)
  if chOn s (!c) then s
  else
    let s := dropRegs s (fun a => decide (0x04200200 ≤ a ∧ a < 0x04300000) && !inBank (Reg.PLN_CH_STAT 0) 4 2 a)
    forAll nodeLosses { s with pln := Pln.reset } endCond

/-- PD14 off: feedback, captures, timed pulses and the service bus (R425, R460, R577). -/
def fieldOff (s : State) : State :=
  let r := State.reset
  { tpOff s with lf := r.lf, cap := r.cap, sb := r.sb, pins := { s.pins with tp := 0, lfCk := 0xFF } }

/-- What is lost with the domain (R577). -/
def domainLost (s : State) (d : Nat) : State :=
  if 2 ≤ d ∧ d ≤ 5 then quadOff s d
  else if 6 ≤ d ∧ d ≤ 9 then coresOff s d
  else if d = 10 then dataOff s
  else if d = 11 then channelOff s false
  else if d = 12 then channelOff s true
  else if d = 13 then pcieReset s
  else if d = 14 then fieldOff s
  else if d = 15 then { s with fol := State.reset.fol }
  else s

/-- A domain is isolated and off: its fault pairs idle, its registers and memories gone (R500, R555, R577). -/
def domainOff (s : State) (d : Nat) : State :=
  if !pdOn s d then s
  else
    let s := pdDrop (domainLost (wrb (newInstant s) Reg.PWR_PD_STAT d false) d) d
    stwRaise (forAll ((List.range 512).filter (fun n => srcDomain n == some d)) s endCond)

/-- A domain is powered and released (R577). -/
def domainOn (s : State) (d : Nat) : State :=
  if pdOn s d then s
  else
    let s := stwRaise (wrb s Reg.PWR_PD_STAT d true)
    if d = 14 ∧ fullService s then wrb (loadField s s.stw.route) Reg.LF_CTL 16 true else s

/-- RESULT of an operation. -/
def pdResult (s : State) (r : Nat) : State := wrf s Reg.PWR_PD_STAT 24 4 r

/-- An OP for a domain in the mask of the MACHINE section needs the key in full service (R576). -/
def pdKeyed (s : State) (d op : Nat) : Bool :=
  fullService s && (op == 1 || op == 3) &&
    (match s.stw.machine with | some m => m.pdMask.getLsbD d | none => false)

/-- An operation of PWR_PD_REQ begins or is refused (R575, R576). -/
def pdBegin (s : State) (v : Word) : State :=
  let d := fld v 16 4
  let op := fld v 0 2
  if d < 2 ∨ op = 0 then pdResult s 3
  else if pdKeyed s d op ∧ fld v 24 8 ≠ 0x5A then pdResult s 2
  else
    let s := wrb (updPwr s (fun p => { p with op := some (d, op) })) Reg.PWR_PD_STAT 31 true
    if op = 2 then s else domainOff s d

/-- GO of PWR_PD_REQ: behind an operation that runs the new one runs next (R539, R576). -/
def pdRequest (s : State) (v : Word) : State :=
  if s.pwr.op.isSome then updPwr s (fun p => { p with next := some v }) else pdBegin s v

/-- The running operation is complete (R575, R577). -/
def pdSwitchDone (s : State) : State :=
  match s.pwr.op with
  | none => s
  | some (d, op) =>
    let s := if op = 1 then s else domainOn s d
    let s := wrb (pdResult (updPwr s (fun p => { p with op := none })) 1) Reg.PWR_PD_STAT 31 false
    match s.pwr.next with
    | some v => pdBegin (updPwr s (fun p => { p with next := none })) v
    | none => s

/-! ## Loading (R259, R271) -/

/-- Domains 2 to 9, 11, 12, 14 and 15, which a failed load leaves off (R271). -/
def dataDomains : List Nat := [2, 3, 4, 5, 6, 7, 8, 9, 11, 12, 14, 15]

/-- A load fails in stage 6 or 7: draft service goes on, or the data domains go off and the host is waited for (R271,
R278). -/
def loadFails (s : State) : State :=
  if draftService s then codexEnd (setStage s 5) 0x0B 0
  else setStage (wrf (codexEnd (forAll dataDomains s domainOff) 0x0B 0) Reg.STW_BOOT_STAT 24 4 0) 10

/-- Stage 6: the sections are written, and stage 7 follows; or stage 6 or 7 fails (R259, R271). -/
def loading (s : State) (ok : Bool) : State :=
  let st := stage s
  if !codexBusy s then s
  else if !ok then when (decide (5 ≤ st ∧ st ≤ 7)) s loadFails
  else if st = 5 ∨ st = 6 then
    match checkImage s s.stw.image with
    | (0, _, some g) =>
      let s := loadSections (setStage s 6) g
      let s := forAll (g.all 11) s (fun s x => camArm s (Fin.ofNat 64 x.inst))
      sendTables (setStage s 7)
    | _ => s
  else s

/-! ## The output balls (R528, R561, R577, R586; log entry 130) -/

/-- What an output ball shows. -/
inductive Ball where
  | z
  | driven (high : Bool)
deriving DecidableEq, Repr

/-- A reset is asserted: every output ball but SOn and XS_RESET_N is at high impedance (R586). -/
def inReset (s : State) : Bool := s.pwr.por || s.pwr.nReset

/-- SOn: driven low is off (R586). -/
def ballSo (s : State) (o : Fin 8) : Ball := .driven (s.pins.so.getLsbD o)

/-- TPn and LFn_CK: at high impedance while PD14 is off (R577, R586). -/
def ballField (s : State) (level : Bool) : Ball := if inReset s || !pdOn s 14 then .z else .driven level
def ballTp (s : State) (n : Fin 16) : Ball := ballField s (s.pins.tp.getLsbD n)
def ballLfCk (s : State) (n : Fin 8) : Ball := ballField s (s.pins.lfCk.getLsbD n)

/-- XS_RESET_N: low in a reset, released at the start of stage 2 (R586). -/
def ballXsResetN (s : State) : Ball := .driven (!inReset s && decide (2 ≤ stage s))

/-- LB_IRQ_N: open-drain (R551, R586). -/
def ballLbIrqN (s : State) : Ball := if inReset s || lbIrqN s then .z else .driven false

/-! ## Meanings -/

/-- LOADING (R271). -/
def execLoading (ok : Bool) (s : State) : Host.Outcome State Fault Refusal := .next (loading s ok)
/-- POWER_ON_RESET (R562). -/
def execPowerOnReset (vioInRange : Bool) (s : State) : Host.Outcome State Fault Refusal := .next (powerOnReset s vioInRange)
/-- POR_RELEASE (R562). -/
def execPorRelease (testEn bootHost : Bool) (s : State) : Host.Outcome State Fault Refusal :=
  .next (porRelease s testEn bootHost)
/-- NRST_PRESS (R567). -/
def execNrstPress (s : State) : Host.Outcome State Fault Refusal := .next (nrstPress s)
/-- NRST_RESET_END (R567). -/
def execNrstResetEnd (testEn bootHost : Bool) (s : State) : Host.Outcome State Fault Refusal :=
  .next (nrstResetEnd s testEn bootHost)
/-- NRST_ARMED (R567). -/
def execNrstArmed (s : State) : Host.Outcome State Fault Refusal := .next (nrstArmed s)
/-- NRST_STUCK (R568). -/
def execNrstStuck (s : State) : Host.Outcome State Fault Refusal := .next (nrstStuck s)
/-- PE_PERST_N (R587). -/
def execPePerstN (level : Bool) (s : State) : Host.Outcome State Fault Refusal := .next (pePerst s level)
/-- FUNCTION_LEVEL_RESET (R527). -/
def execFunctionLevelReset (s : State) : Host.Outcome State Fault Refusal := .next (pcieReset s)
/-- BROWN_OUT_WARNING_RISE (R564). -/
def execBrownOutWarningRise (s : State) : Host.Outcome State Fault Refusal := .next (bowRise s)
/-- BROWN_OUT_WARNING_FALL (R564). -/
def execBrownOutWarningFall (s : State) : Host.Outcome State Fault Refusal := .next (bowFall s)
/-- REFCLK_LOST (R572). -/
def execRefclkLost (s : State) : Host.Outcome State Fault Refusal := .next (pwrCond s 6 0x133 true)
/-- REFCLK_RESTORED (R572). -/
def execRefclkRestored (s : State) : Host.Outcome State Fault Refusal := .next (pwrCond s 6 0x133 false)
/-- SDREF_LOST (R572). -/
def execSdrefLost (s : State) : Host.Outcome State Fault Refusal := .next (sdrefLost s)
/-- SDREF_RESTORED (R572). -/
def execSdrefRestored (s : State) : Host.Outcome State Fault Refusal := .next (pwrCond s 7 0x134 false)
/-- TEMP_HI (R573). -/
def execTempHi (above : Bool) (s : State) : Host.Outcome State Fault Refusal := .next (pwrCond s 5 0x132 above)
/-- VSAFE_OK_CHANGE (R574). -/
def execVsafeOkChange (ok : Bool) (s : State) : Host.Outcome State Fault Refusal := .next (wrb s Reg.PWR_STAT 8 ok)
/-- PWR_TEMP_UPDATE (R573). -/
def execPwrTempUpdate (quarterDeg : Half) (s : State) : Host.Outcome State Fault Refusal := .next (tempUpdate s quarterDeg)
/-- PWR_VCORE_SAMPLE (R579). -/
def execPwrVcoreSample (mv : Half) (s : State) : Host.Outcome State Fault Refusal := .next (vcoreSample s mv)
/-- PD_SWITCH_DONE (R575). -/
def execPdSwitchDone (s : State) : Host.Outcome State Fault Refusal := .next (pdSwitchDone s)

end Sys2Proof.Machine
end

