-- ==== Sys2Proof/Machine/Queues.lean ====
section
/-! DEFINITION. The command queues: taking an entry, repeats, hold-back and the opcodes (R545 to R549). -/

namespace Sys2Proof.Machine

/-- Entries of the ring of queue `q`. -/
def qSize (s : State) (q : Fin 8) : Nat := rdf s (Reg.HST_Q_CFG q) 0 8 + 1
def qTakeIdx (s : State) (q : Fin 8) : Nat := rdf s (Reg.HST_Q_RD q) 8 8

/-- An entry waits to be taken: the queue is enabled and TAKE has not reached WR (R545, R552). -/
def qWaits (s : State) (q : Fin 8) : Bool :=
  rdb s (Reg.HST_Q_CTL q) 0 && pdOn s 10 && qTakeIdx s q != rdf s (Reg.HST_Q_WR q) 0 8 % qSize s q

/-- TAKE moved on by one. -/
def qStep (s : State) (q : Fin 8) : State :=
  wrf s (Reg.HST_Q_RD q) 8 8 (if qTakeIdx s q + 1 < qSize s q then qTakeIdx s q + 1 else 0)

/-- A queue entry as it is taken: ring index, TAG, OP, words 1 to 8, and whether a reserved word or field outside them is
not 0 (R546). -/
structure TakenEntry where
  idx : Byte
  tag : Half
  op : Byte
  w : List Word
  spoilt : Bool
deriving DecidableEq, Repr

/-- The entry at ring index `i` of queue `q` in the Scriptorium (R546). -/
def entryAt (s : State) (q : Fin 8) (i : Nat) : TakenEntry :=
  let w := s.mem.readWords (entryAddr s q i) 16
  let w0 := w.headD 0
  { idx := BitVec.ofNat 8 i, tag := BitVec.ofNat 16 (fld w0 16 16), op := BitVec.ofNat 8 (fld w0 8 8), w := (w.drop 1).take 8
    spoilt := decide (fld w0 0 8 ≠ 0) || [9, 10, 11, 13, 14, 15].any (fun i => w.getD i 0 != 0) }

/-- The parameters of an opcode leave its reserved bits 0; words an opcode does not name are reserved (R547; log entry
66). -/
def paramsOk (op : Byte) (w : List Word) : Bool :=
  let rest := fun n => (w.drop n).all (· == 0)
  let w1 := w.headD 0
  match op.toNat with
  | 0 => rest 0
  | 1 => true
  | 2 => decide (w1 &&& 0xFFFFFE00#32 = 0) && rest 2
  | 3 => decide (w1 &&& 0xFFFFFCE0#32 = 0) && rest 1
  | 4 => decide (w1 &&& 0xFFFFFFF8#32 = 0) && rest 1
  | _ => false

/-- The result a queue gives an entry itself, if it gives one (R547). -/
def queueResult (s : State) (k : TakenEntry) : Option Nat :=
  if k.spoilt || !paramsOk k.op k.w then some 0xF0 else if fullService s then none else some 0xF1

/-- A request comes from queue `q`. -/
def fromQueue (q : Fin 8) : ReqSrc → Bool
  | .queue k _ => k == q
  | .software => false

/-- A Ductus record comes from queue `q`. -/
def recFrom (q : Fin 8) (r : DctRec) : Bool :=
  match r.src with
  | .queue k _ => k == q
  | _ => false

/-- The entry's target cannot take it yet (R549). -/
def heldBack (s : State) (q : Fin 8) (k : TakenEntry) : Bool :=
  let w1 := k.w.headD 0
  match k.op.toNat with
  | 1 =>
    let n := slotOf s (Fin.ofNat 256 (fld w1 16 8))
    n.waiting.any (recFrom q) || n.held.any (recFrom q)
  | 2 => s.loads.any (fun l => l.accepted && l.axis.val == fld w1 0 8 && l.bank == bit w1 8)
  | 3 => (fins 32).any (fun g => match s.grp[g].swap with | some r => fromQueue q r.src | none => false)
  | 4 => match s.pln.sw with | some r => fromQueue q r.src && r.taken.isNone | none => false
  | _ => false

/-- An accepted entry passed to its target (R547). -/
def passEntry (s : State) (q : Fin 8) (k : TakenEntry) : State :=
  let w := fun i => k.w.getD i 0
  match k.op.toNat with
  | 1 => queueRecord s q k.tag (w 0) ⟨w 1, w 2, w 3, w 4, w 5, w 6, w 7⟩
  | 2 =>
    let n : Fin 256 := Fin.ofNat 256 (fld (w 0) 0 8)
    if s.axcfg[n].used && !s.axcfg[n].virt then loadRequest s n (bit (w 0) 8) (w 1) (.queue q k.tag)
    else ackTag s q k.tag 7
  | 3 => bankRequest s (Fin.ofNat 32 (fld (w 0) 0 5)) (bit (w 0) 8) (bit (w 0) 9) (.queue q k.tag)
  | 4 => switchRequest s (Fin.ofNat 8 (fld (w 0) 0 3)) (.queue q k.tag)
  | _ => ackTag s q k.tag 1

/-- An entry accepted: its TAG and OP are kept with the last 256 (R548). -/
def acceptEntry (s : State) (q : Fin 8) (k : TakenEntry) : State :=
  updQueue s q (fun h => { h with
    tags := ({ tag := k.tag, op := k.op, result := none, idx := k.idx, repeats := [] } :: h.tags).take 256 })

/-- A repeat of an accepted entry: acknowledged with the stored result, or when that result is known (R548). -/
def repeatEntry (s : State) (q : Fin 8) (k : TakenEntry) (t : TagRec) : State :=
  let mis := t.op != k.op
  match t.result with
  | some r => ackEntry s q k.idx (ackWord k.tag r true mis)
  | none => updQueue s q (fun h => { h with tags := h.tags.map (fun u =>
      if u.tag == k.tag then { u with repeats := u.repeats ++ [(k.idx, mis)] } else u) })

/-- An entry taken, unless it is held back (R547 to R549). -/
def takeEntry (s : State) (q : Fin 8) (k : TakenEntry) : State :=
  match s.hst.queue[q].tags.find? (fun t => t.tag == k.tag) with
  | some t => repeatEntry (qStep s q) q k t
  | none =>
    match queueResult s k with
    | some r => ackTag (acceptEntry (qStep s q) q k) q k.tag r
    | none => if heldBack s q k then s else passEntry (acceptEntry (qStep s q) q k) q k

/-- The next entry of queue `q` is taken (R549). -/
def queueTake (s : State) (q : Fin 8) : State := if qWaits s q then takeEntry s q (entryAt s q (qTakeIdx s q)) else s

/-- An entry as a row of the table spells it, taken where it is the next of its queue (R545). -/
def entryTake (s : State) (q : Fin 8) (k : TakenEntry) : State :=
  if qWaits s q && k.idx.toNat == qTakeIdx s q then takeEntry s q k else s

/-- RESET of a queue: refused with ERR while it is enabled (R548, R552). -/
def queueReset (s : State) (q : Fin 8) (en : Bool) : State :=
  if en then wrb s (Reg.HST_Q_RD q) 31 true
  else
    let s := wrf (wrf s (Reg.HST_Q_WR q) 0 8 0) (Reg.HST_Q_RD q) 0 16 0
    updQueue s q (fun _ => { tags := [], acked := [] })

/-- The entry of a row of the table that names its opcode. -/
def rowEntry (op : Byte) (en : QEntry) : TakenEntry :=
  { idx := en.idx, tag := en.tag, op := op, w := [en.p1, en.p2, en.p3, en.p4, en.p5, en.p6, en.p7, en.p8], spoilt := false }

/-! ## Meanings -/

/-- QUEUE_ENTRY_TAKE (R545, R548, R549). -/
def execQueueEntryTake (q : Fin 8) (s : State) : Host.Outcome State Fault Refusal := .next (queueTake s q)

/-- NOP (R547). -/
def execNop (q : Fin 8) (en : QEntry) (s : State) : Host.Outcome State Fault Refusal := .next (entryTake s q (rowEntry 0 en))

/-- DUCTUS (R547). -/
def execDuctus (q : Fin 8) (en : QEntry) (s : State) : Host.Outcome State Fault Refusal := .next (entryTake s q (rowEntry 1 en))

/-- BANK_LOAD (R144, R547). -/
def execBankLoad (q : Fin 8) (en : QEntry) (s : State) : Host.Outcome State Fault Refusal := .next (entryTake s q (rowEntry 2 en))

/-- BANK_SWAP (R146, R547). -/
def execBankSwap (q : Fin 8) (en : QEntry) (s : State) : Host.Outcome State Fault Refusal := .next (entryTake s q (rowEntry 3 en))

/-- SWITCH (R340, R547). -/
def execSwitch (q : Fin 8) (en : QEntry) (s : State) : Host.Outcome State Fault Refusal := .next (entryTake s q (rowEntry 4 en))

end Sys2Proof.Machine
end

