-- ==== Sys2Proof/Machine/ServiceBus.lean ====
section
/-! DEFINITION. The CAN FD service bus (R440 to R460). The rules of ISO 11898-1:2015 that R440 and R453 name are taken
from that standard (log entry 34). -/

namespace Sys2Proof.Machine

def updSb (s : State) (k : Fin 4) (f : SbCt → SbCt) : State := { s with sb := s.sb.upd k f }

def sbMode (s : State) (k : Fin 4) : Nat := rdf s (Reg.SB_CTL k) 0 3
def sbBusOff (s : State) (k : Fin 4) : Bool := rdb s (Reg.SB_STAT k) 26
def sbLevel (s : State) (k : Fin 4) : Nat := rdf s (Reg.SB_TXS k) 16 6
def sbUrg (s : State) (k : Fin 4) : Bool := rdb s (Reg.SB_TXS k) 23
/-- BUS_ACT (R460). -/
def sbAct (s : State) (k : Fin 4) (v : Nat) : State := wrf s (Reg.SB_STAT k) 0 2 v
def sbCfgErr (s : State) (k : Fin 4) : State := wrb s (Reg.SB_STAT k) 31 true

/-! ## Frame buffers (R446, R447) -/

/-- Window address of the message RAM. -/
def sbRam (k : Fin 4) : Nat := 0x200000 + 0x2000 * k.val
def sbFifo (k : Fin 4) (i : Nat) : Nat := sbRam k + i % 32 * 96
def sbUrgent (k : Fin 4) : Nat := sbRam k + 0xC00
def sbRx (k : Fin 4) (m : Fin 16) (b : Bool) : Nat := sbRam k + 0xC80 + (2 * m.val + b.toNat) * 0x60

/-- A word of a buffer. -/
def sbWord (s : State) (a i : Nat) : Word := s.wmem.read32 (a + 4 * i)

/-- A buffer that may be committed (R447). -/
def sbBufferOk (s : State) (k : Fin 4) (a : Nat) : Bool :=
  let w0 := sbWord s a 0
  let w1 := sbWord s a 1
  let fdf := bit w0 29
  !(fdf && bit w0 30) && !(bit w1 31 && !fdf) && !(fdf && !rdb s (Reg.SB_CTL k) 5)
    && decide (w1 &&& 0x7FFFFFF0#32 = 0) && [2, 3, 4, 21, 22, 23].all (fun i => sbWord s a i == 0)
    && sbMode s k != 3

/-- Data bytes of a DLC (R446). -/
def sbDataLen (fdf : Bool) (dlc : Nat) : Nat :=
  if dlc ≤ 8 then dlc
  else if !fdf then 8
  else [12, 16, 20, 24, 32, 48, 64].getD (dlc - 9) 64

/-! ## Modes and timing (R442 to R444) -/

/-- Protocol clocks of a nominal and of a data bit (R443). -/
def nominalClocks (s : State) (k : Fin 4) : Nat :=
  let w := rd s (Reg.SB_NBT k)
  (fld w 24 8 + 1) * (1 + (fld w 8 8 + 1) + (fld w 16 7 + 1))
def dataClocks (s : State) (k : Fin 4) : Nat :=
  let w := rd s (Reg.SB_DBT k)
  (fld w 19 5 + 1) * (1 + (fld w 14 5 + 1) + (fld w 10 4 + 1))

/-- The timing that a write leaving initialisation needs, with the fields it carries (R443). -/
def sbTimingOk (s : State) (k : Fin 4) (v : Word) : Bool :=
  let n := rd s (Reg.SB_NBT k)
  let d := rd s (Reg.SB_DBT k)
  decide (1 ≤ fld n 8 8) && decide (1 ≤ fld n 16 7) && decide (fld n 0 7 ≤ fld n 16 7)
    && decide (fld d 6 4 ≤ fld d 10 4)
    && decide (80 ≤ nominalClocks s k) && decide (nominalClocks s k ≤ 8000)
    && (!(bit v 5 && bit v 6) || (decide (dataClocks s k ≤ nominalClocks s k) && decide (16 ≤ dataClocks s k)))

/-- TS_IGN follows TRIPLE and the nominal rate (R444). -/
def sbShowTriple (s : State) (k : Fin 4) : State :=
  wrb s (Reg.SB_STAT k) 29 (rdb s (Reg.SB_CTL k) 4 && decide (nominalClocks s k < 320))

/-- Initialisation begins: nothing is offered (R442). -/
def sbToInit (s : State) (k : Fin 4) : State :=
  sbAct (wrf (updSb s k (fun c => { c with offer := none, won := false, cancel := false, initPend := false }))
    (Reg.SB_CTL k) 0 3 0) k 0

/-- A change of MODE. A write of the present mode, as an alias write of another bit makes it, leaves a change to
initialisation that waits (R442, R538; log entry 35). -/
def sbSetMode (s : State) (k : Fin 4) (m : Nat) : State :=
  let old := sbMode s k
  let busy := rdf s (Reg.SB_STAT k) 0 2 == 1 || rdf s (Reg.SB_STAT k) 0 2 == 2
  if m = 0 then
    if old = 0 then s
    else if busy then updSb s k (fun c => { c with initPend := true })
    else sbToInit s k
  else
    if m = old then s
    else
      let s := wrf (updSb s k (fun c => { c with initPend := false })) (Reg.SB_CTL k) 0 3 m
      if old = 0 then sbAct s k 3 else s

/-- Recovery starts (R455). -/
def sbRecover (s : State) (k : Fin 4) : State :=
  if sbBusOff s k ∧ !s.sb[k].recovering then
    wrf (updSb s k (fun c => { c with recovering := true, seqTick := s.tick })) (Reg.SB_STAT k) 16 8 0
  else s

/-- A Baseline tick of a recovery: once 11 nominal bits have passed since the last sequence, another may have been seen,
which a free value tells; RECOV_CNT counts it (R455; log entry 119). -/
def sbSequence (s : State) (k : Fin 4) : State :=
  let n := rdf s (Reg.SB_STAT k) 16 8
  if s.sb[k].recovering ∧ n < 127 ∧ 11 * nominalClocks s k * 25 ≤ 2 * (s.tick - s.sb[k].seqTick) then
    let t := takeNat s
    if t.1 % 2 = 1 then
      wrf (updSb t.2 k (fun c => { c with seqTick := s.tick })) (Reg.SB_STAT k) 16 8 (n + 1)
    else t.2
  else s

/-- A write of SB_CTL (R442, R443, R455): in another mode than initialisation it changes MODE and RECOVER only, and a
change of another field sets CFG_ERR (log entry 35). -/
def sbCtlWrite (s : State) (k : Fin 4) (v : Word) : State :=
  let old := rd s (Reg.SB_CTL k)
  let m := fld v 0 3
  let s :=
    if 5 ≤ m then sbCfgErr s k
    else if fld old 0 3 = 0 then
      if m ≠ 0 ∧ !sbTimingOk s k v then sbCfgErr s k
      else
        let s := sbSetMode (sbShowTriple (wr s (Reg.SB_CTL k) (put (v &&& 0x1F0#32) 0 3 0)) k) k m
        if bit v 8 then sbRecover s k else s
    else
      let s := if (v &&& 0x1F0#32) ≠ (old &&& 0x1F0#32) then sbCfgErr s k else s
      sbSetMode s k m
  if bit v 9 then sbRecover s k else s

/-- A write of SB_NBT or SB_DBT; their reserved bits keep their value (R442, R460; log entry 121). -/
def sbTimingWrite (s : State) (k : Fin 4) (a : Nat) (v : Word) : State :=
  let mask : Word := if a % 16 = 4 then 0xFF7FFF7F#32 else 0xFFFFFFC0#32
  if sbMode s k = 0 then sbShowTriple (wr s a ((rd s a &&& ~~~mask) ||| (v &&& mask))) k else sbCfgErr s k

/-- The end of a frame on the bus: a change to initialisation that waits takes effect (R442). -/
def sbFrameEnd (s : State) (k : Fin 4) : State :=
  let s := sbAct s k 0
  if s.sb[k].initPend then sbToInit s k else s

/-! ## Transmission (R448 to R452) -/

/-- PUSH (R447, R448). -/
def sbPush (s : State) (k : Fin 4) : State :=
  let put := rdf s (Reg.SB_TXS k) 0 5
  if 32 ≤ sbLevel s k then wrb s (Reg.SB_TXS k) 22 true
  else if !sbBufferOk s k (sbFifo k put) then wrb s (Reg.SB_STAT k) 30 true
  else wrf (wrf s (Reg.SB_TXS k) 0 5 (put + 1)) (Reg.SB_TXS k) 16 6 (sbLevel s k + 1)

/-- URG_REQ (R447, R450). -/
def sbUrgReq (s : State) (k : Fin 4) : State :=
  if sbUrg s k || !sbBufferOk s k (sbUrgent k) then wrb s (Reg.SB_STAT k) 30 true
  else wrb s (Reg.SB_TXS k) 23 true

/-- The head or the urgent frame is removed with its result (R451, R452). -/
def sbRemove (s : State) (k : Fin 4) (urg : Bool) (res : Nat) : State :=
  if urg then wrb (wrf s (Reg.SB_TXS k) 24 4 res) (Reg.SB_TXS k) 23 false
  else
    let s := wrf (wrf s (Reg.SB_TXS k) 28 4 res) (Reg.SB_TXS k) 8 5 (rdf s (Reg.SB_TXS k) 8 5 + 1)
    wrf s (Reg.SB_TXS k) 16 6 (sbLevel s k - 1)

/-- The offered frame is no longer offered. -/
def sbWithdraw (s : State) (k : Fin 4) : State :=
  updSb s k (fun c => { c with offer := none, won := false, cancel := false })

/-- A cancel of the urgent buffer or of the FIFO head (R452). -/
def sbCancel (s : State) (k : Fin 4) (urg : Bool) : State :=
  let present := if urg then sbUrg s k else decide (sbLevel s k ≠ 0)
  if !present then s
  else if s.sb[k].offer = some urg ∧ !sbBusOff s k then updSb s k (fun c => { c with cancel := true })
  else sbRemove s k urg 2

/-- FLUSH: the entries behind the head are removed at once as cancelled, and the head by its state (R452). -/
def sbFlush (s : State) (k : Fin 4) : State :=
  if sbLevel s k = 0 then s
  else
    let s := when (decide (1 < sbLevel s k)) s (fun s => wrf s (Reg.SB_TXS k) 28 4 2)
    let s := wrf s (Reg.SB_TXS k) 16 6 1
    let s := wrf s (Reg.SB_TXS k) 0 5 (rdf s (Reg.SB_TXS k) 8 5 + 1)
    sbCancel s k false

/-- A write of SB_TXC: its bits act from the lowest up. -/
def sbTxcWrite (s : State) (k : Fin 4) (v : Word) : State :=
  let s := when (bit v 0) s (fun s => sbPush s k)
  let s := when (bit v 1) s (fun s => sbUrgReq s k)
  let s := when (bit v 2) s (fun s => sbCancel s k false)
  let s := when (bit v 3) s (fun s => sbCancel s k true)
  when (bit v 4) s (fun s => sbFlush s k)

/-- The controller takes part in the bus and may send: normal or loopback mode, not bus-off (R442; log entry 34). -/
def sbMaySend (s : State) (k : Fin 4) : Bool :=
  pdOn s 14 && (sbMode s k == 1 || sbMode s k == 4) && !sbBusOff s k

/-- An arbitration opportunity (R449). -/
def sbOffer (s : State) (k : Fin 4) : State :=
  if !pdOn s 14 ∨ sbMode s k = 0 ∨ s.sb[k].offer.isSome then s
  else if sbMaySend s k && (sbUrg s k || decide (sbLevel s k ≠ 0)) then
    sbAct (updSb s k (fun c => { c with offer := some (sbUrg s k), won := false, cancel := false })) k 2
  else sbAct s k 0

/-- The offered frame loses arbitration (R449, R452). -/
def sbLost (s : State) (k : Fin 4) : State :=
  match s.sb[k].offer with
  | none => s
  | some urg =>
    if s.sb[k].won then s
    else
      let c := s.sb[k].cancel
      let s := incf (sbWithdraw s k) (Reg.SB_TXCNT k) 0 16
      sbAct (when c s (fun s => sbRemove s k urg 2)) k 1

/-- The offered frame wins arbitration; one that a cancel waits for is removed and not sent (R452). -/
def sbWon (s : State) (k : Fin 4) : State :=
  match s.sb[k].offer with
  | none => s
  | some urg =>
    if s.sb[k].won then s
    else if s.sb[k].cancel then sbFrameEnd (sbRemove (sbWithdraw s k) k urg 2) k
    else updSb s k (fun c => { c with won := true })

/-! ## Error counters (R453 to R455) -/

def sbTec (s : State) (k : Fin 4) : Nat := rdf s (Reg.SB_ERR k) 0 9
def sbRec (s : State) (k : Fin 4) : Nat := rdf s (Reg.SB_ERR k) 16 8

/-- Both counters shown, with RP, EWARN, EPASS and BUSOFF, their events and their Margin sources (R453, R454). -/
def sbCounters (s : State) (k : Fin 4) (tec rec : Nat) : State :=
  let tec := min 256 tec
  let rec' := min 255 rec
  let off := decide (256 ≤ tec)
  let ep := !off && (decide (128 ≤ tec) || decide (128 ≤ rec'))
  let wasOff := sbBusOff s k
  let wasEp := rdb s (Reg.SB_STAT k) 25
  let s := wr s (Reg.SB_ERR k) (BitVec.ofNat 32 ((decide (128 ≤ rec')).toNat * 2 ^ 24 + rec' * 2 ^ 16 + tec))
  let s := wrb (wrb (wrb s (Reg.SB_STAT k) 24 (decide (96 ≤ tec ∨ 96 ≤ rec'))) (Reg.SB_STAT k) 25 ep) (Reg.SB_STAT k) 26 off
  let s := when (ep && !wasEp) s (fun s => wrb s (Reg.SB_STAT k) 27 true)
  let s := setCond s (0x108 + 2 * k) ep 0
  let s := if off && !wasOff then
      let s := sbWithdraw (wrb s (Reg.SB_STAT k) 28 true) k
      if rdb s (Reg.SB_CTL k) 8 then sbRecover s k else s
    else s
  setCond s (0x109 + 2 * k) off 0

/-- Code of an error in ERR_LAST and ERR_DATA (R460). -/
def sbErrCode : CanError → Nat
  | .bitDominant => 1 | .bitRecessive => 2 | .stuff => 3 | .crc => 4 | .form => 5 | .ack => 6
  | .flagBit => 2 | .dominantRun => 0

/-- What an error adds to REC of a receiver: 1, and 8 more where a dominant bit follows its error flag; 8 for a bit error in
its own flag and for each further run of eight dominant bits (R453; log entry 34). -/
def sbRecAdd (err : CanError) (primary : Bool) : Nat :=
  match err with
  | .flagBit | .dominantRun => 8
  | _ => if primary then 9 else 1

/-- A bus error (R449, R452, R453). A transmitter adds 8 to TEC, except for an acknowledgement error while error passive
and for a stuff error before arbitration is won; a receiver adds `sbRecAdd` to REC; restricted operation leaves both (log
entry 34). A run of dominant bits after a flag is no error of its own. -/
def sbError (s : State) (k : Fin 4) (err : CanError) (dataPhase transmitter primary : Bool) : State :=
  if !pdOn s 14 ∨ sbMode s k = 0 ∨ sbBusOff s k then s
  else
    let s := when (err != .dominantRun) s (fun s => wrf s (Reg.SB_STAT k) (if dataPhase then 8 else 12) 4 (sbErrCode err))
    let c := s.sb[k]
    let spared := (err == .ack && rdb s (Reg.SB_STAT k) 25) || (err == .stuff && !c.won)
    let s := match c.offer with
      | some urg => if transmitter then
          let s := sbWithdraw s k
          if c.cancel then sbRemove s k urg 2 else s
        else s
      | none => s
    let s :=
      if sbMode s k = 2 then s
      else if transmitter then (if spared then s else sbCounters s k (sbTec s k + 8) (sbRec s k))
      else sbCounters s k (sbTec s k) (sbRec s k + sbRecAdd err primary)
    sbFrameEnd s k

/-- Recovery ends after 128 sequences (R455). -/
def sbRecoveryEnd (s : State) (k : Fin 4) : State :=
  if sbBusOff s k ∧ s.sb[k].recovering then
    let s := wrf (updSb s k (fun c => { c with recovering := false })) (Reg.SB_STAT k) 16 8 128
    sbAct (sbCounters s k 0 0) k 0
  else s

/-! ## Reception (R456 to R458) -/

/-- Mailbox `m` takes the frame (R456). -/
def sbMatches (s : State) (k : Fin 4) (ide : Bool) (id : Nat) (m : Fin 16) : Bool :=
  let f := rd s (Reg.SB_MBF0 m + 0x100 * k.val)
  let mask := rd s (Reg.SB_MBM0 m + 0x100 * k.val)
  bit f 31 && bit f 30 == ide && decide (((BitVec.ofNat 32 id ^^^ f) &&& mask &&& 0x1FFFFFFF#32) = 0)

/-- FULL follows the buffers of mailbox `m`. -/
def sbShowFull (s : State) (k : Fin 4) (m : Fin 16) : State :=
  wrb s (Reg.SB_RXSTAT k) m (!s.sb[k].full[m].isEmpty)

def sbSetFull (s : State) (k : Fin 4) (m : Fin 16) (l : List Bool) : State :=
  sbShowFull (updSb s k (fun c => { c with full := c.full.put m l })) k m

/-- The buffer a frame goes into: an empty one, else the older that is not acquired (R457; the lower of two empty ones,
log entry 35), and whether a frame is lost. -/
def sbPlace (c : SbCt) (m : Fin 16) : Bool × Bool :=
  let l := c.full[m]
  let acq := fun b => decide (c.acq = some (m, b))
  if !l.contains false then (false, false)
  else if !l.contains true then (true, false)
  else ((l.filter (fun b => !acq b)).headD false, true)

/-- The active domain's time `n` protocol clocks of 12.5 ns ago (R446, R380). -/
def sofTime (s : State) (n : Word) : BTime :=
  let d : Int := n.toNat * 25 * (rd s (Reg.BSL_INC (domIdx (activeB s)))).toNat / 2
  (now s).shift (-d)

/-- A frame stored in mailbox `m`, with the time of its start-of-frame sample point (R446, R457; log entry 93). -/
def sbStore (s : State) (k : Fin 4) (m : Fin 16) (f : CanFrame) : State :=
  let p := sbPlace s.sb[k] m
  let a := sbRx k m p.1
  let tag := (sofTime s f.sof).words
  let w0 := BitVec.ofNat 32 (f.ide.toNat * 2 ^ 31 + f.rtr.toNat * 2 ^ 30 + f.fdf.toNat * 2 ^ 29 + f.id.toNat)
  let w1 := BitVec.ofNat 32 (f.brs.toNat * 2 ^ 31 + f.esi.toNat * 2 ^ 30 + f.dlc.toNat)
  let data := f.data.take (if f.rtr then 0 else sbDataLen f.fdf f.dlc.toNat)
  let mem := s.wmem.writeWords a [w0, w1, tag.1, tag.2.1, tag.2.2]
  let s := { s with wmem := (mem.writeBytes (a + 20) data).writeWords (a + 84) [0, 0, 0] }
  let s := when p.2 s (fun s => incf s (Reg.SB_RXCNT k) 8 8)
  let s := sbSetFull s k m ((s.sb[k].full[m].filter (· ≠ p.1)) ++ [p.1])
  let s := incf s (Reg.SB_RXCNT k) 16 16
  when (rdb s (Reg.SB_MBF0 m + 0x100 * k.val) 29) s (fun s => raiseEvent s (0x20 + k.val))

/-- An accepted frame goes to the first mailbox that takes it (R456). -/
def sbAccept (s : State) (k : Fin 4) (f : CanFrame) : State :=
  match (fins 16).find? (sbMatches s k f.ide f.id.toNat) with
  | some m => sbStore s k m f
  | none => incf s (Reg.SB_RXCNT k) 0 8

/-- A protocol exception event: the controller drops the frame and integrates to the bus again (R440; log entry 34). -/
def sbException (s : State) (k : Fin 4) : State :=
  let s := sbFrameEnd s k
  if sbMode s k = 0 then s else sbAct s k 3

/-- The frame meets a recessive bit that the controller does not take: res of a CAN FD frame, or FDF without FD_EN (R440;
log entry 34). -/
def sbForeign (s : State) (k : Fin 4) (f : CanFrame) : Bool := f.fdf && (f.res || !rdb s (Reg.SB_CTL k) 5)

/-- A frame received without error: REC falls, to a value from 119 to 127 that the standard leaves open where it was
above 127 (log entries 2 and 34). A frame that the controller does not take is a protocol exception event with PEX_EN 1, and
else a form error (R440). -/
def sbReceived (s : State) (k : Fin 4) (f : CanFrame) : State :=
  let m := sbMode s k
  if !pdOn s 14 ∨ m = 0 ∨ m = 4 ∨ sbBusOff s k then s
  else if sbForeign s k f then
    if rdb s (Reg.SB_CTL k) 7 then sbException s k else sbError s k .form false false false
  else
    let s := sbAccept s k f
    let s :=
      if m = 2 then s
      else if 127 < sbRec s k then
        let t := takeNat s
        sbCounters t.2 k (sbTec t.2 k) (119 + t.1 % 9)
      else sbCounters s k (sbTec s k) (sbRec s k - 1)
    sbFrameEnd s k

/-- The frame that a buffer of controller `k` holds, as it is sent and stored in loopback: a base identifier has bits
[28:18] alone, and ESI of a CAN FD frame tells error passive (R440, R446, R456; log entry 34). -/
def sbFrameAt (s : State) (k : Fin 4) (a : Nat) (sof : Word) : CanFrame :=
  let w0 := sbWord s a 0
  let w1 := sbWord s a 1
  let fdf := bit w0 29
  let dlc := fld w1 0 4
  { ide := bit w0 31, rtr := bit w0 30, fdf
    id := if bit w0 31 then w0.setWidth 29 else w0.setWidth 29 &&& 0x1FFC0000#29, brs := bit w1 31, esi := fdf && rdb s (Reg.SB_STAT k) 25
    dlc := BitVec.ofNat 4 dlc, data := s.wmem.readBytes (a + 20) (sbDataLen fdf dlc)
    res := false, sof }

/-- The frame being sent ends without error (R451, R452, R456). -/
def sbSent (s : State) (k : Fin 4) (sof : Word) : State :=
  match s.sb[k].offer with
  | none => s
  | some urg =>
    if !s.sb[k].won then s
    else
      let res := if s.sb[k].cancel then 3 else 1
      let f := sbFrameAt s k (if urg then sbUrgent k else sbFifo k (rdf s (Reg.SB_TXS k) 8 5)) sof
      let s := sbRemove (sbWithdraw s k) k urg res
      let s := incf s (Reg.SB_TXCNT k) 16 16
      let s := when (sbMode s k == 4) s (fun s => sbAccept s k f)
      sbFrameEnd (sbCounters s k (sbTec s k - 1) (sbRec s k)) k

/-- A write of SB_RXACQ (R458). -/
def sbAcquire (s : State) (k : Fin 4) (v : Word) : State :=
  if s.sb[k].acq.isSome then wrb s (Reg.SB_RXSTAT k) 31 true
  else
    let m : Fin 16 := Fin.ofNat 16 (fld v 0 4)
    let s := wrf s (Reg.SB_RXACQ k) 0 4 m
    match s.sb[k].full[m] with
    | [] => wrb s (Reg.SB_RXACQ k) 31 false
    | b :: _ =>
      let s := updSb s k (fun c => { c with acq := some (m, b) })
      wrb (wrb s (Reg.SB_RXACQ k) 8 b) (Reg.SB_RXACQ k) 31 true

/-- A write of 1 to REL (R458). -/
def sbRelease (s : State) (k : Fin 4) : State :=
  match s.sb[k].acq with
  | none => s
  | some (m, b) =>
    let s := updSb s k (fun c => { c with acq := none })
    wrb (sbSetFull s k m (s.sb[k].full[m].filter (· ≠ b))) (Reg.SB_RXACQ k) 31 false

/-! ## Meanings -/

/-- RECOVERY_END (R455). -/
def execRecoveryEnd (k : Fin 4) (s : State) : Host.Outcome State Fault Refusal := .next (sbRecoveryEnd (newInstant s) k)
/-- FRAME_SENT, with the protocol clocks since its start of frame (R446, R451). -/
def execFrameSent (f : SentFrame) (s : State) : Host.Outcome State Fault Refusal :=
  .next (sbSent (newInstant s) f.ctrl f.sof)
/-- ARBITRATION_LOST (R449, R452). -/
def execArbitrationLost (k : Fin 4) (s : State) : Host.Outcome State Fault Refusal := .next (sbLost s k)
/-- BUS_ERROR (R453, R454). -/
def execBusError (k : Fin 4) (err : CanError) (dataPhase transmitter primary : Bool) (s : State) :
    Host.Outcome State Fault Refusal := .next (sbError (newInstant s) k err dataPhase transmitter primary)
/-- FRAME_RECEIVED (R456, R457). -/
def execFrameReceived (k : Fin 4) (f : CanFrame) (s : State) : Host.Outcome State Fault Refusal := .next (sbReceived (newInstant s) k f)
/-- ARBITRATION_OPPORTUNITY (R449). -/
def execArbitrationOpportunity (k : Fin 4) (s : State) : Host.Outcome State Fault Refusal := .next (sbOffer s k)
/-- ARBITRATION_WON (R452). -/
def execArbitrationWon (k : Fin 4) (s : State) : Host.Outcome State Fault Refusal := .next (sbWon s k)

end Sys2Proof.Machine
end

