-- ==== Sys2Proof/Machine/Regs.lean ====
section
/-! DEFINITION. What a read and a write of one register do: access types, locks, and the actions of the fields
(R9, R535, R536, R539; the register tables of the chapters). -/

namespace Sys2Proof.Machine

/-! ## Access errors (R534, R536, R552) -/

/-- An access error recorded in HST_ACCERR, unless one stands there (R534). -/
def accRecord (s : State) (m : Master) (write : Bool) (reason a : Nat) : State :=
  if rdb s Reg.HST_ACCERR 31 then s
  else
    let s := wr s Reg.HST_ACCERR (BitVec.ofNat 32 (2 ^ 31 + write.toNat * 2 ^ 30 + reason * 2 ^ 27 + m.val * 2 ^ 22))
    hstIrq (wr s Reg.HST_ACCERR_ADDR (BitVec.ofNat 32 a)) 14

/-! ## Keys and masters -/

/-- The mailbox and window registers stand once for each master (R541, R543). -/
def isBanked (a : Nat) : Bool := decide (0x04800100 ≤ a ∧ a < 0x0480014C)

/-- The key of the register that master `m` reaches at address `a`. -/
def regKey (m : Master) (a : Nat) : Nat := if isBanked a then Reg.banked m a else a

/-- The number of register `a` in a bank. -/
def bankIdx (base stride a : Nat) : Nat := (a - base) / stride

/-- Master `m` is Scribe core `c` (R532). -/
def isCore (m : Master) (c : Nat) : Bool := decide (m.val = c + 2)

/-- The registers that the manual reserves to one master (R210, R245, R533, R545, R550, R552; log entry 56). -/
def reservedTo (s : State) (m : Master) (write : Bool) (a : Nat) : Bool :=
  if inBank 0x04004000 0x20 16 a then !write && !isCore m (bankIdx 0x04004000 0x20 a)
  else if inBank 0x04004008 0x20 16 a || inBank 0x04004010 0x20 16 a || inBank 0x04004014 0x20 16 a
      || inBank 0x04004018 0x20 16 a then write && !isCore m (bankIdx 0x04004000 0x20 a)
  else if inBank 0x04102000 4 128 a then write && !isCore m (bankIdx 0x04102000 0x20 a)
  else if a = Reg.HST_HDB then write && !decide (2 ≤ m.val ∧ m.val ≤ 17)
  else if inBank 0x04800204 0x10 8 a then
    write && !decide (m.val = rdf s (Reg.HST_Q_CFG (bankIdx 0x04800204 0x10 a)) 8 5)
  else false

/-! ## Reads (R535) -/

/-- What a register shows to a read: its W1P fields, and the password, read 0 (R493, R535). -/
def regShown (s : State) (r : RegRow) (key : Nat) : Word :=
  if inBank (Reg.WDN_PWD 0) 4 4 key then 0 else regView s key &&& ~~~r.w1p

/-- A read of the register at `a` by master `m`: its value, and what the read clears or does (R221, R535, R541). -/
def regRead (s : State) (m : Master) (a : Nat) : Word × State :=
  match regRow a with
  | none => (0, s)
  | some r =>
    if inBank 0x04004000 0x20 16 a then coreTake s (Fin.ofNat 16 (bankIdx 0x04004000 0x20 a))
    else if inBank 0x04800110 4 5 a then mbRead s m (bankIdx 0x04800110 4 a)
    else
      let k := regKey m a
      (regShown s r k, wr s k (rd s k &&& ~~~r.rc))

/-! ## Writes -/

/-- The lock of a row's RWL fields stands (R536). -/
def rowLocked (s : State) (r : RegRow) (key : Nat) : Bool :=
  decide (r.lockBit < 32) && rdb s (if r.lockReg = 0 then key else r.lockReg) r.lockBit

/-- The configuration registers of Folio, which a capture protects (R431). -/
def folConfig (a : Nat) : Bool := decide (0x04500004 ≤ a ∧ a ≤ 0x04500018) || decide (0x04500100 ≤ a ∧ a < 0x04500300)

/-- Bits of register `a` that a write of `w` does not store as it stands: fields whose write is an action of its own,
and fields that the state of the block protects (R50, R119, R213, R245, R246, R380, R431, R442, R458, R522, R545; log
entries 59 and 62). -/
def barMask (s : State) (m : Master) (a : Nat) (cur w : Word) : Word :=
  if inBank 0x010F0000 0x100000 16 a then 3#32
  else if inBank 0x010F0018 0x100000 16 a then
    (if s.eng[Fin.ofNat 16 (bankIdx 0x010F0018 0x100000 a)].mode = 3 then 0 else 0xFFF#32)
  else if inBank 0x020F0000 0x100000 16 a then 1#32
  else if inBank 0x04005000 0x10 32 a then 0xFFFFFFFF#32
  else if inBank 0x0410201C 0x20 16 a then 0xFFFFFFFF#32
  else if inBank 0x04300010 4 2 a then 0xFFFFFFFF#32
  else if a = Reg.BSL_STROKE_CFG then (if fld w 0 2 = 3 ∧ m ≠ 18 then 3#32 else 0)
  else if inBank 0x04400000 0x40 8 a then
    (if 5 ≤ fld w 0 3 then 7#32 else 0) ||| (if rdf s (a + 4) 0 24 = 0 then 0x20#32 &&& w else 0)
  else if inBank 0x04402000 0x10 16 a then (if bit w 31 && decide (fld w 29 2 = 0) then 0xFFFFFFFF#32 else 0)
  else if folConfig a then (if folRunning s then 0xFFFFFFFF#32 else 0)
  else if inBank 0x04600000 0x100 4 a || inBank 0x04600004 0x100 4 a || inBank 0x04600008 0x100 4 a
      || inBank 0x04600020 0x100 4 a then 0xFFFFFFFF#32
  else if a = Reg.MGN_INJ then (if bit cur 31 then 0 else 0xFFFFFFFF#32)
  else if inBank 0x04800200 0x10 8 a then
    (if rdb s (Reg.HST_Q_CTL (bankIdx 0x04800200 0x10 a)) 0 then 0xFFFFFFFF#32 else 0)
  else 0

/-- The bits of a row that a write stores: RW, and RWL while unlocked, but for those barred (R9, R536). -/
def storeMask (r : RegRow) (locked : Bool) (bar : Word) : Word := (r.rw ||| (if locked then 0 else r.rwl)) &&& ~~~bar

/-- The register after a write of `w`: stored bits, and lock bits set (R9). Reserved bits are in no mask: they keep their
value through a full write, as R537 has it for alias writes. What a full write that changes one does is not stated by R9:
DESIGN CHOICE (log entry 121). -/
def stored (r : RegRow) (mask cur w : Word) : Word := (cur &&& ~~~mask) ||| (w &&& mask) ||| (w &&& r.lk)

/-- A write of SC_CTL.RUN; the lasting fault of the core ends as a condition when its STATE leaves 3 (R246, R501). -/
def coreRun (s : State) (c : Fin 16) (run : Bool) : State :=
  let s := scSetRun (newInstant s) c run
  when (decide (rdf s (Reg.SC_STAT c) 28 4 ≠ 3)) s (fun s => endCond s (0xB0 + c.val))

/-- Actions of the engine and core registers (R118, R119, R246). -/
def actEngine (s : State) (a : Nat) (locked : Bool) (w p : Word) : State :=
  if inBank 0x010F0000 0x100000 16 a then
    let e : Fin 16 := Fin.ofNat 16 (bankIdx 0x010F0000 0x100000 a)
    let s := if locked then s else modeWrite s e (BitVec.ofNat 2 (fld w 0 2))
    when (bit p 4) s (fun s => debugStep s e)
  else if inBank 0x020F0000 0x100000 16 a then coreRun s (Fin.ofNat 16 (bankIdx 0x020F0000 0x100000 a)) (bit w 0)
  else s

/-- Actions of Inkwell's registers (R62, R146, R214 to R216, R223, R233). -/
def actInkwell (s : State) (a : Nat) (p : Word) : State :=
  if inBank 0x04001C00 4 256 a then taskConfigured s (Fin.ofNat 512 (bankIdx 0x04001800 4 a))
  else if inBank 0x04002400 4 256 a then taskConfigured s (Fin.ofNat 512 (bankIdx 0x04002000 4 a))
  else if inBank 0x04002C00 4 256 a then setFlags s (Fin.ofNat 512 (bankIdx 0x04002800 4 a)) p
  else if inBank 0x04004008 0x20 16 a then coreDone s (Fin.ofNat 16 (bankIdx 0x04004008 0x20 a)) p
  else if inBank 0x04005208 0x10 32 a then ligRun (newInstant s) (Fin.ofNat 64 (bankIdx 0x04005008 0x10 a))
  else if a = Reg.INK_SLACK_CTL then when (bit p 1) s slackClear
  else if inBank 0x04007000 4 32 a then
    let g : Fin 32 := Fin.ofNat 32 (bankIdx 0x04007000 4 a)
    when (bit p 0) s (fun s => bankRequest s g (rdb s a 4) (rdb s a 5) .software)
  else s

/-- Actions of Ductus' registers (R176, R179, R202). A write with ARM and DISARM both 1 arms first, and then disarms: DESIGN
CHOICE, as R210 does not say what it does (log entry 26). -/
def actDuctus (s : State) (a : Nat) (w p : Word) : State :=
  if inBank 0x0410201C 0x20 16 a then portWrite7 s (Fin.ofNat 16 (bankIdx 0x0410201C 0x20 a)) w
  else if inBank 0x04102400 4 64 a then
    let t : Fin 64 := Fin.ofNat 64 (bankIdx 0x04102400 4 a)
    when (bit p 14) (when (bit p 15) s (fun s => camArm s t)) (fun s => camDisarm s t)
  else s

/-- Actions of Plenil's registers (R330, R340, R351, R355, R376, R377). -/
def actPlenil (s : State) (a : Nat) (p : Word) : State :=
  if a = Reg.PLN_SW_CTL then
    when (bit p 8) s (fun s => switchRequest s (Fin.ofNat 8 (rdf s Reg.PLN_SW_CTL 0 3)) .software)
  else if a = Reg.PLN_NODE_CTL then
    let n : Fin 256 := Fin.ofNat 256 (rdf s Reg.PLN_NODE_CTL 0 8)
    when (bit p 8) (when (bit p 9) s (fun s => resumeNode s n)) (fun s => removeNode s n)
  else if inBank 0x04200244 0x10 4 a then ringsTake s
  else if a = Reg.PLN_CH_CTL then chCtlWrite s p
  else s

/-- Actions of Baseline's, the feedback and the pulse registers (R50, R380, R381, R393, R396, R417). -/
def actField (s : State) (m : Master) (a : Nat) (locked : Bool) (cur w p : Word) : State :=
  if inBank 0x04300010 4 2 a then setInc s (a == 0x04300014) w.toNat
  else if a = Reg.BSL_SET then when (bit p 0) s bslSet
  else if a = Reg.BSL_STROKE_CFG then
    if locked then s
    else if fld w 0 2 = 3 ∧ m ≠ 18 then
      when (decide (fld cur 0 2 ≠ 3)) s (fun s => accRecord s m true 5 a)
    else setPeriod s (fld w 0 2)
  else if inBank 0x04400000 0x40 8 a then
    let n : Fin 8 := Fin.ofNat 8 (bankIdx 0x04400000 0x40 a)
    when (lfMode s n != fld cur 0 3) s (fun s => lfEnable s n)
  else if a = Reg.LF_CTL then lfClear s p
  else if inBank 0x0440301C 0x20 16 a then
    let n : Fin 16 := Fin.ofNat 16 (bankIdx 0x0440301C 0x20 a)
    when (bit p 0) (when (bit p 2) s (fun s => tpStop s n)) (fun s => tpGo s n)
  else s

/-- Actions of Folio's registers (R431, R433, R436). -/
def actFolio (s : State) (a : Nat) (p : Word) : State :=
  if a = Reg.FOL_CTL then
    let s := when (bit p 1) s folStop
    let s := when (bit p 0) s folArm
    when (bit p 2) s folForce
  else if folConfig a then when (folRunning s) s (fun s => wrb s Reg.FOL_STAT 31 true)
  else s

/-- Actions of the service bus' registers (R442, R448 to R455, R458). -/
def actServiceBus (s : State) (a : Nat) (w p : Word) : State :=
  let k : Fin 4 := Fin.ofNat 4 (bankIdx 0x04600000 0x100 a)
  if inBank 0x04600000 0x100 4 a then sbCtlWrite s k (w ||| p)
  else if inBank 0x04600004 0x100 4 a || inBank 0x04600008 0x100 4 a then sbTimingWrite s k a w
  else if inBank 0x04600014 0x100 4 a then sbTxcWrite s k p
  else if inBank 0x04600020 0x100 4 a then sbAcquire s k w
  else if inBank 0x04600024 0x100 4 a then when (bit p 0) s (fun s => sbRelease s k)
  else s

/-- Actions of Margin's registers (R507, R513, R518, R522). -/
def actMargin (s : State) (a : Nat) (p : Word) : State :=
  if inBank 0x04700010 4 2 a then mgnAckWrite s (a == 0x04700014) p
  else if inBank 0x04700018 4 2 a then mgnClrWrite s (a == 0x0470001C) p
  else if a = Reg.MGN_FIRST then when (bit p 16) s (fun s => wrb s Reg.MGN_FIRST 31 false)
  else if a = Reg.MGN_INJ then when (bit p 12) s mgnInject
  else s

/-- A doorbell write: the cores rung, and event 0x07 once (R550). -/
def ringCores (s : State) (p : Word) : State :=
  let s := forAll ((fins 16).filter (fun (c : Fin 16) => bit p c.val)) (newInstant s) (fun s c => scIrq s c 4)
  when (decide (p ≠ 0)) s (fun s => raiseEvent s 0x07)

/-- Actions of the host interface's registers (R541, R545, R548, R550). -/
def actHost (s : State) (m : Master) (a : Nat) (cur w p : Word) : State :=
  if a = Reg.HST_DOORBELL then ringCores s p
  else if a = Reg.HST_HDB then
    when (decide (2 ≤ m.val) && bit p (m.val - 2)) s (fun s => hstIrq s (16 + (m.val - 2)))
  else if a = Reg.HST_MB_SEL then mbSelect s m (fld w 0 16)
  else if inBank 0x04800200 0x10 8 a then
    let q := bankIdx 0x04800200 0x10 a
    when (rdb s (Reg.HST_Q_CTL q) 0 && decide (w ≠ cur)) s (fun s => wrb s (Reg.HST_Q_RD q) 31 true)
  else if inBank 0x0480020C 0x10 8 a then
    when (bit p 1) s (fun s => queueReset s (Fin.ofNat 8 (bankIdx 0x0480020C 0x10 a)) (bit cur 0))
  else s

/-- Actions of the registers behind the windows (R256, R266, R267, R275, R493). -/
def actWindow (s : State) (m : Master) (a : Nat) (w p : Word) : State :=
  if a = Reg.STW_CODEX_CMD then codexCmd s (w ||| p)
  else if a = Reg.STW_DRAFT_JOG then draftJog s w
  else if a = Reg.WDN_CMD then when (bit p 8) s (fun s => wdnGo s m w)
  else s

/-- What the write of a register does beyond storing its bits; `cur` is its value before, `w` the value it carries and
`p` the W1P bits written 1. -/
def regAct (s : State) (m : Master) (a : Nat) (locked : Bool) (cur w p : Word) : State :=
  if a < 0x04000000 then actEngine s a locked w p
  else if a < 0x04100000 then actInkwell s a p
  else if a < 0x04200000 then actDuctus s a w p
  else if a < 0x04300000 then actPlenil s a p
  else if a < 0x04500000 then actField s m a locked cur w p
  else if a < 0x04600000 then actFolio s a p
  else if a < 0x04700000 then actServiceBus s a w p
  else if a < 0x04800000 then actMargin s a p
  else if a < 0x04900000 then actHost s m a cur w p
  else if a = Reg.PWR_PD_REQ then when (bit p 8) s (fun s => pdRequest s w)
  else if a = Reg.PWR_CTL then pwrCtl s p
  else if winKey ≤ a then actWindow s m a w p
  else s

/-- The bits that a write of `w` stores in the register at `a`. A locked field that the write would change is recorded
with reason 3 (R535, R536). -/
def regStore (s : State) (m : Master) (a : Nat) (r : RegRow) (w : Word) : State :=
  let k := regKey m a
  let cur := rd s k
  let locked := rowLocked s r k
  let s' := when (locked && decide ((cur ^^^ w) &&& r.rwl ≠ 0)) s (fun s => accRecord s m true 3 a)
  wr s' k (stored r (storeMask r locked (barMask s m a cur w)) cur w)

/-- What a full write of `v` tells of the reserved fields of a pulse program's register (R393). -/
def tpFullWrite (s : State) (a : Nat) (v sel : Word) : State :=
  if 0x04403000 ≤ a ∧ a < 0x04403200 ∧ tpReserved ((a - 0x04403000) % 0x20) ≠ 0 ∧ sel = 0xFFFFFFFF#32 then
    tpReservedWrite s (Fin.ofNat 16 ((a - 0x04403000) / 0x20)) ((a - 0x04403000) % 0x20) v
  else s

/-- A write by master `m` of the bits `sel` of the register at `a` to those of `v`: a full write selects every bit, an
alias write one (R535, R536, R538). -/
def regWrite (s : State) (m : Master) (a : Nat) (v sel : Word) : State :=
  match regRow a with
  | none => s
  | some r =>
    let s := tpFullWrite s a v sel
    let k := regKey m a
    let cur := rd s k
    let w := (cur &&& ~~~sel) ||| (v &&& sel)
    regAct (regStore s m a r w) m a (rowLocked s r k) cur w (v &&& sel &&& r.w1p)

end Sys2Proof.Machine
end

