-- ==== Sys2Proof/Machine/Window.lean ====
section
/-! DEFINITION. The indirect windows (R543, R544, R556). -/

namespace Sys2Proof.Machine

/-! ## Power and access tables -/

/-- Domains of which one must be on for the address to answer (R553, R555). -/
def siteDomains (a : Nat) : List Nat :=
  if a < 0x400000 then [10]
  else if a < 0x02000000 then [2 + (a - 0x01000000) / 0x400000]
  else if a < 0x04000000 then [6 + (a - 0x02000000) / 0x400000]
  else if a < 0x04200000 then [10]
  else if a < 0x04300000 then
    if chReg false a || a == Reg.PLN_CH_STAT 0 then [11]
    else if chReg true a || a == Reg.PLN_CH_STAT 1 then [12]
    else [11, 12]
  else if a < 0x04400000 then [0]
  else if a < 0x04500000 then [14]
  else if a < 0x04600000 then [15]
  else if a < 0x04700000 then [14]
  else if a < 0x04A00000 then [0]
  else if a < 0x04B00000 then [1]
  else if a < 0x04C00000 then [0]
  else [15]

/-- The region of an address answers (R555). -/
def siteOn (s : State) (a : Nat) : Bool := (siteDomains a).any (fun d => pdOn s d)

/-- The access table of target `t` denies master `m` (R533). -/
def denied (s : State) (m : Master) (write : Bool) (t : Nat) : Bool :=
  rdb s (Reg.FUS_ACC t (m.val / 16)) (2 * (m.val % 16) + write.toNat)

/-! ## Window addresses -/

/-- What stands at a window address (R446, R489, R495, R497, R520, R543, R556). -/
inductive WinSite where
  /-- A register of the map, through the management ring. -/
  | ring (a : Nat)
  /-- A register of the Steward or of the island's command set. -/
  | own (a : Nat)
  /-- The staging area of the safety configuration. -/
  | staging
  /-- Word `i` of the active safety configuration. -/
  | active (i : Nat)
  /-- A buffer of the message RAM of controller `k`; the urgent one. -/
  | frame (k : Fin 4) (urgent : Bool)
  | ledger
  /-- The fuse word at an offset. -/
  | fuse (ofs : Nat)
deriving DecidableEq, Repr

/-- The register that the management ring reaches at a window address below 0x10_0000 (R556). -/
def ringSite (wa : Nat) : Option WinSite :=
  if 0x1000 ≤ wa ∧ wa < 0x2000 then (if (regRow (winKey + wa)).isSome then some (.own (winKey + wa)) else none)
  else if 0x2000 ≤ wa ∧ wa < 0x2400 then
    let a := 0x010F0000 + (wa - 0x2000) / 0x40 * 0x100000 + wa % 0x40
    if (regRow a).isSome then some (.ring a) else none
  else if 0x3000 ≤ wa ∧ wa < 0x3400 then
    let a := 0x020F0000 + (wa - 0x3000) / 0x40 * 0x100000 + wa % 0x40
    if (regRow a).isSome then some (.ring a) else none
  else if 0x80000 ≤ wa ∧ wa < 0x80000 + 12 * 0x8000 then
    some (.ring (0x04000000 + (wa - 0x80000) / 0x8000 * 0x100000 + wa % 0x8000))
  else none

/-- The target of a window address, and what stands there; none where it reaches no target (R543; log entry 68). -/
def winSite (wa : Nat) : Option (Nat × WinSite) :=
  if wa < 0x100000 then (ringSite wa).map (fun w => (16, w))
  else if wa < 0x101000 then
    if (regRow (winKey + wa)).isSome then some (17, .own (winKey + wa))
    else if 0x100100 ≤ wa ∧ wa < 0x10026C then some (17, .staging)
    else if 0x100400 ≤ wa ∧ wa < 0x10056C then some (17, .active ((wa - 0x100400) / 4))
    else none
  else if 0x200000 ≤ wa ∧ wa < 0x208000 then
    let o := wa % 0x2000
    if o < 0xC60 ∨ (0xC80 ≤ o ∧ o < 0x1880) then
      some (18, .frame (Fin.ofNat 4 ((wa - 0x200000) / 0x2000)) (decide (0xC00 ≤ o ∧ o < 0xC60)))
    else none
  else if 0x300000 ≤ wa ∧ wa < 0x308000 then some (19, .ledger)
  else if 0x400000 ≤ wa ∧ wa < 0x401000 then
    if fuseOffsets.contains (wa - 0x400000) then some (20, .fuse (wa - 0x400000)) else none
  else none

/-- A register that an indirect window reaches: HST_IND_DATA is not, as that access would name itself (log entry 68). -/
def ringOk (s : State) (m : Master) (write : Bool) (a : Nat) : Bool :=
  a != Reg.HST_IND_DATA && !reservedTo s m write a && siteOn s a

def indStat (m : Master) : Nat := Reg.banked m Reg.HST_IND_STAT

/-- A read through a window that the target answers. -/
def winAnswer (s : State) (m : Master) (wa : Nat) : WinSite → Option (Word × State)
  | .ring a => if ringOk s m false a then some (regRead s m a) else none
  | .own a => some (regRead s m a)
  | .active i => some (s.isl.cfg.getD i 0, s)
  | .frame _ _ => if pdOn s 14 then some (s.wmem.read32 wa, s) else none
  | .fuse o => some (fuseWord s o, s)
  | .staging => some (s.wmem.read32 wa, s)
  | .ledger => some (s.wmem.read32 wa, s)

/-- A fuse word's programming starts: refused without VFUSE, and while the master's previous word is programmed; under
the brown-out warning it waits (R544, R566; log entry 69). -/
def fuseStart (s : State) (m : Master) (o : Nat) (v : Word) : Option State :=
  if s.pins.vfuse && (s.hst.fuseJob[m]).isNone then
    let j : FuseJob := { ofs := o, bits := v, begun := !warning s }
    some (wrb (updHst s (fun h => { h with fuseJob := h.fuseJob.put m (some j) })) (indStat m) 30 true)
  else none

/-- A write through a window that the target takes. -/
def winTake (s : State) (m : Master) (wa : Nat) (v : Word) : WinSite → Option State
  | .ring a => if ringOk s m true a then some (regWrite s m a v 0xFFFFFFFF#32) else none
  | .own a => if a == Reg.WDN_CMD && decide (1 < m.val) then none else some (regWrite s m a v 0xFFFFFFFF#32)
  | .staging => some { s with wmem := s.wmem.write32 wa v }
  | .frame k u => if pdOn s 14 && !(u && sbUrg s k) then some { s with wmem := s.wmem.write32 wa v } else none
  | .fuse o => fuseStart s m o v
  | .active _ => none
  | .ledger => none

/-- The reason that HST_ACCERR records for a failed window access: 7 for a domain that is off, 5 for a register that is
reserved to another master, and 6 for any other failure (R533, R543, R555; log entry 55). -/
def winReason (s : State) (m : Master) (write : Bool) (wa : Nat) : Nat :=
  match winSite wa with
  | some (_, .ring a) => if !siteOn s a then 7 else if reservedTo s m write a then 5 else 6
  | some (_, .frame _ _) => if pdOn s 14 then 6 else 7
  | some (_, .own a) => if a = Reg.WDN_CMD ∧ write ∧ 1 < m.val then 5 else 6
  | _ => 6

/-- A window access that fails: ERR, and an access error (R543). -/
def winFail (s : State) (m : Master) (write : Bool) (wa : Nat) : State :=
  accRecord (wrb s (indStat m) 31 true) m write (winReason s m write wa) wa

/-- A failed write. One of WDN_CMD with GO by another master than 0 and 1 is no command, but ends with RESULT 8 (R493,
R533; log entry 57). -/
def winDrop (s : State) (m : Master) (wa : Nat) (v : Word) : State :=
  let s := winFail s m true wa
  when (winKey + wa == Reg.WDN_CMD && decide (1 < m.val) && bit v 8 && !denied s m true 17) s (fun s => wdnGo s m v)

/-- A read at a window address; a failed one returns 0 (R543). -/
def winRead (s : State) (m : Master) (wa : Nat) : Word × State :=
  let r := match winSite wa with
    | some (t, w) => if denied s m false t then none else winAnswer s m wa w
    | none => none
  r.getD (0, winFail s m false wa)

/-- A write at a window address; a failed one is dropped (R543). -/
def winWrite (s : State) (m : Master) (wa : Nat) (v : Word) : State :=
  let r := match winSite wa with
    | some (t, w) => if denied s m true t then none else winTake s m wa v w
    | none => none
  r.getD (winDrop s m wa v)

/-- The window address in HST_IND_ADDR of a master. -/
def indAddr (s : State) (m : Master) : Nat := rdf s (Reg.banked m Reg.HST_IND_ADDR) 2 21 * 4

/-- ADDR advances by 4 with INC (R543). -/
def indStep (s : State) (m : Master) : State :=
  let r := Reg.banked m Reg.HST_IND_ADDR
  when (rdb s r 31) s (fun s => wrf s r 2 21 (rdf s r 2 21 + 1))

/-- A read of HST_IND_DATA (R543). -/
def indRead (s : State) (m : Master) : Word × State :=
  let r := winRead s m (indAddr s m)
  (r.1, indStep r.2 m)

/-- A write of HST_IND_DATA (R543). -/
def indWrite (s : State) (m : Master) (v : Word) : State := indStep (winWrite s m (indAddr s m) v) m

/-- Programming of a master's fuse word is complete; one that waits for the warning to end is not (R544, R566). -/
def fuseDone (s : State) (m : Master) : State :=
  match s.hst.fuseJob[m] with
  | some j =>
    if j.begun then
      wrb (updHst (fuseBlow s j.ofs j.bits) (fun h => { h with fuseJob := h.fuseJob.put m none })) (indStat m) 30 false
    else s
  | none => s

end Sys2Proof.Machine
end

