-- ==== Sys2Proof/Machine/Access.lean ====
section
/-! DEFINITION. The accesses of the masters: the address map, refusals, memories, registers, bit aliases
(R526, R530 to R538, R553 to R555). -/

namespace Sys2Proof.Machine

/-! ## The map (R241, R537, R553, R554) -/

/-- What stands at an address. -/
inductive Site where
  /-- Scriptorium or a core's local memory. -/
  | mem (a : Nat)
  /-- Memory of an engine; its program memory. -/
  | engMem (e : Fin 16) (prog : Bool) (a : Nat)
  /-- Folio trace memory. -/
  | trace (a : Nat)
  | reg (a : Nat)
  /-- The alias of bit `i` of the register at `a`. -/
  | bitOf (a : Nat) (i : Nat)
  /-- The MSI-X table and pending bits of BAR2, at an offset (R525). -/
  | msix (o : Nat)
  /-- The configuration space of the PCIe function, at an offset (R525). -/
  | cfg (o : Nat)
  /-- A register on the management ring, which the Steward reaches directly, at its ring address (R22). -/
  | ring (wa : Nat)
deriving DecidableEq, Repr

/-- The canonical address that a site stands at. -/
def Site.addr : Site → Nat
  | .mem a => a
  | .engMem _ _ a => a
  | .trace a => a
  | .reg a => a
  | .bitOf a _ => a
  | .msix _ => 0x04800000
  | .cfg _ => 0x04800000
  | .ring wa =>
    match ringSite wa with
    | some (.ring a) => a
    | _ => 0x04800000

/-- The map below 0x1000_0000, with the target of the access table (R533, R537, R553). -/
def mapSite (a : Nat) : Option (Nat × Site) :=
  let o := a % 0x100000
  if a < 0x400000 then some (0, .mem a)
  else if 0x01000000 ≤ a ∧ a < 0x02000000 then
    let e : Fin 16 := Fin.ofNat 16 ((a - 0x01000000) / 0x100000)
    if o < 0x8000 ∨ (0x10000 ≤ o ∧ o < 0x18000) then some (1, .engMem e false a)
    else if 0x20000 ≤ o ∧ o < 0x24000 then some (1, .engMem e true a)
    else if 0xF0000 ≤ o then some (1, .reg a)
    else none
  else if 0x02000000 ≤ a ∧ a < 0x03000000 then
    if o < 0x10000 then some (2, .mem a) else if 0xF0000 ≤ o then some (2, .reg a) else none
  else if 0x04000000 ≤ a ∧ a < 0x04C00000 then some (3 + (a - 0x04000000) / 0x100000, .reg a)
  else if 0x05000000 ≤ a ∧ a < 0x05100000 then some (15, .trace a)
  else if 0x08000000 ≤ a ∧ a < 0x09800000 then
    let b := (a - 0x08000000) / 0x200000
    some (3 + b, .bitOf (0x04000000 + b * 0x100000 + a % 0x200000 / 128 * 4) (a % 128 / 4))
  else none

/-- The map as master `m` sees it: a core sees its own memory and registers besides, the PCIe master BAR2 at 0x2000_0000
and the configuration space at 0x2100_0000, and the Steward the management ring from 0x3000_0000 up, all under no table
(R22, R241, R525, R533; log entries 61 and 129). -/
def siteOf (m : Master) (a : Nat) : Option (Option Nat × Site) :=
  let own := (m.val - 2) * 0x100000
  if a < 0x10000000 then (mapSite a).map (fun x => (some x.1, x.2))
  else if 2 ≤ m.val ∧ m.val ≤ 17 then
    if a < 0x10010000 then some (none, .mem (0x02000000 + own + (a - 0x10000000)))
    else if 0x11000000 ≤ a ∧ a < 0x1100002C then some (none, .reg (0x020F0000 + own + (a - 0x11000000)))
    else none
  else if m = 0 ∧ 0x20000000 ≤ a ∧ a < 0x20002000 then some (none, .msix (a - 0x20000000))
  else if m = 0 ∧ 0x21000000 ≤ a ∧ a < 0x21001000 then some (none, .cfg (a - 0x21000000))
  else if m = 18 ∧ 0x30000000 ≤ a ∧ a < 0x30100000 ∧ (ringSite (a / 4 * 4 - 0x30000000)).isSome then
    some (none, .ring (a / 4 * 4 - 0x30000000))
  else none

/-! ## Refusals (R531 to R534, R555) -/

/-- Every byte of the word is enabled. -/
def lanesFull : Lanes → Bool
  | .all => true
  | .some be => be == 15#4

/-- A register, an alias or BAR2 takes aligned words only (R531, R537). -/
def sizeOk (x : Site) (a : Nat) (l : Lanes) : Bool :=
  match x with
  | .mem _ => true
  | .engMem _ _ _ => true
  | .trace _ => true
  | .reg _ => a % 4 == 0 && lanesFull l
  | .bitOf _ _ => a % 4 == 0 && lanesFull l
  | .msix _ => a % 4 == 0 && lanesFull l
  | .cfg _ => a % 4 == 0
  | .ring _ => a % 4 == 0 && lanesFull l

/-- Reserved to another master (R533). -/
def siteReserved (s : State) (m : Master) (write : Bool) : Site → Bool
  | .reg a => reservedTo s m write a
  | .bitOf a _ => reservedTo s m write a
  | .ring wa => reservedTo s m write (Site.ring wa).addr
  | _ => false

/-- The image being loaded stands in the word at `a`: a write by another master than the Steward is refused until BUSY
is 0 (R256). -/
def imageHeld (s : State) (m : Master) (a : Nat) : Bool :=
  match s.stw.range with
  | some (lo, n) => decide (m ≠ 18) && decide (lo < a / 4 * 4 + 4 ∧ a / 4 * 4 < lo + n)
  | none => false

/-- The target itself refuses the access (R77, R118, R256, R437; log entry 58). -/
def siteRefuses (s : State) (m : Master) (write : Bool) : Site → Bool
  | .mem a => write && imageHeld s m a
  | .engMem e prog _ => write && ((eng s e).mode == 2 || (prog && rdb s (Reg.QE_CTL e) 8))
  | .trace _ => write || !(folState s == 0 || folState s == 4 || folState s == 5)
  | _ => false

/-- The reason of HST_ACCERR for which an access is refused, if it is; where several hold, the first in this order
(R534, R552; log entry 55). -/
def refusal (s : State) (m : Master) (write : Bool) (a : Nat) (l : Lanes) : Option Nat :=
  match siteOf m a with
  | none => some 4
  | some (t, x) =>
    if t.any (denied s m write) then some 1
    else if !sizeOk x a l then some 2
    else if siteReserved s m write x then some 5
    else if !siteOn s x.addr || siteRefuses s m write x then some 7
    else none

/-- No access is answered under a reset, and none of the PCIe master while its domain is off, PE_PERST_N is low or the
function is in D3hot (R525, R562, R567, R587; log entry 129). -/
def busDead (s : State) (m : Master) : Bool :=
  s.pwr.por || s.pwr.nReset || (decide (m = 0) && (pcieDown s || s.hst.pcie.d3))

/-- In D3hot the configuration space alone answers (R525, R527; log entry 129). -/
def cfgAwake (s : State) (m : Master) (a : Nat) : Bool :=
  match siteOf m a with
  | some (_, .cfg _) => !s.pwr.por && !s.pwr.nReset && !pcieDown s
  | _ => false

/-- How a refused access shows itself: a write of PCIe or LBUS is dropped and completes, LBUS reads 0, PCIe reads with
Completer Abort, and the other masters see an error (R534). -/
def refusedResp (m : Master) (write : Bool) : Resp :=
  if m = 1 then (if write then .done else .value 0) else if m = 0 && write then .done else .refused

/-- The Scribe core that a master is. -/
def coreOf (m : Master) : Option (Fin 16) := if 2 ≤ m.val ∧ m.val ≤ 17 then some (Fin.ofNat 16 (m.val - 2)) else none

/-- A core's access is refused: ACCERR is set, and the core takes the access-fault exception `cause` (R242; log entry
97). -/
def coreRefused (s : State) (m : Master) (cause : Word) (a : Nat) : State :=
  match coreOf m with
  | some c => coreTrap (scIrq s c 5) c cause (BitVec.ofNat 32 a)
  | none => s

/-- AER reports a read of the PCIe master that ends with Completer Abort (R534; log entry 129). -/
def aerReport (s : State) (m : Master) (write : Bool) : State :=
  when (decide (m = 0) && !write) s (fun s =>
    updHst s (fun h => { h with pcie := { h.pcie with aer := h.pcie.aer ||| 0x8000#32 } }))

/-- A refused access: recorded, and shown to its master; a core takes the load or store access fault (R242, R534). -/
def refuse (s : State) (m : Master) (write : Bool) (reason a : Nat) : State :=
  respond (coreRefused (aerReport (accRecord s m write reason a) m write) m (if write then 7 else 5) a) m
    (refusedResp m write)

/-! ## Bit aliases (R537, R538) -/

/-- A register whose read has a side effect other than clearing RC fields (R538). -/
def sideEffect (a : Nat) : Bool :=
  inBank 0x04004000 0x20 16 a || inBank 0x04800110 4 5 a || a == Reg.HST_IND_DATA

/-- The word with bit `i` alone. -/
def oneBit (i : Nat) : Word := BitVec.ofNat 32 (2 ^ (i % 32))

/-- A read of the alias of bit `i`: the bit, cleared if it is RC (R537). -/
def aliasRead (s : State) (m : Master) (a i : Nat) : Word × State :=
  match regRow a with
  | none => (0, s)
  | some r =>
    if sideEffect a then (0, s)
    else
      let k := regKey m a
      (if bit (regShown s r k) i then 1 else 0, wr s k (rd s k &&& ~~~(r.rc &&& oneBit i)))

/-- A write to the alias of bit `i` (R537, R538). -/
def aliasWrite (s : State) (m : Master) (a i : Nat) (v : Word) : State :=
  if sideEffect a then s else regWrite s m a (if bit v 0 then oneBit i else 0) (oneBit i)

/-! ## The MSI-X table (R525, R551) -/

def msixRead (s : State) (o : Nat) : Word :=
  if o < 0x400 then
    let e := s.hst.msix[Fin.ofNat 64 (o / 16)]
    match o / 4 % 4 with
    | 0 => e.addr.setWidth 32
    | 1 => e.addr.extractLsb' 32 32
    | 2 => e.data
    | _ => if e.masked then 1 else 0
  else if o = 0x1000 then s.hst.msixPend.setWidth 32
  else if o = 0x1004 then s.hst.msixPend.extractLsb' 32 32
  else 0

/-- A write into the table; a vector that is unmasked while it is pending is sent (log entry 8). -/
def msixWrite (s : State) (o : Nat) (v : Word) : State :=
  if o < 0x400 then
    let i : Fin 64 := Fin.ofNat 64 (o / 16)
    let s := updHst s (fun h => { h with msix := h.msix.upd i (fun e =>
      match o / 4 % 4 with
      | 0 => { e with addr := e.addr.extractLsb' 32 32 ++ v }
      | 1 => { e with addr := v ++ e.addr.setWidth 32 }
      | 2 => { e with data := v }
      | _ => { e with masked := bit v 0 }) })
    sendPending s i
  else s

/-! ## The PCIe configuration space (R525, R527, R551; log entry 129) -/

/-- A word of the configuration space: the power state, the MSI-X control, the error status of AER; Initiate FLR reads 0,
and the rest is open. -/
def cfgRead (s : State) (o : Nat) : Word :=
  let p := s.hst.pcie
  if o = 0x44 then (if p.d3 then 3 else 0)
  else if o = 0x58 then 0
  else if o = 0xB0 then BitVec.ofNat 32 (p.msixEn.toNat * 2 ^ 31 + p.msixMask.toNat * 2 ^ 30 + 63 * 2 ^ 16 + 0x11)
  else if o = 0x104 then p.aer
  else Config.pcieCfg o

/-- The bits of the enabled bytes. -/
def laneMask : Lanes → Word
  | .all => 0xFFFFFFFF#32
  | .some be => (List.range 4).foldl (fun w i => if be.getLsbD i then w ||| BitVec.ofNat 32 (255 * 2 ^ (8 * i)) else w) 0

/-- A write of the configuration space: a change of the power state, where D3hot and back resets the function, a function
level reset, the MSI-X control, and 1s that clear the error status (R525, R527). -/
def cfgWrite (s : State) (o : Nat) (l : Lanes) (v : Word) : State :=
  let k := laneMask l
  let w := (cfgRead s o &&& ~~~k) ||| (v &&& k)
  let put := fun (f : Pcie → Pcie) => updHst s (fun h => { h with pcie := f h.pcie })
  if o = 0x44 then
    match fld w 0 2, s.hst.pcie.d3 with
    | 3, _ => put (fun p => { p with d3 := true })
    | 0, true => pcieReset s
    | _, _ => s
  else if o = 0x58 then when (bit (v &&& k) 15) s pcieReset
  else if o = 0xB0 then
    forAll (fins 64) (put (fun p => { p with msixEn := bit w 31, msixMask := bit w 30 })) sendPending
  else if o = 0x104 then put (fun p => { p with aer := p.aer &&& ~~~(v &&& k) })
  else s

/-! ## Accesses -/

/-- The engine runs or retries an axis program in service, and holds reads of its memories (R77). -/
def engHolds (s : State) (e : Fin 16) : Bool := (eng s e).mode == 2 && !engIdle (eng s e)

/-- A read that the engine holds (R77). -/
def holdRead (s : State) (m : Master) (e : Fin 16) (a fixed : Nat) (failed : Bool) : State :=
  updEng s e (fun g => { g with held := g.held ++ [{ m := m, addr := a, fixed := fixed, failed := failed }] })

/-- A read that is not refused: its value, or none where it is held until the engine is idle (R77). -/
def siteRead (s : State) (m : Master) : Site → Option Word × State
  | .mem a => (some (mrd32 s (a / 4 * 4)), s)
  | .engMem e _ a =>
    if engHolds s e then (none, holdRead s m e a 0 false)
    else (some (mrd32 s (a / 4 * 4)), s)
  | .trace a => (some (mrd32 s (a / 4 * 4)), s)
  | .reg a =>
    let r := if a = Reg.HST_IND_DATA then indRead s m else regRead s m a
    (some r.1, r.2)
  | .bitOf a i => let r := aliasRead s m a i; (some r.1, r.2)
  | .msix o => (some (msixRead s o), s)
  | .cfg o => (some (cfgRead s o), s)
  | .ring wa =>
    if ringSite wa = some (.ring Reg.HST_IND_DATA) then let r := indRead s m; (some r.1, r.2)
    else match (ringSite wa).bind (winAnswer s m wa) with
      | some r => (some r.1, r.2)
      | none => (some 0, s)

/-- The enabled bytes of a word stored (R526). -/
def storeLanes (s : State) (a : Nat) (v : Word) : Lanes → State
  | .all => mwr32 s a v
  | .some be => forAll (List.range 4) s (fun s i => when (be.getLsbD i) s (fun s => mwr8 s (a + i) (byteOf v i)))

/-- The reservations of other cores on a word that master `m` stores to are lost (log entry 97). -/
def dropResv (s : State) (m : Master) (a : Nat) : State :=
  { s with ink := { s.ink with core := Vector.ofFn (fun (c : Fin 16) =>
      let k := s.ink.core[c]
      if k.hart.resv = some a ∧ coreOf m ≠ some c then { k with hart := { k.hart with resv := none } } else k) } }

/-- A write that is not refused. -/
def siteWrite (s : State) (m : Master) (l : Lanes) (v : Word) : Site → State
  | .mem a => storeLanes (dropResv s m (a / 4 * 4)) (a / 4 * 4) v l
  | .engMem _ _ a => storeLanes s (a / 4 * 4) v l
  | .trace _ => s
  | .reg a => if a = Reg.HST_IND_DATA then indWrite s m v else regWrite s m a v 0xFFFFFFFF#32
  | .bitOf a i => aliasWrite s m a i v
  | .msix o => msixWrite s o v
  | .cfg o => cfgWrite s o l v
  | .ring wa =>
    if ringSite wa = some (.ring Reg.HST_IND_DATA) then indWrite s m v
    else ((ringSite wa).bind (winTake s m wa v)).getD s

/-- A read by master `m` (R531 to R535). -/
def busRead (s : State) (m : Master) (a : Nat) (l : Lanes) : State :=
  if busDead s m && !cfgAwake s m a then respond s m .none
  else match refusal s m false a l, siteOf m a with
    | none, some (_, x) =>
      let r := siteRead s m x
      respond r.2 m (match r.1 with
        | some v => .value v
        | none => .none)
    | some r, _ => refuse s m false r a
    | none, none => s

/-- A write by master `m` (R531 to R536). -/
def busWrite (s : State) (m : Master) (a : Nat) (l : Lanes) (v : Word) : State :=
  if busDead s m && !cfgAwake s m a then respond s m .none
  else match refusal s m true a l, siteOf m a with
    | none, some (_, x) => respond (siteWrite s m l v x) m .done
    | some r, _ => refuse s m true r a
    | none, none => s

end Sys2Proof.Machine
end

