-- ==== Sys2Proof/Machine/BusRows.lean ====
section
/-! DEFINITION. The commands that are accesses of a master, and the events of the windows, mailboxes and cores: each an
access of Access.lean at the register its rule names (R535). A row that stands for one field of a register writes that
field's bit at 1; its word gives the other bits. -/

namespace Sys2Proof.Machine

/-- A command that a master gives by a write at a window address, without its HST_IND_ADDR (R256, R493, R543; log entry
70). -/
def winCommand (s : State) (m : Master) (wa : Nat) (v : Word) : State :=
  if busDead s m then respond s m .none else respond (winWrite s m wa v) m .done

/-- A core whose retry failed stops, with its cause and the word offset of the access; it is reported to Margin (R225,
R243, R246). -/
def coreFault (s : State) (c : Fin 16) (cause : BitVec 4) (addr : Half) : State :=
  if !pdOn s (pdOfCore c) || !rdb s (Reg.SC_CTL c) 0 then s
  else
    let s := newInstant s
    let w := BitVec.ofNat 32 (cause.toNat * 2 ^ 28 + addr.toNat)
    let s := wrf (wr s (Reg.SC_FAULT c) w) (Reg.SC_STAT c) 28 4 3
    coreStop (assertSource s (0xB0 + c.val) w) c

/-- The timer interrupt becomes pending: a core that waits and enables it runs on (R244, R246; log entry 97). -/
def coreTimer (s : State) (c : Fin 16) : State :=
  when (scTimer s c) s (fun s => coreWake s c)

/-- What the detectors will say of the attempts of a stepped instruction (R111). -/
def setDet (s : State) (e : Fin 16) (l : List Detect) : State := updEng s e (fun g => { g with det := l })

/-- The site that an access reaches; none where it is refused or not answered. -/
def reached (s : State) (m : Master) (write : Bool) (a : Nat) (l : Lanes) : Option Site :=
  if busDead s m || (refusal s m write a l).isSome then none else (siteOf m a).map (·.2)

/-- The core in whose local memory a word stands. -/
def coreAt (b : Nat) : Fin 16 := Fin.ofNat 16 ((b - 0x02000000) / 0x100000)

/-- The words of an engine memory that an access of these lanes corrects: X and Y words are 16 bits, program words 32
(R13, R110). -/
def fixedWords (two : Bool) (l : Lanes) : Site → Nat
  | .engMem _ false _ =>
    match l with
    | .all => 1 + two.toNat
    | .some be => 1 + (two && decide (be &&& 3#4 ≠ 0) && decide (be &&& 12#4 ≠ 0)).toNat
  | _ => 1

/-- A single-bit error corrected in line: an engine counts it, and the core whose local memory it is has ECCCOR set (R13,
R110, R243, R246). -/
def memFixed (s : State) (n : Nat) : Site → State
  | .engMem e _ _ => corrected s e n
  | .mem b => when (decide (0x02000000 ≤ b)) s (fun s => scIrq s (coreAt b) 6)
  | _ => s

/-- A retry that succeeded: the transient source of the Scriptorium, or of the core (R243, R503). -/
def memRetried (s : State) : Site → State
  | .mem b => assertSource s (if b < 0x400000 then 0x11C else 0xA0 + (coreAt b).val) 0
  | _ => s

/-- A failed retry in a core's own access to its local memory is the core's lasting fault (R243). -/
def localFailed (s : State) (m : Master) (b : Nat) : State :=
  when (coreOf m == some (coreAt b)) s (fun s => coreFault s (coreAt b) 1 (BitVec.ofNat 16 ((b - 0x02000000) % 0x100000 / 4)))

/-- A read that the check finds lastingly wrong: an access error of the Scriptorium with its lasting source, Folio's
lasting source, or a core's lasting fault; what else the master sees is left open (R501, R503; log entry 117). -/
def readFailed (s : State) (m : Master) (a : Nat) (l : Lanes) (x : Site) : State :=
  let t := takeNat s
  let loose := respond t.2 m (.value (BitVec.ofNat 32 t.1))
  match x with
  | .mem b => if b < 0x400000 then assertSource (newInstant (refuse s m false 7 a)) 0x11D 0 else localFailed loose m b
  | .engMem _ _ _ => loose
  | .trace _ => assertSource (newInstant loose) 0x11F 0
  | _ => busRead s m a l

/-- A read with an error, of a site that does not hold it (R13, R243, R503). -/
def readErr (s : State) (m : Master) (a : Nat) (l : Lanes) (x : Site) : MemDet → State
  | .clean => busRead s m a l
  | .fixed two => memFixed (busRead s m a l) (fixedWords two l x) x
  | .retried => memRetried (busRead s m a l) x
  | .failed => readFailed s m a l x

/-- A read with an error, of a site: an engine in service that runs a program holds it, and finds the error when it serves
it (R77, R110). -/
def readAt (s : State) (m : Master) (a : Nat) (l : Lanes) (d : MemDet) (x : Site) : State :=
  match x with
  | .engMem e _ b =>
    if engHolds s e then
      respond (holdRead s m e b (match d with | .fixed two => fixedWords two l x | _ => 0) (d == .failed)) m .none
    else readErr s m a l x d
  | _ => readErr s m a l x d

/-- A read under the check of the memory it reaches (R13, R243, R503). -/
def readUnder (s : State) (m : Master) (a : Nat) (l : Lanes) (d : MemDet) : State :=
  match d, reached s m false a l with
  | .clean, _ => busRead s m a l
  | d, some x => readAt s m a l d x
  | _, none => busRead s m a l

/-- A write under the check of the memory it reaches; one that fails in the Scriptorium leaves the old word (R13, R243,
R503). -/
def writeUnder (s : State) (m : Master) (a : Nat) (l : Lanes) (v : Word) (d : MemDet) : State :=
  match d, reached s m true a l with
  | .fixed two, some x => memFixed (busWrite s m a l v) (fixedWords two l x) x
  | .retried, some x => memRetried (busWrite s m a l v) x
  | .failed, some (.mem b) =>
    if b < 0x400000 then assertSource (newInstant (respond s m .done)) 0x11D 0 else localFailed (respond s m .done) m b
  | _, _ => busWrite s m a l v

/-! ## LBUS (R529) -/

/-- LBUS reaches registers in halves, and memories in independent 16-bit accesses. -/
def lbusIsReg (a : Nat) : Bool :=
  match siteOf 1 a with
  | some (_, .reg _) => true
  | some (_, .bitOf _ _) => true
  | _ => false

/-- The byte enables of a half of the word. -/
def halfLanes (a : Nat) : Lanes := .some (if a % 4 = 0 then 3#4 else 12#4)

/-- What LBUS saw, narrowed to the half it asked for. -/
def lbusNarrow (s : State) (a : Nat) : State :=
  match s.hst.resp[(1 : Master)] with
  | .value v => respond s 1 (.value (if a % 4 = 0 then v &&& 0xFFFF#32 else v >>> 16))
  | _ => s

/-- A read of the high half with none held for it: R529 states no result, so whether it is refused, reads the register
at that instant or answers some half is free (log entry 102). -/
def lbusLoose (s : State) (a : Nat) : State :=
  let t := takeNat s
  match t.1 % 3 with
  | 0 => lbusNarrow (busRead t.2 1 (a - 2) .all) a
  | 1 => refuse t.2 1 false 2 a
  | _ => respond t.2 1 (.value (BitVec.ofNat 32 (t.1 / 3 % 65536)))

/-- A 16-bit LBUS read (R529). -/
def lbusRead (s : State) (a : Nat) (d : MemDet) : State :=
  if !lbusIsReg a then lbusNarrow (readUnder s 1 a (halfLanes a) d) a
  else if a % 4 = 0 && (refusal s 1 false a .all).isSome then busRead s 1 a .all
  else if a % 4 = 0 then
    let s := busRead s 1 a .all
    let s := match s.hst.resp[(1 : Master)] with
      | .value v => updHst s (fun h => { h with lbRead := some (BitVec.ofNat 32 a, v.extractLsb' 16 16) })
      | _ => s
    lbusNarrow s a
  else match s.hst.lbRead with
    | some (b, h) =>
      if b.toNat + 2 = a then respond (updHst s (fun h => { h with lbRead := none })) 1 (.value (h.setWidth 32))
      else lbusLoose s a
    | none => lbusLoose s a

/-- A 16-bit LBUS write (R529). -/
def lbusWrite (s : State) (a : Nat) (v : Half) (d : MemDet) : State :=
  if !lbusIsReg a then writeUnder s 1 a (halfLanes a) (v ++ v) d
  else if a % 4 = 0 then respond (updHst s (fun h => { h with lbWrite := some (BitVec.ofNat 32 a, v) })) 1 .done
  else match s.hst.lbWrite with
    | some (b, l) =>
      if b.toNat + 2 = a then busWrite (updHst s (fun h => { h with lbWrite := none })) 1 b.toNat .all (v ++ l)
      else refuse s 1 true 2 a
    | none => refuse s 1 true 2 a

/-- A 16-bit LBUS access: 27 address lines, the lowest bit 0 (R528, R529). -/
def lbusHalf (s : State) (addr : Word) (write : Option Half) (d : MemDet) : State :=
  let a := addr.toNat % 2 ^ 28 / 2 * 2
  if busDead s 1 then respond s 1 .none
  else match write with
    | some v => lbusWrite s a v d
    | none => lbusRead s a d

/-! ## The order of a master's accesses (R530) -/

/-- A step in debug mode: a write of QE_CTL with STEP at 1, and what the detectors say of the stepped instruction's
attempts (R110, R111, R118). -/
def stepWrite (s : State) (m : Master) (e : Fin 16) (k : DebugStep) : State :=
  setDet (busWrite (setDet s e [k.det, k.retry]) m (Reg.QE_CTL e) .all (k.v ||| 0x10#32)) e []

/-- An access takes effect. -/
def accessNow (s : State) (m : Master) : BusAcc → State
  | .read a l d => readUnder s m a l d
  | .write a l v d => writeUnder s m a l v d
  | .half a w d => lbusHalf s a w d
  | .win wa v => winCommand s m wa v
  | .step e k => stepWrite s m e k

/-- An engine holds a read of the master (R77). -/
def heldBy (s : State) (m : Master) : Bool := (fins 16).any (fun (e : Fin 16) => (eng s e).held.any (fun r => r.m == m))

/-- The accesses of a master that wait. -/
def setWait (s : State) (m : Master) (l : List BusAcc) : State := updHst s (fun h => { h with wait := h.wait.put m l })

/-- Accesses in the order of their issue, until a read is held, behind which the rest waits (R530). -/
def accessAll (m : Master) : List BusAcc → State → State
  | [], s => s
  | c :: r, s => if heldBy s m then setWait s m (c :: r) else accessAll m r (accessNow s m c)

/-- The accesses of a master that waited take effect where no engine holds a read of it any more (R530). -/
def drain (s : State) (m : Master) : State :=
  match s.hst.wait[m] with
  | [] => s
  | l => if heldBy s m then s else accessAll m l (setWait s m [])

/-- An access of a master takes effect behind its earlier ones: it waits while an engine holds a read of the master
(R77, R530; log entry 125). -/
def access (s : State) (m : Master) (c : BusAcc) : State :=
  let s := drain s m
  if heldBy s m then respond (setWait s m (s.hst.wait[m] ++ [c])) m .none else accessNow s m c

/-- LB_WAIT_N: driven low while an access of LBUS waits; high impedance else, as an access completes at once (R528, R586;
log entry 130). -/
def ballLbWaitN (s : State) : Ball :=
  if !inReset s && (heldBy s 1 || !(s.hst.wait[(1 : Master)]).isEmpty) then .driven false else .z

/-- An access to HST_IND_DATA, while VFUSE is in its range or not (R543, R544). -/
def indAccess (s : State) (m : Master) (write : Option Word) (vfuse : Bool) : State :=
  let s := { s with pins := { s.pins with vfuse := vfuse } }
  match write with
  | some v => access s m (.write Reg.HST_IND_DATA .all v .clean)
  | none => access s m (.read Reg.HST_IND_DATA .all .clean)

/-! ## Meanings -/

/-- QE_STEP: a write of QE_CTL with STEP at 1 (R110, R111, R118). -/
def execQeStep (m : Master) (e : Fin 16) (k : DebugStep) (s : State) : Host.Outcome State Fault Refusal :=
  .next (access s m (.step e k))

/-- QE_MODE: a write of QE_CTL (R119). -/
def execQeMode (m : Master) (e : Fin 16) (v : Word) (s : State) : Host.Outcome State Fault Refusal :=
  .next (access s m (.write (Reg.QE_CTL e) .all v .clean))

/-- INK_BANK_GO: a write of INK_BANK_g with GO at 1 (R146). -/
def execInkBankGo (m : Master) (g : Fin 32) (v : Word) (s : State) : Host.Outcome State Fault Refusal :=
  .next (access s m (.write (Reg.INK_BANK g) .all (v ||| 1#32) .clean))

/-- INK_TSET: a write of INK_TSET_t (R215). -/
def execInkTset (m : Master) (t : Fin 512) (v : Word) (s : State) : Host.Outcome State Fault Refusal :=
  .next (access s m (.write (Reg.INK_TSET t) .all v .clean))

/-- INK_TAKE: a read of INK_TAKE_c (R221). -/
def execInkTake (m : Master) (c : Fin 16) (s : State) : Host.Outcome State Fault Refusal :=
  .next (access s m (.read (Reg.INK_TAKE c) .all .clean))

/-- DONE: a write of 1 to INK_DONE_c.DONE (R223). -/
def execDone (m : Master) (c : Fin 16) (s : State) : Host.Outcome State Fault Refusal :=
  .next (access s m (.write (Reg.INK_DONE c) .all 1#32 .clean))

/-- FAIL: a write of 1 to INK_DONE_c.FAIL (R223). -/
def execFail (m : Master) (c : Fin 16) (s : State) : Host.Outcome State Fault Refusal :=
  .next (access s m (.write (Reg.INK_DONE c) .all 2#32 .clean))

/-- INK_LIG_RING_RD: a write of INK_LIG_RING_l.RD (R233). -/
def execInkLigRingRd (m : Master) (l : Fin 64) (v : Word) (s : State) : Host.Outcome State Fault Refusal :=
  .next (access s m (.write (Reg.INK_LIG_RING l) .all v .clean))

/-- SLACK_CLEAR: a write of INK_SLACK_CTL with CLEAR at 1 (R62, R65). -/
def execSlackClear (m : Master) (v : Word) (s : State) : Host.Outcome State Fault Refusal :=
  .next (access s m (.write Reg.INK_SLACK_CTL .all (v ||| 2#32) .clean))

/-- SC_RUN: a write of SC_CTL (R246). -/
def execScRun (m : Master) (c : Fin 16) (v : Word) (s : State) : Host.Outcome State Fault Refusal :=
  .next (access s m (.write (Reg.SC_CTL c) .all v .clean))

/-- DCT_PORT_COMMIT: a write of word 7 of DCT_PORT_c (R176, R179). -/
def execDctPortCommit (m : Master) (c : Fin 16) (v : Word) (s : State) : Host.Outcome State Fault Refusal :=
  .next (access s m (.write (Reg.DCT_PORTW c 7) .all v .clean))

/-- CAM_ARM: a write of DCT_CAM_t with ARM at 1 (R202). -/
def execCamArm (m : Master) (t : Fin 64) (v : Word) (s : State) : Host.Outcome State Fault Refusal :=
  .next (access s m (.write (Reg.DCT_CAM t) .all ((v &&& 0xFFFFBFFF#32) ||| 0x8000#32) .clean))

/-- CAM_DISARM: a write of DCT_CAM_t with DISARM at 1 (R202, R210). -/
def execCamDisarm (m : Master) (t : Fin 64) (v : Word) (s : State) : Host.Outcome State Fault Refusal :=
  .next (access s m (.write (Reg.DCT_CAM t) .all ((v &&& 0xFFFF7FFF#32) ||| 0x4000#32) .clean))

/-- LOAD: a write of STW_CODEX_CMD with LOAD at 1 (R256). -/
def execLoad (m : Master) (v : Word) (s : State) : Host.Outcome State Fault Refusal :=
  .next (access s m (.win (Reg.STW_CODEX_CMD - winKey) ((v &&& 0xFFFFFFF8#32) ||| 1#32)))

/-- TRANSITION: a write of STW_CODEX_CMD with TRANSITION at 1 (R267). -/
def execTransition (m : Master) (v : Word) (s : State) : Host.Outcome State Fault Refusal :=
  .next (access s m (.win (Reg.STW_CODEX_CMD - winKey) ((v &&& 0xFFFFFFF8#32) ||| 2#32)))

/-- RESTART: a write of STW_CODEX_CMD with RESTART at 1 (R275). -/
def execRestart (m : Master) (v : Word) (s : State) : Host.Outcome State Fault Refusal :=
  .next (access s m (.win (Reg.STW_CODEX_CMD - winKey) ((v &&& 0xFFFFFFF8#32) ||| 4#32)))

/-- STW_DRAFT_JOG: a write of that register (R266). -/
def execStwDraftJog (m : Master) (v : Word) (s : State) : Host.Outcome State Fault Refusal :=
  .next (access s m (.win (Reg.STW_DRAFT_JOG - winKey) v))

/-- PLN_ACQ_WR: a write of PLN_ACQ_WR_q (R355). -/
def execPlnAcqWr (m : Master) (q : Fin 4) (v : Word) (s : State) : Host.Outcome State Fault Refusal :=
  .next (access s m (.write (Reg.PLN_ACQ_WR q) .all v .clean))

/-- PLN_SW_GO: a write of PLN_SW_CTL with GO at 1 (R340). -/
def execPlnSwGo (m : Master) (v : Word) (s : State) : Host.Outcome State Fault Refusal :=
  .next (access s m (.write Reg.PLN_SW_CTL .all (v ||| 0x100#32) .clean))

/-- RESUME: a write of PLN_NODE_CTL with RESUME at 1 (R330). -/
def execResume (m : Master) (v : Word) (s : State) : Host.Outcome State Fault Refusal :=
  .next (access s m (.write Reg.PLN_NODE_CTL .all ((v &&& 0xFFFFFEFF#32) ||| 0x200#32) .clean))

/-- REMOVE: a write of PLN_NODE_CTL with REMOVE at 1 (R351). -/
def execRemove (m : Master) (v : Word) (s : State) : Host.Outcome State Fault Refusal :=
  .next (access s m (.write Reg.PLN_NODE_CTL .all ((v &&& 0xFFFFFDFF#32) ||| 0x100#32) .clean))

/-- WITHDRAW: a write of PLN_CH_CTL whose REJOIN bits are 0 (R376). -/
def execWithdraw (m : Master) (v : Word) (s : State) : Host.Outcome State Fault Refusal :=
  .next (access s m (.write Reg.PLN_CH_CTL .all (v &&& 0xFFFFFCFF#32) .clean))

/-- REJOIN: a write of PLN_CH_CTL whose WITHDRAW bits are 0 (R377). -/
def execRejoin (m : Master) (v : Word) (s : State) : Host.Outcome State Fault Refusal :=
  .next (access s m (.write Reg.PLN_CH_CTL .all (v &&& 0xFFFFFFFC#32) .clean))

/-- INC: a write of BSL_INC_A or BSL_INC_B (R380). -/
def execInc (m : Master) (domB : Bool) (v : Word) (s : State) : Host.Outcome State Fault Refusal :=
  .next (access s m (.write (Reg.BSL_INC (domIdx domB)) .all v .clean))

/-- BSL_SET_GO: a write of BSL_SET with GO at 1 (R381). -/
def execBslSetGo (m : Master) (v : Word) (s : State) : Host.Outcome State Fault Refusal :=
  .next (access s m (.write Reg.BSL_SET .all (v ||| 1#32) .clean))

/-- TP_GO: a write of TP_CTL_n with GO at 1 (R393). -/
def execTpGo (m : Master) (n : Fin 16) (v : Word) (s : State) : Host.Outcome State Fault Refusal :=
  .next (access s m (.write (Reg.TP_CTL n) .all (v ||| 1#32) .clean))

/-- TP_STOP: a write of TP_CTL_n with STOP at 1 (R396). -/
def execTpStop (m : Master) (n : Fin 16) (v : Word) (s : State) : Host.Outcome State Fault Refusal :=
  .next (access s m (.write (Reg.TP_CTL n) .all ((v &&& 0xFFFFFFFE#32) ||| 4#32) .clean))

/-- LF_CLR: a write of LF_CTL (R417). -/
def execLfClr (m : Master) (v : Word) (s : State) : Host.Outcome State Fault Refusal :=
  .next (access s m (.write Reg.LF_CTL .all v .clean))

/-- FOL_ARM: a write of FOL_CTL with ARM at 1 (R431). -/
def execFolArm (m : Master) (v : Word) (s : State) : Host.Outcome State Fault Refusal :=
  .next (access s m (.write Reg.FOL_CTL .all (v ||| 1#32) .clean))

/-- FOL_STOP: a write of FOL_CTL with STOP at 1 (R436). -/
def execFolStop (m : Master) (v : Word) (s : State) : Host.Outcome State Fault Refusal :=
  .next (access s m (.write Reg.FOL_CTL .all (v ||| 2#32) .clean))

/-- FOL_FORCE: a write of FOL_CTL with FORCE at 1 (R433). -/
def execFolForce (m : Master) (v : Word) (s : State) : Host.Outcome State Fault Refusal :=
  .next (access s m (.write Reg.FOL_CTL .all (v ||| 4#32) .clean))

/-- SB_MODE: a write of SB_CTL (R442). -/
def execSbMode (m : Master) (k : Fin 4) (v : Word) (s : State) : Host.Outcome State Fault Refusal :=
  .next (access s m (.write (Reg.SB_CTL k) .all v .clean))

/-- PUSH: a write of SB_TXC with PUSH at 1 (R448). -/
def execPush (m : Master) (k : Fin 4) (v : Word) (s : State) : Host.Outcome State Fault Refusal :=
  .next (access s m (.write (Reg.SB_TXC k) .all (v ||| 1#32) .clean))

/-- URG_REQ: a write of SB_TXC with URG_REQ at 1 (R450). -/
def execUrgReq (m : Master) (k : Fin 4) (v : Word) (s : State) : Host.Outcome State Fault Refusal :=
  .next (access s m (.write (Reg.SB_TXC k) .all (v ||| 2#32) .clean))

/-- CANCEL_HEAD: a write of SB_TXC with CANCEL_HEAD at 1 (R452). -/
def execCancelHead (m : Master) (k : Fin 4) (v : Word) (s : State) : Host.Outcome State Fault Refusal :=
  .next (access s m (.write (Reg.SB_TXC k) .all (v ||| 4#32) .clean))

/-- CANCEL_URG: a write of SB_TXC with CANCEL_URG at 1 (R452). -/
def execCancelUrg (m : Master) (k : Fin 4) (v : Word) (s : State) : Host.Outcome State Fault Refusal :=
  .next (access s m (.write (Reg.SB_TXC k) .all (v ||| 8#32) .clean))

/-- FLUSH: a write of SB_TXC with FLUSH at 1 (R452). -/
def execFlush (m : Master) (k : Fin 4) (v : Word) (s : State) : Host.Outcome State Fault Refusal :=
  .next (access s m (.write (Reg.SB_TXC k) .all (v ||| 16#32) .clean))

/-- RECOVER: a write of SB_CTL with RECOVER at 1 (R455). -/
def execRecover (m : Master) (k : Fin 4) (v : Word) (s : State) : Host.Outcome State Fault Refusal :=
  .next (access s m (.write (Reg.SB_CTL k) .all (v ||| 0x200#32) .clean))

/-- SB_RXACQ: a write of that register (R458). -/
def execSbRxacq (m : Master) (k : Fin 4) (v : Word) (s : State) : Host.Outcome State Fault Refusal :=
  .next (access s m (.write (Reg.SB_RXACQ k) .all v .clean))

/-- SB_RXREL: a write of that register with REL at 1 (R458). -/
def execSbRxrel (m : Master) (k : Fin 4) (v : Word) (s : State) : Host.Outcome State Fault Refusal :=
  .next (access s m (.write (Reg.SB_RXREL k) .all (v ||| 1#32) .clean))

/-- AUTH: OP, TAG and GO written into WDN_CMD (R485, R493). -/
def execAuth (m : Master) (tag : Half) (s : State) : Host.Outcome State Fault Refusal :=
  .next (access s m (.win (Reg.WDN_CMD - winKey) (tag ++ 0x0101#16)))

/-- COMMIT: OP, TAG and GO written into WDN_CMD (R490, R493). -/
def execCommit (m : Master) (tag : Half) (s : State) : Host.Outcome State Fault Refusal :=
  .next (access s m (.win (Reg.WDN_CMD - winKey) (tag ++ 0x0102#16)))

/-- SET_PWD: OP, TAG and GO written into WDN_CMD (R492, R493). -/
def execSetPwd (m : Master) (tag : Half) (s : State) : Host.Outcome State Fault Refusal :=
  .next (access s m (.win (Reg.WDN_CMD - winKey) (tag ++ 0x0103#16)))

/-- DEAUTH: OP, TAG and GO written into WDN_CMD (R497, R493). -/
def execDeauth (m : Master) (tag : Half) (s : State) : Host.Outcome State Fault Refusal :=
  .next (access s m (.win (Reg.WDN_CMD - winKey) (tag ++ 0x0104#16)))

/-- MGN_ACK: a write of MGN_ACK_0 or MGN_ACK_1 (R507). -/
def execMgnAck (m : Master) (hi : Bool) (v : Word) (s : State) : Host.Outcome State Fault Refusal :=
  .next (access s m (.write (Reg.MGN_ACK hi.toNat) .all v .clean))

/-- MGN_CLR: a write of MGN_CLR_0 or MGN_CLR_1 (R513). -/
def execMgnClr (m : Master) (hi : Bool) (v : Word) (s : State) : Host.Outcome State Fault Refusal :=
  .next (access s m (.write (Reg.MGN_CLR hi.toNat) .all v .clean))

/-- REARM: a write of MGN_FIRST with REARM at 1 (R518). -/
def execRearm (m : Master) (v : Word) (s : State) : Host.Outcome State Fault Refusal :=
  .next (access s m (.write Reg.MGN_FIRST .all (v ||| 0x10000#32) .clean))

/-- MGN_INJ_GO: a write of MGN_INJ with GO at 1 (R522). -/
def execMgnInjGo (m : Master) (v : Word) (s : State) : Host.Outcome State Fault Refusal :=
  .next (access s m (.write Reg.MGN_INJ .all (v ||| 0x1000#32) .clean))

/-- HST_MB_SEL: a write of that register (R541). -/
def execHstMbSel (m : Master) (v : Word) (s : State) : Host.Outcome State Fault Refusal :=
  .next (access s m (.write Reg.HST_MB_SEL .all v .clean))

/-- HST_Q_WR: a write of HST_Q_WR_q (R545). -/
def execHstQWr (m : Master) (q : Fin 8) (v : Word) (s : State) : Host.Outcome State Fault Refusal :=
  .next (access s m (.write (Reg.HST_Q_WR q) .all v .clean))

/-- QUEUE_RESET: a write of HST_Q_CTL_q with RESET at 1 (R548). -/
def execQueueReset (m : Master) (q : Fin 8) (v : Word) (s : State) : Host.Outcome State Fault Refusal :=
  .next (access s m (.write (Reg.HST_Q_CTL q) .all (v ||| 2#32) .clean))

/-- HST_DOORBELL: a write of that register (R550). -/
def execHstDoorbell (m : Master) (v : Word) (s : State) : Host.Outcome State Fault Refusal :=
  .next (access s m (.write Reg.HST_DOORBELL .all v .clean))

/-- HST_HDB: a write of that register (R550). -/
def execHstHdb (m : Master) (v : Word) (s : State) : Host.Outcome State Fault Refusal :=
  .next (access s m (.write Reg.HST_HDB .all v .clean))

/-- PD_OFF: a write of PWR_PD_REQ with OP 1 and GO (R575, R576). -/
def execPdOff (m : Master) (v : Word) (s : State) : Host.Outcome State Fault Refusal :=
  .next (access s m (.write Reg.PWR_PD_REQ .all ((v &&& 0xFFFFFFFC#32) ||| 0x101#32) .clean))

/-- PD_ON: a write of PWR_PD_REQ with OP 2 and GO (R575, R576). -/
def execPdOn (m : Master) (v : Word) (s : State) : Host.Outcome State Fault Refusal :=
  .next (access s m (.write Reg.PWR_PD_REQ .all ((v &&& 0xFFFFFFFC#32) ||| 0x102#32) .clean))

/-- PD_CYCLE: a write of PWR_PD_REQ with OP 3 and GO (R575, R576). -/
def execPdCycle (m : Master) (v : Word) (s : State) : Host.Outcome State Fault Refusal :=
  .next (access s m (.write Reg.PWR_PD_REQ .all ((v &&& 0xFFFFFFFC#32) ||| 0x103#32) .clean))

/-- TMAX_CLR: a write of PWR_CTL with TMAX_CLR at 1 (R579). -/
def execTmaxClr (m : Master) (v : Word) (s : State) : Host.Outcome State Fault Refusal :=
  .next (access s m (.write Reg.PWR_CTL .all (v ||| 2#32) .clean))

/-- VMIN_CLR: a write of PWR_CTL with VMIN_CLR at 1 (R579). -/
def execVminClr (m : Master) (v : Word) (s : State) : Host.Outcome State Fault Refusal :=
  .next (access s m (.write Reg.PWR_CTL .all (v ||| 1#32) .clean))

/-- REGISTER_WRITE: a write of a register or a memory (R526, R530, R531, R535). -/
def execRegisterWrite (m : Master) (addr : Word) (k : Access) (v : Word) (s : State) :
    Host.Outcome State Fault Refusal := .next (access s m (.write addr.toNat k.lanes v k.det))

/-- REGISTER_READ: a read of a register or a memory (R531, R535, R540). -/
def execRegisterRead (m : Master) (addr : Word) (k : Access) (s : State) : Host.Outcome State Fault Refusal :=
  .next (access s m (.read addr.toNat k.lanes k.det))

/-- BIT_ALIAS_WRITE (R537, R538). -/
def execBitAliasWrite (m : Master) (addr : Word) (v : Word) (s : State) : Host.Outcome State Fault Refusal :=
  .next (access s m (.write addr.toNat .all v .clean))

/-- BIT_ALIAS_READ (R537, R538). -/
def execBitAliasRead (m : Master) (addr : Word) (s : State) : Host.Outcome State Fault Refusal :=
  .next (access s m (.read addr.toNat .all .clean))

/-- LBUS_HALF_ACCESS (R529). -/
def execLbusHalfAccess (addr : Word) (k : LbusHalf) (s : State) : Host.Outcome State Fault Refusal :=
  .next (access s 1 (.half addr k.write k.det))

/-- MAILBOX_RELEASE: a read of data word LEN − 1 (R541). -/
def execMailboxRelease (m : Master) (s : State) : Host.Outcome State Fault Refusal :=
  .next (access s m (.read (Reg.HST_MB_D (rdf s (mbStat m) 0 3 - 1)) .all .clean))

/-- MAILBOX_VALID (R541). -/
def execMailboxValid (m : Master) (s : State) : Host.Outcome State Fault Refusal := .next (mbArrives s m)

/-- HST_IND_DATA: an access to that register, with VFUSE in its range or not (R543, R544). -/
def execHstIndData (m : Master) (write : Option Word) (vfuse : Bool) (s : State) : Host.Outcome State Fault Refusal :=
  .next (indAccess s m write vfuse)

/-- FUSE_PROGRAM_DONE (R544). -/
def execFuseProgramDone (m : Master) (s : State) : Host.Outcome State Fault Refusal := .next (fuseDone s m)

/-- SC_LASTING_FAULT (R225, R243). -/
def execScLastingFault (c : Fin 16) (cause : BitVec 4) (addr : Half) (s : State) : Host.Outcome State Fault Refusal :=
  .next (coreFault s c cause addr)

/-- MACHINE_TIMER_INTERRUPT (R244). -/
def execMachineTimerInterrupt (c : Fin 16) (s : State) : Host.Outcome State Fault Refusal := .next (coreTimer s c)

end Sys2Proof.Machine
end

