-- ==== Sys2Proof/Machine/Stroke.lean ====
section
/-! DEFINITION. The marks of the stroke (R14, R29, R50 to R61, R388): what the send mark, the freeze mark and the release
mark bring about. -/

namespace Sys2Proof.Machine

/-! ## The send mark (R51, R52, R386, R388) -/

/-- Marks run, or the controller has a stroke grid that gives it a first one: it leads a cold start, or it follows the
network's (R388, R389). -/
def markDue (s : State) : Bool := marks s || s.pln.grid

/-- PAGE and STROKE at a send mark: the first mark of a cold-start leader begins page 0 (R51, R52, R389). -/
def strokeAdvance (s : State) : State :=
  if !marks s && csState s == 3 then wr s Reg.BSL_STROKE_NUM 0 else wr s Reg.BSL_STROKE_NUM (rd s Reg.BSL_STROKE_NUM + 1)

/-- Baseline at the send mark: the times of both domains are latched at its tick, and MARKS is 1 (R386, R389). -/
def markLatch (s : State) : State :=
  let s := wrb s Reg.BSL_CTL 4 true
  updBase s (fun k => { k with sendTick := s.tick, sendTime := k.next, latch := k.dom })

/-- N becomes N + T (R388). -/
def nextMark (s : State) : State := updBase s (fun k => { k with next := k.next.shift (periodUnits s) })

/-- The announced switch that reaches its boundary with this page (R341, R342). -/
def switchDue (s : State) : Option SwitchSt :=
  match s.pln.sw with
  | some w => if w.announced && pageNo s == pageAfter w.page 2 then some w else none
  | none => none

/-- Changes to service at a page boundary (R119). -/
def modesPage (s : State) : State := forAll (fins 16) s modePage

/-- Masters are appointed from the COLDSTART frames of the last page (R336). -/
def coldPage (s : State) : State := appoint (updPln s (fun p => { p with coldLast := p.cold, cold := [] }))

/-- Page-boundary updates (R51): the switch and full service, memberships, ports and channels, statistics. `pacePs` is
the replica chain's delay measured in the ended page (R73). -/
def pageBoundary (s : State) (pacePs : Half) : State :=
  let w := switchDue s
  let s := match w with
    | some w => switchBoundary s w
    | none => s
  let s := servicePage s w
  let s := switchPage (membersPage s)
  let s := forAll (fins 4) s portPage
  let s := coldPage (channelPage (channelPage s false) true)
  let s := when (pdOn s 10) (modesPage s) (fun s =>
    wr (dctPage (inkPage s (64 * periodNs s))) Reg.INK_PACE_MEAS (pacePs.setWidth 32))
  raiseEvent (scIrqAll (hstIrq (when (lfOn s) s lfPage) 12) 2) 0x03

/-- Node instant of a script in 2^-8 ns. -/
def instantOf (s : State) (k : Fin 8) : Int := match scriptAt s k with | some c => c.instant | none => 0

/-- The latency of the outputs of this stroke's wave, and the flags of the descriptor: a taken switch has its boundary
after this stroke, or had it before this one (R60, R61, R84). -/
def waveLatency (s : State) (crossed : Bool) : State :=
  let last := match s.pln.sw with
    | some w => if w.taken == some true && pageNo s == pageAfter w.page 1 && strokeNo s == 63 then some w.target else none
    | none => none
  let lat : Int := match last with
    | some k => (periodNs s : Int) + shr (instantOf s k - instantOf s (activeScript s)) 8
    | none => periodNs s
  { s with wave := { s.wave with latency := lat.toNat, lastBefore := last.isSome, firstAfter := crossed } }

/-- PERIOD after the boundary of a running switch (R268, R341). -/
def switchPeriod (s : State) : Nat :=
  let now := s.base.period
  match s.pln.sw, s.stw.machine with
  | some w, some m => if w.transition then m.period else now
  | _, _ => now

/-- Failed Ductus slots are tried again in the new stroke (R503). -/
def clearFailed (s : State) : State :=
  updDct s (fun d => { d with slot := d.slot.map (fun k => { k with failed := false }) })

/-- The send mark (R51, R52, R358, R386, R388). -/
def sendMark (s : State) (pacePs : Half) : State :=
  if !markDue s then s
  else
    let s := markLatch (strokeAdvance (newInstant s))
    let s := phaseStroke (phaseStroke (mastersStroke s) false) true
    let crossed := strokeNo s == 0 && ((switchDue s).map (·.taken)) == some (some true)
    let s := when (strokeNo s == 0) s (fun s => pageBoundary s pacePs)
    let s := nextMark s
    let s := waveLatency (clearFailed s) crossed
    let s := updPln s (fun p => { p with sseq := p.sseq + 1, node := p.node.map (fun k => { k with took := false }) })
    let s := { s with wave := { s.wave with frozen := false } }
    folSample (tpStroke (sendTrain s (switchPeriod s))) 2 (s.base.sendTime)

/-! ## The freeze mark (R14, R29, R55) -/

/-- The local channel an axis is routed from delivers a position (R121, R417). -/
def lfDelivers (s : State) (n : Fin 8) : Bool := pdOn s 14 && !rdb s (Reg.LF_STAT n) 31

/-- Words 0 to 2 of a routed axis: the latched count with fraction 0 (R121, R403). -/
def lfWords (s : State) (n : Fin 8) : List Half :=
  let c := rd s (Reg.LF_POS n)
  [0, BitVec.ofNat 16 c.toNat, BitVec.ofNat 16 (c.toNat / 65536)]

/-- The receive side of an axis swaps into its feedback record: words 0 to 6 of a fresh record, and the age (R14, R120,
R326). -/
def axisSwap (s : State) (n : Fin 256) : State :=
  let a := s.ax[n]
  let c := s.axcfg[n]
  let fresh := a.fresh && (match c.lf with | some k => lfDelivers s k | none => true)
  let age := if fresh then 0 else satN 8 (a.fbAge + 1)
  let words := match c.lf with
    | some k => lfWords s k ++ a.fbIn.toList.drop 3
    | none => a.fbIn.toList
  let s := updAx s n (fun a => { a with fresh := false, fbAge := age })
  let s := when fresh s (fun s => putFbFrom s n 0 words)
  putFb s n 7 (BitVec.ofNat 16 age)

/-- The input area swaps for every axis (R14). -/
def inputSwap (s : State) : State := forAll (fins 256) s axisSwap

/-- The switch settles at the freeze mark of stroke 47 (R268, R341). -/
def settlement (s : State) : State :=
  let was := (s.pln.sw.bind (·.taken)).isSome
  let s := switchSettle s
  when (!was && (s.pln.sw.bind (·.taken)).isSome) s transitionSettled

/-- The compute wave begins, in full service or in draft service (R29, R236, R264). In full service with PD10 off no
wave is computed, and every axis sends its last outputs again as repeats (R34, R66). -/
def waveStart (s : State) : State :=
  if fullService s then
    if pdOn s 10 then waveBegin (evalAll s)
    else { s with ax := s.ax.map (fun a => { a with age := true }) }
  else if draftService s then draftBegin s
  else s

/-- The freeze mark (R14, R29, R55, R62, R64, R84, R147, R326, R341, R353, R515). -/
def freezeMark (s : State) : State :=
  if !marks s then s
  else
    let s := newInstant s
    let s := inputSwap (waveEnd { s with wave := { s.wave with frozen := true } })
    let s := writeDescriptor s
    let s := bankLoads (bankSwaps (reactionsTake s))
    let s := waveStart s
    let s := raiseEvent (scIrqAll (viewCopy s) 1) 0x01
    let s := folSample s 1 (now s)
    let s := joinQsClears (forAll (members s) s nodeFreeze)
    returnCheck (returnCheck (settlement s) false) true

/-! ## The release mark (R56) -/

/-- The release mark (R36, R56, R66, R69, R346, R370). -/
def releaseMark (s : State) : State :=
  if !marks s then s
  else
    let s := raiseEvent (waveRelease (newInstant s)) 0x02
    let s := folSample s 3 (now s)
    let s := releaseChannel (releaseChannel s false) true
    when (strokeNo s == 63) s joinDecision

/-! ## Meanings -/

/-- SEND_MARK (R388). -/
def execSendMark (pacePs : Half) (s : State) : Host.Outcome State Fault Refusal := .next (sendMark s pacePs)

/-- FREEZE_MARK (R29). -/
def execFreezeMark (s : State) : Host.Outcome State Fault Refusal := .next (freezeMark s)

/-- RELEASE_MARK (R56). -/
def execReleaseMark (s : State) : Host.Outcome State Fault Refusal := .next (releaseMark s)

end Sys2Proof.Machine
end

