-- ==== Sys2Proof/Machine/Dispatch.lean ====
section
/-! DEFINITION. One arm for each command: its meaning. -/

namespace Sys2Proof.Machine

def exec (i : Instr) (s : State) : Host.Outcome State Fault Refusal :=
  match i with
  | .sendMark pacePs => Sys2Proof.Machine.execSendMark pacePs s
  | .nodeInstant => Sys2Proof.Machine.execNodeInstant s
  | .freezeMark => Sys2Proof.Machine.execFreezeMark s
  | .viewPublish => Sys2Proof.Machine.execViewPublish s
  | .releaseMark => Sys2Proof.Machine.execReleaseMark s
  | .axisDispatch e => Sys2Proof.Machine.execAxisDispatch e s
  | .move e det f => Sys2Proof.Machine.execMove e det f s
  | .mpy e det f => Sys2Proof.Machine.execMpy e det f s
  | .mac e det f => Sys2Proof.Machine.execMac e det f s
  | .msu e det f => Sys2Proof.Machine.execMsu e det f s
  | .add e det f => Sys2Proof.Machine.execAdd e det f s
  | .sub e det f => Sys2Proof.Machine.execSub e det f s
  | .adda e det f => Sys2Proof.Machine.execAdda e det f s
  | .suba e det f => Sys2Proof.Machine.execSuba e det f s
  | .lda e det f => Sys2Proof.Machine.execLda e det f s
  | .clr e det f => Sys2Proof.Machine.execClr e det f s
  | .neg e det f => Sys2Proof.Machine.execNeg e det f s
  | .abs e det f => Sys2Proof.Machine.execAbs e det f s
  | .ash e det f => Sys2Proof.Machine.execAsh e det f s
  | .sat e det f => Sys2Proof.Machine.execSat e det f s
  | .clmp e det f => Sys2Proof.Machine.execClmp e det f s
  | .cmp e det f => Sys2Proof.Machine.execCmp e det f s
  | .ld e det reg y a => Sys2Proof.Machine.execLd e det reg y a s
  | .st e det reg y a => Sys2Proof.Machine.execSt e det reg y a s
  | .ldi e det reg imm => Sys2Proof.Machine.execLdi e det reg imm s
  | .movr e det dst src => Sys2Proof.Machine.execMovr e det dst src s
  | .movs e det reg toSpecial spec => Sys2Proof.Machine.execMovs e det reg toSpecial spec s
  | .ldl e det an y a => Sys2Proof.Machine.execLdl e det an y a s
  | .stl e det an y a => Sys2Proof.Machine.execStl e det an y a s
  | .addi e det an imm => Sys2Proof.Machine.execAddi e det an imm s
  | .perr e det an p q inc => Sys2Proof.Machine.execPerr e det an p q inc s
  | .glu e det dd ds gb => Sys2Proof.Machine.execGlu e det dd ds gb s
  | .rot e det inverse hiPair da db dth => Sys2Proof.Machine.execRot e det inverse hiPair da db dth s
  | .jmp e det cond target => Sys2Proof.Machine.execJmp e det cond target s
  | .call e det cond target => Sys2Proof.Machine.execCall e det cond target s
  | .ret e det cond => Sys2Proof.Machine.execRet e det cond s
  | .rep e det c last => Sys2Proof.Machine.execRep e det c last s
  | .fin e det => Sys2Proof.Machine.execFin e det s
  | .instructionIllegal f => Sys2Proof.Machine.execInstructionIllegal f s
  | .handshakeTimeout e => Sys2Proof.Machine.execHandshakeTimeout e s
  | .qeStep m e k => Sys2Proof.Machine.execQeStep m e k s
  | .qeMode m e v => Sys2Proof.Machine.execQeMode m e v s
  | .modeChangeEffect e => Sys2Proof.Machine.execModeChangeEffect e s
  | .inkBankGo m g v => Sys2Proof.Machine.execInkBankGo m g v s
  | .bankImageWrite n w => Sys2Proof.Machine.execBankImageWrite n w s
  | .inkTset m t v => Sys2Proof.Machine.execInkTset m t v s
  | .queuePlacement => Sys2Proof.Machine.execQueuePlacement s
  | .inkTake m c => Sys2Proof.Machine.execInkTake m c s
  | .done m c => Sys2Proof.Machine.execDone m c s
  | .fail m c => Sys2Proof.Machine.execFail m c s
  | .inkLigRingRd m l v => Sys2Proof.Machine.execInkLigRingRd m l v s
  | .slackClear m v => Sys2Proof.Machine.execSlackClear m v s
  | .scRun m c v => Sys2Proof.Machine.execScRun m c v s
  | .scLastingFault c cause addr => Sys2Proof.Machine.execScLastingFault c cause addr s
  | .machineTimerInterrupt c => Sys2Proof.Machine.execMachineTimerInterrupt c s
  | .moveAbs n r => Sys2Proof.Machine.execMoveAbs n r s
  | .moveRel n r => Sys2Proof.Machine.execMoveRel n r s
  | .velocity n r => Sys2Proof.Machine.execVelocity n r s
  | .setLimits n r => Sys2Proof.Machine.execSetLimits n r s
  | .abort n r => Sys2Proof.Machine.execAbort n r s
  | .gearIn n r => Sys2Proof.Machine.execGearIn n r s
  | .gearRatio n r => Sys2Proof.Machine.execGearRatio n r s
  | .phase n r => Sys2Proof.Machine.execPhase n r s
  | .trim n r => Sys2Proof.Machine.execTrim n r s
  | .camIn n r => Sys2Proof.Machine.execCamIn n r s
  | .camSwitch n r => Sys2Proof.Machine.execCamSwitch n r s
  | .disengage n r => Sys2Proof.Machine.execDisengage n r s
  | .stepdir n r => Sys2Proof.Machine.execStepdir n r s
  | .dctPortCommit m c v => Sys2Proof.Machine.execDctPortCommit m c v s
  | .stepTmo n => Sys2Proof.Machine.execStepTmo n s
  | .camArm m t v => Sys2Proof.Machine.execCamArm m t v s
  | .camDisarm m t v => Sys2Proof.Machine.execCamDisarm m t v s
  | .camCheckDone t => Sys2Proof.Machine.execCamCheckDone t s
  | .camCrcCheck t => Sys2Proof.Machine.execCamCrcCheck t s
  | .load m v => Sys2Proof.Machine.execLoad m v s
  | .transition m v => Sys2Proof.Machine.execTransition m v s
  | .restart m v => Sys2Proof.Machine.execRestart m v s
  | .stwDraftJog m v => Sys2Proof.Machine.execStwDraftJog m v s
  | .bootFlashRead dir slotA slotB => Sys2Proof.Machine.execBootFlashRead dir slotA slotB s
  | .loading ok => Sys2Proof.Machine.execLoading ok s
  | .transitionRequest => Sys2Proof.Machine.execTransitionRequest s
  | .reactEffect => Sys2Proof.Machine.execReactEffect s
  | .uplink ch f => Sys2Proof.Machine.execUplink ch f s
  | .driftLoss n => Sys2Proof.Machine.execDriftLoss n s
  | .reference ch f => Sys2Proof.Machine.execReference ch f s
  | .coldstart ch f => Sys2Proof.Machine.execColdstart ch f s
  | .joinReq ch f => Sys2Proof.Machine.execJoinReq ch f s
  | .acycRsp ch f => Sys2Proof.Machine.execAcycRsp ch f s
  | .setpointReturn ch f => Sys2Proof.Machine.execSetpointReturn ch f s
  | .frameForward p f residence => Sys2Proof.Machine.execFrameForward p f residence s
  | .delayRequest p seq => Sys2Proof.Machine.execDelayRequest p seq s
  | .delayResponse p seq elapsed => Sys2Proof.Machine.execDelayResponse p seq elapsed s
  | .laneSync p lanes aligned => Sys2Proof.Machine.execLaneSync p lanes aligned s
  | .portUp p => Sys2Proof.Machine.execPortUp p s
  | .portDown p => Sys2Proof.Machine.execPortDown p s
  | .wrapLeave ch => Sys2Proof.Machine.execWrapLeave ch s
  | .acycResend n => Sys2Proof.Machine.execAcycResend n s
  | .acycBusyResend n => Sys2Proof.Machine.execAcycBusyResend n s
  | .plnAcqWr m q v => Sys2Proof.Machine.execPlnAcqWr m q v s
  | .plnSwGo m v => Sys2Proof.Machine.execPlnSwGo m v s
  | .resume m v => Sys2Proof.Machine.execResume m v s
  | .remove m v => Sys2Proof.Machine.execRemove m v s
  | .joinFail n => Sys2Proof.Machine.execJoinFail n s
  | .coldStartListen => Sys2Proof.Machine.execColdStartListen s
  | .coldStartWait => Sys2Proof.Machine.execColdStartWait s
  | .leadershipEnd => Sys2Proof.Machine.execLeadershipEnd s
  | .activeDomainChange => Sys2Proof.Machine.execActiveDomainChange s
  | .holdover => Sys2Proof.Machine.execHoldover s
  | .withdraw m v => Sys2Proof.Machine.execWithdraw m v s
  | .rejoin m v => Sys2Proof.Machine.execRejoin m v s
  | .inc m domB v => Sys2Proof.Machine.execInc m domB v s
  | .bslSetGo m v => Sys2Proof.Machine.execBslSetGo m v s
  | .servo => Sys2Proof.Machine.execServo s
  | .tpGo m n v => Sys2Proof.Machine.execTpGo m n v s
  | .tpStop m n v => Sys2Proof.Machine.execTpStop m n v s
  | .leadingEdge n => Sys2Proof.Machine.execLeadingEdge n s
  | .trailingEdge n => Sys2Proof.Machine.execTrailingEdge n s
  | .quadratureTransition n a b => Sys2Proof.Machine.execQuadratureTransition n a b s
  | .hallTransition n code => Sys2Proof.Machine.execHallTransition n code s
  | .indexEvent n => Sys2Proof.Machine.execIndexEvent n s
  | .ssiFrame n startLow raw errBit => Sys2Proof.Machine.execSsiFrame n startLow raw errBit s
  | .stepEdge n level b => Sys2Proof.Machine.execStepEdge n level b s
  | .lfClr m v => Sys2Proof.Machine.execLfClr m v s
  | .capture n level => Sys2Proof.Machine.execCapture n level s
  | .folArm m v => Sys2Proof.Machine.execFolArm m v s
  | .folStop m v => Sys2Proof.Machine.execFolStop m v s
  | .folForce m v => Sys2Proof.Machine.execFolForce m v s
  | .traceEntryWrite => Sys2Proof.Machine.execTraceEntryWrite s
  | .sbMode m k v => Sys2Proof.Machine.execSbMode m k v s
  | .push m k v => Sys2Proof.Machine.execPush m k v s
  | .urgReq m k v => Sys2Proof.Machine.execUrgReq m k v s
  | .cancelHead m k v => Sys2Proof.Machine.execCancelHead m k v s
  | .cancelUrg m k v => Sys2Proof.Machine.execCancelUrg m k v s
  | .flush m k v => Sys2Proof.Machine.execFlush m k v s
  | .recover m k v => Sys2Proof.Machine.execRecover m k v s
  | .recoveryEnd k => Sys2Proof.Machine.execRecoveryEnd k s
  | .frameSent f => Sys2Proof.Machine.execFrameSent f s
  | .arbitrationLost k => Sys2Proof.Machine.execArbitrationLost k s
  | .busError k err dataPhase transmitter primary => Sys2Proof.Machine.execBusError k err dataPhase transmitter primary s
  | .frameReceived k f => Sys2Proof.Machine.execFrameReceived k f s
  | .sbRxacq m k v => Sys2Proof.Machine.execSbRxacq m k v s
  | .sbRxrel m k v => Sys2Proof.Machine.execSbRxrel m k v s
  | .sealTick l => Sys2Proof.Machine.execSealTick l s
  | .wardenCycle => Sys2Proof.Machine.execWardenCycle s
  | .discrepancyFault p => Sys2Proof.Machine.execDiscrepancyFault p s
  | .offDelayExpiry o => Sys2Proof.Machine.execOffDelayExpiry o s
  | .readbackFault o => Sys2Proof.Machine.execReadbackFault o s
  | .offPulseTest o => Sys2Proof.Machine.execOffPulseTest o s
  | .offPulseFault o => Sys2Proof.Machine.execOffPulseFault o s
  | .heartbeat sender h => Sys2Proof.Machine.execHeartbeat sender h s
  | .heartbeatMissing seenBy => Sys2Proof.Machine.execHeartbeatMissing seenBy s
  | .tickLoss => Sys2Proof.Machine.execTickLoss s
  | .srstNPress lowMs => Sys2Proof.Machine.execSrstNPress lowMs s
  | .auth m tag => Sys2Proof.Machine.execAuth m tag s
  | .commit m tag => Sys2Proof.Machine.execCommit m tag s
  | .setPwd m tag => Sys2Proof.Machine.execSetPwd m tag s
  | .deauth m tag => Sys2Proof.Machine.execDeauth m tag s
  | .authorisationExpiry => Sys2Proof.Machine.execAuthorisationExpiry s
  | .authRefusalEnd => Sys2Proof.Machine.execAuthRefusalEnd s
  | .nodeStoFeedback n => Sys2Proof.Machine.execNodeStoFeedback n s
  | .marginSafeStop => Sys2Proof.Machine.execMarginSafeStop s
  | .vsafePowerOn => Sys2Proof.Machine.execVsafePowerOn s
  | .ledgerCheck => Sys2Proof.Machine.execLedgerCheck s
  | .ledgerQueueWrite => Sys2Proof.Machine.execLedgerQueueWrite s
  | .vsafeFault => Sys2Proof.Machine.execVsafeFault s
  | .sourceAssertion src detail => Sys2Proof.Machine.execSourceAssertion src detail s
  | .graceEnd c => Sys2Proof.Machine.execGraceEnd c s
  | .escalation c => Sys2Proof.Machine.execEscalation c s
  | .wiringFault pair => Sys2Proof.Machine.execWiringFault pair s
  | .mgnAck m hi v => Sys2Proof.Machine.execMgnAck m hi v s
  | .mgnClr m hi v => Sys2Proof.Machine.execMgnClr m hi v s
  | .rearm m v => Sys2Proof.Machine.execRearm m v s
  | .mgnInjGo m v => Sys2Proof.Machine.execMgnInjGo m v s
  | .stewardGroupStop g => Sys2Proof.Machine.execStewardGroupStop g s
  | .functionLevelReset => Sys2Proof.Machine.execFunctionLevelReset s
  | .hstMbSel m v => Sys2Proof.Machine.execHstMbSel m v s
  | .mailboxRelease m => Sys2Proof.Machine.execMailboxRelease m s
  | .hstIndData m write vfuse => Sys2Proof.Machine.execHstIndData m write vfuse s
  | .fuseProgramDone m => Sys2Proof.Machine.execFuseProgramDone m s
  | .hstQWr m q v => Sys2Proof.Machine.execHstQWr m q v s
  | .queueEntryTake q => Sys2Proof.Machine.execQueueEntryTake q s
  | .nop q en => Sys2Proof.Machine.execNop q en s
  | .ductus q en => Sys2Proof.Machine.execDuctus q en s
  | .bankLoad q en => Sys2Proof.Machine.execBankLoad q en s
  | .bankSwap q en => Sys2Proof.Machine.execBankSwap q en s
  | .switch q en => Sys2Proof.Machine.execSwitch q en s
  | .queueReset m q v => Sys2Proof.Machine.execQueueReset m q v s
  | .hstDoorbell m v => Sys2Proof.Machine.execHstDoorbell m v s
  | .hstHdb m v => Sys2Proof.Machine.execHstHdb m v s
  | .bitAliasWrite m addr v => Sys2Proof.Machine.execBitAliasWrite m addr v s
  | .bitAliasRead m addr => Sys2Proof.Machine.execBitAliasRead m addr s
  | .lbusHalfAccess addr k => Sys2Proof.Machine.execLbusHalfAccess addr k s
  | .registerWrite m addr k v => Sys2Proof.Machine.execRegisterWrite m addr k v s
  | .powerOnReset vioInRange => Sys2Proof.Machine.execPowerOnReset vioInRange s
  | .porRelease testEn bootHost => Sys2Proof.Machine.execPorRelease testEn bootHost s
  | .nrstPress => Sys2Proof.Machine.execNrstPress s
  | .nrstResetEnd testEn bootHost => Sys2Proof.Machine.execNrstResetEnd testEn bootHost s
  | .nrstArmed => Sys2Proof.Machine.execNrstArmed s
  | .nrstStuck => Sys2Proof.Machine.execNrstStuck s
  | .pePerstN level => Sys2Proof.Machine.execPePerstN level s
  | .brownOutWarningRise => Sys2Proof.Machine.execBrownOutWarningRise s
  | .brownOutWarningFall => Sys2Proof.Machine.execBrownOutWarningFall s
  | .refclkLost => Sys2Proof.Machine.execRefclkLost s
  | .refclkRestored => Sys2Proof.Machine.execRefclkRestored s
  | .sdrefLost => Sys2Proof.Machine.execSdrefLost s
  | .tempHi above => Sys2Proof.Machine.execTempHi above s
  | .pdOff m v => Sys2Proof.Machine.execPdOff m v s
  | .pdOn m v => Sys2Proof.Machine.execPdOn m v s
  | .pdCycle m v => Sys2Proof.Machine.execPdCycle m v s
  | .pdSwitchDone => Sys2Proof.Machine.execPdSwitchDone s
  | .tmaxClr m v => Sys2Proof.Machine.execTmaxClr m v s
  | .vminClr m v => Sys2Proof.Machine.execVminClr m v s
  | .registerRead m addr k => Sys2Proof.Machine.execRegisterRead m addr k s
  | .mailboxValid m => Sys2Proof.Machine.execMailboxValid m s
  | .sdrefRestored => Sys2Proof.Machine.execSdrefRestored s
  | .vsafeOkChange ok => Sys2Proof.Machine.execVsafeOkChange ok s
  | .offPulseEnd o => Sys2Proof.Machine.execOffPulseEnd o s
  | .arbitrationOpportunity k => Sys2Proof.Machine.execArbitrationOpportunity k s
  | .arbitrationWon k => Sys2Proof.Machine.execArbitrationWon k s
  | .filteredLineChange lfLine idx level => Sys2Proof.Machine.execFilteredLineChange lfLine idx level s
  | .pwrTempUpdate quarterDeg => Sys2Proof.Machine.execPwrTempUpdate quarterDeg s
  | .pwrVcoreSample mv => Sys2Proof.Machine.execPwrVcoreSample mv s

end Sys2Proof.Machine
end

