-- ==== Sys2Proof/Machine/ScribeIsa.lean ====
section
/-! DEFINITION. The instruction set of the Scribe cores: RV32IMAC with its control and status registers. The manual names
the set (R12) and the privileged architecture (R242, R244) and says no more: what stands here is PRESUMED from the
published RISC-V manuals (log entry 97). -/

namespace Sys2Proof.Machine

/-- Register and register, or register and immediate, operations. -/
inductive RvAlu where
  | add | sub | sll | slt | sltu | xor | srl | sra | or | and
  | mul | mulh | mulhsu | mulhu | div | divu | rem | remu
deriving DecidableEq, Repr

/-- Atomic read-modify-write operations on a word. -/
inductive RvAmo where
  | swap | add | xor | and | or | min | max | minu | maxu
deriving DecidableEq, Repr

/-- An instruction of the set, with immediates extended to the word. -/
inductive RvInst where
  | lui (rd : Fin 32) (imm : Word)
  | auipc (rd : Fin 32) (imm : Word)
  | jal (rd : Fin 32) (off : Word)
  | jalr (rd rs1 : Fin 32) (off : Word)
  | branch (f : BitVec 3) (rs1 rs2 : Fin 32) (off : Word)
  | load (f : BitVec 3) (rd rs1 : Fin 32) (off : Word)
  | store (f : BitVec 3) (rs1 rs2 : Fin 32) (off : Word)
  | aluImm (op : RvAlu) (rd rs1 : Fin 32) (imm : Word)
  | alu (op : RvAlu) (rd rs1 rs2 : Fin 32)
  | fence
  | csr (f : BitVec 3) (rd src : Fin 32) (no : BitVec 12)
  | lr (rd rs1 : Fin 32)
  | sc (rd rs1 rs2 : Fin 32)
  | amo (op : RvAmo) (rd rs1 rs2 : Fin 32)
  | ecall
  | ebreak
  | mret
  | wfi
deriving DecidableEq, Repr

/-! ## Arithmetic -/

/-- Result of an operation; a division by zero gives all ones and the dividend as remainder. -/
def rvAlu (op : RvAlu) (a b : Word) : Word :=
  let sh := b.toNat % 32
  match op with
  | .add => a + b
  | .sub => a - b
  | .sll => a <<< sh
  | .slt => if a.toInt < b.toInt then 1 else 0
  | .sltu => if a.toNat < b.toNat then 1 else 0
  | .xor => a ^^^ b
  | .srl => a >>> sh
  | .sra => a.sshiftRight sh
  | .or => a ||| b
  | .and => a &&& b
  | .mul => a * b
  | .mulh => BitVec.ofInt 32 (a.toInt * b.toInt / 2 ^ 32)
  | .mulhsu => BitVec.ofInt 32 (a.toInt * (b.toNat : Int) / 2 ^ 32)
  | .mulhu => BitVec.ofNat 32 (a.toNat * b.toNat / 2 ^ 32)
  | .div => if b = 0 then 0xFFFFFFFF#32 else BitVec.ofInt 32 (a.toInt.tdiv b.toInt)
  | .divu => if b = 0 then 0xFFFFFFFF#32 else BitVec.ofNat 32 (a.toNat / b.toNat)
  | .rem => if b = 0 then a else BitVec.ofInt 32 (a.toInt.tmod b.toInt)
  | .remu => if b = 0 then a else BitVec.ofNat 32 (a.toNat % b.toNat)

/-- What an atomic operation stores, from the word in memory and the register. -/
def rvAmo (op : RvAmo) (old v : Word) : Word :=
  match op with
  | .swap => v
  | .add => old + v
  | .xor => old ^^^ v
  | .and => old &&& v
  | .or => old ||| v
  | .min => if old.toInt ≤ v.toInt then old else v
  | .max => if old.toInt ≤ v.toInt then v else old
  | .minu => if old.toNat ≤ v.toNat then old else v
  | .maxu => if old.toNat ≤ v.toNat then v else old

/-- Whether a branch is taken; none for an unassigned condition. -/
def rvTaken (f : BitVec 3) (a b : Word) : Bool :=
  match f.toNat with
  | 0 => a == b
  | 1 => a != b
  | 4 => decide (a.toInt < b.toInt)
  | 5 => decide (b.toInt ≤ a.toInt)
  | 6 => decide (a.toNat < b.toNat)
  | _ => decide (b.toNat ≤ a.toNat)

/-- Bytes of a load or store by its funct3. -/
def rvWidth (f : BitVec 3) : Nat := if f.toNat % 4 = 0 then 1 else if f.toNat % 4 = 1 then 2 else 4

/-- The value a load leaves: the addressed bytes of the word, extended by sign or by zeros. -/
def rvLoaded (f : BitVec 3) (a : Nat) (w : Word) : Word :=
  let v := w >>> (8 * (a % 4))
  match f.toNat with
  | 0 => (v.setWidth 8).signExtend 32
  | 1 => (v.setWidth 16).signExtend 32
  | 4 => (v.setWidth 8).setWidth 32
  | 5 => (v.setWidth 16).setWidth 32
  | _ => w

/-- The word that a store puts on the byte lanes. -/
def rvStored (f : BitVec 3) (v : Word) : Word :=
  match rvWidth f with
  | 1 => BitVec.ofNat 32 (v.toNat % 256 * 0x1010101)
  | 2 => BitVec.ofNat 32 (v.toNat % 65536 * 0x10001)
  | _ => v

/-- The byte lanes of a load or store at `a`. -/
def rvLanes (f : BitVec 3) (a : Nat) : Lanes :=
  match rvWidth f with
  | 1 => .some (BitVec.ofNat 4 (2 ^ (a % 4)))
  | 2 => .some (BitVec.ofNat 4 (3 * 2 ^ (a % 4)))
  | _ => .all

/-! ## Decoding of 32-bit instructions -/

/-- A register number at bit `lo`. -/
def rvReg (w : Word) (lo : Nat) : Fin 32 := Fin.ofNat 32 (fld w lo 5)

/-- A value of `n` bits, read as signed. -/
def rvSext (n v : Nat) : Word := BitVec.ofInt 32 (signedOf n v)

def rvImmI (w : Word) : Word := rvSext 12 (fld w 20 12)
def rvImmS (w : Word) : Word := rvSext 12 (fld w 25 7 * 32 + fld w 7 5)
def rvImmB (w : Word) : Word :=
  rvSext 13 (fld w 31 1 * 2 ^ 12 + fld w 7 1 * 2 ^ 11 + fld w 25 6 * 2 ^ 5 + fld w 8 4 * 2)
def rvImmU (w : Word) : Word := w &&& 0xFFFFF000#32
def rvImmJ (w : Word) : Word :=
  rvSext 21 (fld w 31 1 * 2 ^ 20 + fld w 12 8 * 2 ^ 12 + fld w 20 1 * 2 ^ 11 + fld w 21 10 * 2)

/-- The operation of funct3 in the base set, with the alternative of bit 30. -/
def rvBase (f : Nat) (alt : Bool) : Option RvAlu :=
  match f, alt with
  | 0, false => some .add
  | 0, true => some .sub
  | 1, false => some .sll
  | 2, false => some .slt
  | 3, false => some .sltu
  | 4, false => some .xor
  | 5, false => some .srl
  | 5, true => some .sra
  | 6, false => some .or
  | 7, false => some .and
  | _, _ => none

/-- The operation of funct3 in the M extension. -/
def rvMul (f : Nat) : RvAlu :=
  match f with
  | 0 => .mul
  | 1 => .mulh
  | 2 => .mulhsu
  | 3 => .mulhu
  | 4 => .div
  | 5 => .divu
  | 6 => .rem
  | _ => .remu

/-- The atomic operation of funct5. -/
def rvAmoOp (f : Nat) : Option RvAmo :=
  match f with
  | 0 => some .add
  | 1 => some .swap
  | 4 => some .xor
  | 8 => some .or
  | 12 => some .and
  | 16 => some .min
  | 20 => some .max
  | 24 => some .minu
  | 28 => some .maxu
  | _ => none

/-- Opcode OP-IMM. -/
def rvDecodeImm (w : Word) : Option RvInst :=
  let f := fld w 12 3
  let top := fld w 25 7
  if f = 1 ∨ f = 5 then
    if top = 0 ∨ (f = 5 ∧ top = 0x20) then
      (rvBase f (top == 0x20)).map (fun o => .aluImm o (rvReg w 7) (rvReg w 15) (BitVec.ofNat 32 (fld w 20 5)))
    else none
  else (rvBase f false).map (fun o => .aluImm o (rvReg w 7) (rvReg w 15) (rvImmI w))

/-- Opcode OP. -/
def rvDecodeOp (w : Word) : Option RvInst :=
  let f := fld w 12 3
  match fld w 25 7 with
  | 0 => (rvBase f false).map (fun o => .alu o (rvReg w 7) (rvReg w 15) (rvReg w 20))
  | 0x20 => (rvBase f true).map (fun o => .alu o (rvReg w 7) (rvReg w 15) (rvReg w 20))
  | 1 => some (.alu (rvMul f) (rvReg w 7) (rvReg w 15) (rvReg w 20))
  | _ => none

/-- Opcode AMO. -/
def rvDecodeAmo (w : Word) : Option RvInst :=
  if fld w 12 3 ≠ 2 then none
  else match fld w 27 5 with
    | 2 => if fld w 20 5 = 0 then some (.lr (rvReg w 7) (rvReg w 15)) else none
    | 3 => some (.sc (rvReg w 7) (rvReg w 15) (rvReg w 20))
    | k => (rvAmoOp k).map (fun o => .amo o (rvReg w 7) (rvReg w 15) (rvReg w 20))

/-- Opcode SYSTEM. -/
def rvDecodeSystem (w : Word) : Option RvInst :=
  let f := fld w 12 3
  if f = 0 then
    if w = 0x00000073#32 then some .ecall
    else if w = 0x00100073#32 then some .ebreak
    else if w = 0x30200073#32 then some .mret
    else if w = 0x10500073#32 then some .wfi
    else none
  else if f = 4 then none
  else some (.csr (BitVec.ofNat 3 f) (rvReg w 7) (rvReg w 15) (BitVec.ofNat 12 (fld w 20 12)))

/-- A 32-bit instruction; none is illegal. -/
def rvDecode (w : Word) : Option RvInst :=
  let f := fld w 12 3
  let f3 := BitVec.ofNat 3 f
  match fld w 0 7 with
  | 0x37 => some (.lui (rvReg w 7) (rvImmU w))
  | 0x17 => some (.auipc (rvReg w 7) (rvImmU w))
  | 0x6F => some (.jal (rvReg w 7) (rvImmJ w))
  | 0x67 => if f = 0 then some (.jalr (rvReg w 7) (rvReg w 15) (rvImmI w)) else none
  | 0x63 => if f = 2 ∨ f = 3 then none else some (.branch f3 (rvReg w 15) (rvReg w 20) (rvImmB w))
  | 0x03 => if f ≤ 2 ∨ f = 4 ∨ f = 5 then some (.load f3 (rvReg w 7) (rvReg w 15) (rvImmI w)) else none
  | 0x23 => if f ≤ 2 then some (.store f3 (rvReg w 15) (rvReg w 20) (rvImmS w)) else none
  | 0x13 => rvDecodeImm w
  | 0x33 => rvDecodeOp w
  | 0x0F => if f ≤ 1 then some .fence else none
  | 0x2F => rvDecodeAmo w
  | 0x73 => rvDecodeSystem w
  | _ => none

/-! ## Decoding of 16-bit instructions -/

def rvcFld (h : Half) (lo n : Nat) : Nat := h.toNat / 2 ^ lo % 2 ^ n
/-- A register of the short numbering: x8 to x15. -/
def rvcReg (h : Half) (lo : Nat) : Fin 32 := Fin.ofNat 32 (8 + rvcFld h lo 3)
def rvcFull (h : Half) (lo : Nat) : Fin 32 := Fin.ofNat 32 (rvcFld h lo 5)

/-- The signed 6-bit immediate. -/
def rvcImm6 (h : Half) : Word := rvSext 6 (rvcFld h 12 1 * 32 + rvcFld h 2 5)
/-- The offset of C.LW and C.SW. -/
def rvcOffW (h : Half) : Word := BitVec.ofNat 32 (rvcFld h 5 1 * 64 + rvcFld h 10 3 * 8 + rvcFld h 6 1 * 4)
/-- The offset of C.J and C.JAL. -/
def rvcOffJ (h : Half) : Word :=
  rvSext 12 (rvcFld h 12 1 * 2048 + rvcFld h 8 1 * 1024 + rvcFld h 9 2 * 256 + rvcFld h 6 1 * 128 + rvcFld h 7 1 * 64
    + rvcFld h 2 1 * 32 + rvcFld h 11 1 * 16 + rvcFld h 3 3 * 2)
/-- The offset of C.BEQZ and C.BNEZ. -/
def rvcOffB (h : Half) : Word :=
  rvSext 9 (rvcFld h 12 1 * 256 + rvcFld h 5 2 * 64 + rvcFld h 2 1 * 32 + rvcFld h 10 2 * 8 + rvcFld h 3 2 * 2)

/-- Quadrant 0. -/
def rvcZero (h : Half) : Option RvInst :=
  match rvcFld h 13 3 with
  | 0 =>
    let imm := rvcFld h 7 4 * 64 + rvcFld h 11 2 * 16 + rvcFld h 5 1 * 8 + rvcFld h 6 1 * 4
    if imm = 0 then none else some (.aluImm .add (rvcReg h 2) 2 (BitVec.ofNat 32 imm))
  | 2 => some (.load 2 (rvcReg h 2) (rvcReg h 7) (rvcOffW h))
  | 6 => some (.store 2 (rvcReg h 7) (rvcReg h 2) (rvcOffW h))
  | _ => none

/-- The operations on x8 to x15 of quadrant 1. -/
def rvcAlu (h : Half) : Option RvInst :=
  let r := rvcReg h 7
  match rvcFld h 10 2 with
  | 0 => if rvcFld h 12 1 = 1 then none else some (.aluImm .srl r r (BitVec.ofNat 32 (rvcFld h 2 5)))
  | 1 => if rvcFld h 12 1 = 1 then none else some (.aluImm .sra r r (BitVec.ofNat 32 (rvcFld h 2 5)))
  | 2 => some (.aluImm .and r r (rvcImm6 h))
  | _ =>
    if rvcFld h 12 1 = 1 then none
    else
      let op : RvAlu := match rvcFld h 5 2 with
        | 0 => .sub
        | 1 => .xor
        | 2 => .or
        | _ => .and
      some (.alu op r r (rvcReg h 2))

/-- C.ADDI16SP and C.LUI. -/
def rvcLui (h : Half) : Option RvInst :=
  if rvcFull h 7 = 2 then
    let imm := rvcFld h 12 1 * 512 + rvcFld h 3 2 * 128 + rvcFld h 5 1 * 64 + rvcFld h 2 1 * 32 + rvcFld h 6 1 * 16
    if imm = 0 then none else some (.aluImm .add 2 2 (rvSext 10 imm))
  else if rvcFld h 12 1 = 0 ∧ rvcFld h 2 5 = 0 then none
  else some (.lui (rvcFull h 7) (rvcImm6 h <<< 12))

/-- Quadrant 1. -/
def rvcOne (h : Half) : Option RvInst :=
  match rvcFld h 13 3 with
  | 0 => some (.aluImm .add (rvcFull h 7) (rvcFull h 7) (rvcImm6 h))
  | 1 => some (.jal 1 (rvcOffJ h))
  | 2 => some (.aluImm .add (rvcFull h 7) 0 (rvcImm6 h))
  | 3 => rvcLui h
  | 4 => rvcAlu h
  | 5 => some (.jal 0 (rvcOffJ h))
  | 6 => some (.branch 0 (rvcReg h 7) 0 (rvcOffB h))
  | _ => some (.branch 1 (rvcReg h 7) 0 (rvcOffB h))

/-- C.JR, C.MV, C.EBREAK, C.JALR and C.ADD. -/
def rvcJump (h : Half) : Option RvInst :=
  let r := rvcFull h 7
  let q := rvcFull h 2
  if rvcFld h 12 1 = 0 then
    if q = 0 then (if r = 0 then none else some (.jalr 0 r 0)) else some (.alu .add r 0 q)
  else if q = 0 then (if r = 0 then some .ebreak else some (.jalr 1 r 0))
  else some (.alu .add r r q)

/-- Quadrant 2. -/
def rvcTwo (h : Half) : Option RvInst :=
  match rvcFld h 13 3 with
  | 0 => if rvcFld h 12 1 = 1 then none
    else some (.aluImm .sll (rvcFull h 7) (rvcFull h 7) (BitVec.ofNat 32 (rvcFld h 2 5)))
  | 2 => if rvcFull h 7 = 0 then none
    else some (.load 2 (rvcFull h 7) 2 (BitVec.ofNat 32 (rvcFld h 2 2 * 64 + rvcFld h 12 1 * 32 + rvcFld h 4 3 * 4)))
  | 4 => rvcJump h
  | 6 => some (.store 2 2 (rvcFull h 2) (BitVec.ofNat 32 (rvcFld h 7 2 * 64 + rvcFld h 9 4 * 4)))
  | _ => none

/-- A 16-bit instruction; none is illegal. -/
def rvCompressed (h : Half) : Option RvInst :=
  match rvcFld h 0 2 with
  | 0 => rvcZero h
  | 1 => rvcOne h
  | 2 => rvcTwo h
  | _ => none

/-! ## Registers -/

/-- Register `r`; x0 reads 0. -/
def Hart.get (h : Hart) (r : Fin 32) : Word := if r = 0 then 0 else h.x[r]

/-- Register `r` written; a write to x0 is lost. -/
def Hart.set (h : Hart) (r : Fin 32) (v : Word) : Hart := if r = 0 then h else { h with x := h.x.put r v }

/-- An instruction completes, and the next stands at `pc`. -/
def Hart.retire (h : Hart) (pc : Word) : Hart := { h with pc := pc, minstret := h.minstret + 1 }

/-! ## Control and status registers -/

/-- The interrupts a core has: software, timer and external. -/
def hartInts : Word := 0x888#32

/-- mstatus: MIE, MPIE, and MPP, which reads machine mode. -/
def hartStatus (h : Hart) : Word :=
  BitVec.ofNat 32 (0x1800 + 2 ^ 3 * h.mie.toNat + 2 ^ 7 * h.mpie.toNat)

/-- The counters, events and protection registers that read 0 and take no write. -/
def csrZero (no : Nat) : Bool :=
  no == 0x310 || no == 0x320 || decide (0x323 ≤ no ∧ no < 0x340) || decide (0xB03 ≤ no ∧ no < 0xB20)
    || decide (0xB83 ≤ no ∧ no < 0xBA0) || decide (0x3A0 ≤ no ∧ no < 0x3F0) || no == 0xF15

/-- A register's value; none where no such register stands. -/
def csrRead (h : Hart) (id : Nat) (mip cycle : Word) (no : Nat) : Option Word :=
  match no with
  | 0x300 => some (hartStatus h)
  | 0x301 => some 0x40001105#32
  | 0x304 => some h.ie
  | 0x305 => some h.mtvec
  | 0x340 => some h.mscratch
  | 0x341 => some h.mepc
  | 0x342 => some h.mcause
  | 0x343 => some h.mtval
  | 0x344 => some mip
  | 0xB00 => some cycle
  | 0xB80 => some cycle
  | 0xB02 => some (h.minstret.setWidth 32)
  | 0xB82 => some (h.minstret.extractLsb' 32 32)
  | 0xF11 => some (Config.scribeId 0)
  | 0xF12 => some (Config.scribeId 1)
  | 0xF13 => some (Config.scribeId 2)
  | 0xF14 => some (BitVec.ofNat 32 id)
  | _ => if csrZero no then some 0 else none

/-- A register written. -/
def csrWrite (h : Hart) (no : Nat) (v : Word) : Hart :=
  match no with
  | 0x300 => { h with mie := bit v 3, mpie := bit v 7 }
  | 0x304 => { h with ie := v &&& hartInts }
  | 0x305 => { h with mtvec := v &&& 0xFFFFFFFD#32 }
  | 0x340 => { h with mscratch := v }
  | 0x341 => { h with mepc := v &&& 0xFFFFFFFE#32 }
  | 0x342 => { h with mcause := v }
  | 0x343 => { h with mtval := v }
  | 0xB02 => { h with minstret := h.minstret.extractLsb' 32 32 ++ v }
  | 0xB82 => { h with minstret := v ++ h.minstret.setWidth 32 }
  | _ => h

/-- What a CSR instruction leaves in the register; none where it does not write it. -/
def csrNew (f : BitVec 3) (src : Fin 32) (old v : Word) : Option Word :=
  match f.toNat % 4 with
  | 1 => some v
  | 2 => if src = 0 then none else some (old ||| v)
  | _ => if src = 0 then none else some (old &&& ~~~v)

end Sys2Proof.Machine
end

