-- ==== Sys2Proof/Machine/Scribe.lean ====
section
/-! DEFINITION. The run of the Scribe cores: fetch, loads and stores through the bus, traps and interrupts (R12, R241 to
R246; log entry 97), and what a step does when no command waits. -/

namespace Sys2Proof.Machine

/-- The bus master that core `c` is (R532). -/
def hartMaster (c : Fin 16) : Master := Fin.ofNat 21 (c.val + 2)

def hartOf (s : State) (c : Fin 16) : Hart := s.ink.core[c].hart

/-! ## Fetch -/

/-- The half at an address of the core's view, where it is memory of the Scriptorium or of a core and the access is
granted. -/
def fetchHalf (s : State) (c : Fin 16) (a : Word) : Option Half :=
  match reached s (hartMaster c) false a.toNat .all with
  | some (.mem b) => some (if b % 4 < 2 then (mrd32 s (b / 4 * 4)).setWidth 16 else (mrd32 s (b / 4 * 4)).extractLsb' 16 16)
  | _ => none

/-- A fetch that finds no memory, or is refused: the instruction access fault (R241, R242). -/
def fetchFault (s : State) (c : Fin 16) (a : Word) : State :=
  match refusal s (hartMaster c) false a.toNat .all with
  | some r => coreRefused (accRecord s (hartMaster c) false r a.toNat) (hartMaster c) 1 a.toNat
  | none => coreTrap s c 1 a

/-! ## Loads, stores and atomic operations -/

/-- What core `c` saw of its last access. -/
def hartResp (s : State) (c : Fin 16) : Resp := s.hst.resp[hartMaster c]

/-- A load that was answered: its register is written, and the core goes on. -/
def hartLoaded (s : State) (c : Fin 16) (l : HartLoad) (w : Word) : State :=
  updHart s c (fun h => { (h.set l.rd (rvLoaded l.f l.addr.toNat w)).retire l.next with load := none })

/-- A load; one that an engine holds stays outstanding (R77). -/
def hartLoad (s : State) (c : Fin 16) (l : HartLoad) : State :=
  if l.addr.toNat % rvWidth l.f ≠ 0 then coreTrap s c 4 l.addr
  else
    let s := busRead s (hartMaster c) l.addr.toNat (rvLanes l.f l.addr.toNat)
    match hartResp s c with
    | .value w => hartLoaded s c l w
    | .none => updHart s c (fun h => { h with load := some l })
    | _ => s

/-- An outstanding load: it ends with the engine's answer, and is made again where no engine holds it any more. -/
def hartWait (s : State) (c : Fin 16) (l : HartLoad) : State :=
  match hartResp s c with
  | .value w => hartLoaded s c l w
  | _ =>
    when (!heldBy s (hartMaster c)) s
      (fun s => updHart s c (fun h => { h with load := none }))

/-- A store. -/
def hartStore (s : State) (c : Fin 16) (f : BitVec 3) (a v next : Word) : State :=
  if a.toNat % rvWidth f ≠ 0 then coreTrap s c 6 a
  else
    let s := busWrite s (hartMaster c) a.toNat (rvLanes f a.toNat) (rvStored f v)
    if hartResp s c = .done then updHart s c (·.retire next) else s

/-- The word of the map that an address of the core's view names, as a reservation keeps it. -/
def resvAddr (c : Fin 16) (a : Word) : Option Nat := (siteOf (hartMaster c) a.toNat).map (fun x => x.2.addr / 4 * 4)

/-- LR.W: a load that reserves the word. -/
def hartLr (s : State) (c : Fin 16) (rd : Fin 32) (a next : Word) : State :=
  let t := hartLoad s c { f := 2, rd := rd, addr := a, next := next }
  if hartResp t c = .refused ∨ a.toNat % 4 ≠ 0 then t else updHart t c (fun h => { h with resv := resvAddr c a })

/-- SC.W: a store where the word is still reserved; the reservation is given up in any case. -/
def hartSc (s : State) (c : Fin 16) (rd : Fin 32) (a v next : Word) : State :=
  if a.toNat % 4 ≠ 0 then coreTrap s c 6 a
  else
    let held := (hartOf s c).resv.isSome && (hartOf s c).resv == resvAddr c a
    let s := updHart s c (fun h => { h with resv := none })
    if !held then updHart s c (fun h => (h.set rd 1).retire next)
    else
      let s := busWrite s (hartMaster c) a.toNat .all v
      if hartResp s c = .done then updHart s c (fun h => (h.set rd 0).retire next) else s

/-- An atomic operation: a read and a write with nothing between them; refused as a store. -/
def hartAmo (s : State) (c : Fin 16) (op : RvAmo) (rd : Fin 32) (a v next : Word) : State :=
  let m := hartMaster c
  if a.toNat % 4 ≠ 0 then coreTrap s c 6 a
  else match refusal s m true a.toNat .all, refusal s m false a.toNat .all with
    | some r, _ => refuse s m true r a.toNat
    | none, some r => refuse s m true r a.toNat
    | none, none =>
      let s := busRead s m a.toNat .all
      match hartResp s c with
      | .value old =>
        let s := busWrite s m a.toNat .all (rvAmo op old v)
        if hartResp s c = .done then updHart s c (fun h => (h.set rd old).retire next) else s
      | _ => s

/-! ## Control and status registers -/

/-- A CSR instruction: an absent register, or a write of a read-only one, is illegal. mcycle counts the cycles of a core
without a clock, so that what it reads is free. -/
def hartCsr (s : State) (c : Fin 16) (f : BitVec 3) (rd src : Fin 32) (no : Nat) (next : Word) : State :=
  let h := hartOf s c
  let t := takeNat s
  let v : Word := if f.toNat < 4 then h.get src else BitVec.ofNat 32 src.val
  match csrRead h c.val (hartMip s c) (BitVec.ofNat 32 t.1) no with
  | none => coreTrap s c 2 0
  | some old =>
    match csrNew f src old v with
    | none => updHart t.2 c (fun h => (h.set rd old).retire next)
    | some w =>
      if 0xC00 ≤ no then coreTrap s c 2 0
      else updHart t.2 c (fun h => csrWrite ((h.set rd old).retire next) no w)

/-! ## One instruction -/

/-- An instruction of `len` bytes at the core's pc. -/
def hartExec (s : State) (c : Fin 16) (i : RvInst) (len : Nat) : State :=
  let h := hartOf s c
  let next := h.pc + BitVec.ofNat 32 len
  let done := fun (f : Hart → Hart) (pc : Word) => updHart s c (fun h => (f h).retire pc)
  match i with
  | .lui rd imm => done (·.set rd imm) next
  | .auipc rd imm => done (·.set rd (h.pc + imm)) next
  | .jal rd off => done (·.set rd next) (h.pc + off)
  | .jalr rd rs1 off => done (·.set rd next) ((h.get rs1 + off) &&& 0xFFFFFFFE#32)
  | .branch f rs1 rs2 off => done id (if rvTaken f (h.get rs1) (h.get rs2) then h.pc + off else next)
  | .load f rd rs1 off => hartLoad s c { f := f, rd := rd, addr := h.get rs1 + off, next := next }
  | .store f rs1 rs2 off => hartStore s c f (h.get rs1 + off) (h.get rs2) next
  | .aluImm op rd rs1 imm => done (·.set rd (rvAlu op (h.get rs1) imm)) next
  | .alu op rd rs1 rs2 => done (·.set rd (rvAlu op (h.get rs1) (h.get rs2))) next
  | .fence => done id next
  | .csr f rd src no => hartCsr s c f rd src no.toNat next
  | .lr rd rs1 => hartLr s c rd (h.get rs1) next
  | .sc rd rs1 rs2 => hartSc s c rd (h.get rs1) (h.get rs2) next
  | .amo op rd rs1 rs2 => hartAmo s c op rd (h.get rs1) (h.get rs2) next
  | .ecall => coreTrap s c 11 0
  | .ebreak => coreTrap s c 3 0
  | .mret => done hartReturn h.mepc
  | .wfi => wrf (done id next) (Reg.SC_STAT c) 28 4 2

/-- The instruction at the core's pc, fetched and run. -/
def hartFetch (s : State) (c : Fin 16) : State :=
  let pc := (hartOf s c).pc
  match fetchHalf s c pc with
  | none => fetchFault s c pc
  | some lo =>
    if lo.toNat % 4 ≠ 3 then
      match rvCompressed lo with
      | some i => hartExec s c i 2
      | none => coreTrap s c 2 0
    else match fetchHalf s c (pc + 2) with
      | none => fetchFault s c (pc + 2)
      | some hi => match rvDecode (hi ++ lo) with
        | some i => hartExec s c i 4
        | none => coreTrap s c 2 0

/-- The cause of the interrupt that a core takes: external before software before timer. -/
def hartInt (w : Word) : Word := BitVec.ofNat 32 (2 ^ 31 + (if bit w 11 then 11 else if bit w 3 then 3 else 7))

/-- One instruction of core `c`, or an interrupt it takes; a core that waits for an interrupt does nothing until one that
it enables is pending. -/
def hartStep (s : State) (c : Fin 16) : State :=
  let s := coreWake s c
  let h := hartOf s c
  let w := hartMip s c &&& h.ie
  if rdf s (Reg.SC_STAT c) 28 4 ≠ 1 then s
  else match h.load with
    | some l => hartWait s c l
    | none =>
      if heldBy s (hartMaster c) then s
      else if h.mie && w != 0 then coreTrap s c (hartInt w) 0 else hartFetch s c

/-- Every live core runs one instruction, the lowest first: that they run at this rate is a DESIGN CHOICE (log entry
97). -/
def coresRun (s : State) : State := forAll (fins 16) s (fun s c => when (coreLive s c) s (fun s => hartStep s c))

/-! ## A step with no command -/

/-- What a step does when no command waits: one Baseline tick, at which the lines are sampled, recovering
service-bus controllers may count a sequence, a stage of bring-up may end, the cores run and accesses that waited take
effect; the power-on reset stops it (R259, R379, R455, R530, R563; log entries 1, 97, 116, 119 and 125). -/
def idle (s : State) : State :=
  if s.pwr.por then s
  else
    let s := forAll (fins 4) (lineSample (baselineTick s)) sbSequence
    forAll (fins 21) (coresRun (stageTick s)) drain

end Sys2Proof.Machine
end

