-- ==== Sys2Proof/Safety.lean ====
section
/-! DEFINITION. What counts as a sound state and a safe step, in the terms the statements use. -/

namespace Sys2Proof.Machine

/-- The register file and the memories stand in canonical form. -/
def State.canon (s : State) : Bool := smWf resetOf s.regs && Memory.wf s.mem && Memory.wf s.wmem

/-- A command leaves `q` waiting, the register file and the memories in canonical form, and every bounded structure
within the bound the spec gives it: three repeat levels (R105) and three return addresses (R108) of an engine, eight
entries of a capture FIFO (R421), 64 entries of the trace FIFO (R430), 256 accepted entries of a host queue (R548). -/
structure Kept (q : List Instr) (s : State) : Prop where
  pending : s.pending = q
  regs : smWf resetOf s.regs = true
  mem : Memory.wf s.mem = true
  wmem : Memory.wf s.wmem = true
  reps : ∀ e : Fin 16, s.eng[e].reps.length ≤ 3
  calls : ∀ e : Fin 16, s.eng[e].calls.length ≤ 3
  fifo : ∀ n : Fin 16, s.cap[n].fifo.length ≤ 8
  trace : s.fol.queue.length ≤ 64
  tags : ∀ n : Fin 8, s.hst.queue[n].tags.length ≤ 256

/-! ## What a command does -/

/-- The command answers a next state, and that state satisfies `p`. -/
def after (c : Instr) (s : State) (p : State → Prop) : Prop := ∃ t, exec c s = .next t ∧ p t

/-- The memory words, the register file and the records that `f` reads are the same in both states. -/
def Same {α : Type} (f : State → α) (s t : State) : Prop := f t = f s

/-- No byte of the memories changed outside `p` (main map) and `w` (behind the windows). -/
def MemoryKept (s t : State) (p w : Nat → Prop) : Prop :=
  (∀ a, ¬ p a → t.mem.read a = s.mem.read a) ∧ (∀ a, ¬ w a → t.wmem.read a = s.wmem.read a)

/-- No register but those that `p` names changed. -/
def RegsKept (s t : State) (p : Nat → Prop) : Prop := ∀ a, ¬ p a → rd t a = rd s a

/-! ## Quill engines -/

/-- The row of a P-format operation. -/
def pRow : POp → Fin 16 → Detect → PFmt → Instr
  | .move => .move | .mpy => .mpy | .mac => .mac | .msu => .msu | .add => .add | .sub => .sub | .adda => .adda
  | .suba => .suba | .lda => .lda | .clr => .clr | .neg => .neg | .abs => .abs | .ash => .ash | .sat => .sat
  | .clmp => .clmp | .cmp => .cmp

/-- The row of an instruction. -/
def rowOf (e : Fin 16) (det : Detect) : QInstr → Instr
  | .par op f => pRow op e det f
  | .ld r y a => .ld e det r y a
  | .st r y a => .st e det r y a
  | .ldi r v => .ldi e det r v
  | .movr d r => .movr e det d r
  | .movs r b c => .movs e det r b c
  | .ldl n y a => .ldl e det n y a
  | .stl n y a => .stl e det n y a
  | .addi n v => .addi e det n v
  | .perr n p q i => .perr e det n p q i
  | .glu d r b => .glu e det d r b
  | .rot i h a b t => .rot e det i h a b t
  | .jmp c t => .jmp e det c t
  | .call c t => .call e det c t
  | .ret c => .ret e det c
  | .rep c l => .rep e det c l
  | .fin => .fin e det

/-- Accumulator `n` takes the saturated `x`, with its flags; the others keep their values (R89, R90). -/
def AccTakes (s : State) (e : Fin 16) (n : Fin 4) (x : Int) (t : State) : Prop :=
  (eng t e).a = (eng s e).a.put n (sat40 x).1 ∧ (eng t e).sr = flagsZNWO (eng s e).sr (sat40 x).1 (sat40 x).2

/-- The registers that a program sees: accumulators, D, X and Y pointers, M, K, gain bases, SR. -/
def progRegs (g : QEng) :=
  (g.a, g.d, g.x, g.y, g.m, g.k, g.gb, g.sr)

/-- What a move field loads into Dd: the memory word at its pointer, where it is a load to Dd (R94). -/
def loaded (s : State) (e : Fin 16) (y : Bool) (mv : Option QMove) (d : Fin 8) : Option Half :=
  mv.bind (fun m => if m.store = false ∧ m.d = d then some (qRead s e y (ptr (eng s e) y m.p)) else none)

/-- Pointer p after a move field (R94). -/
def pointed (g : QEng) (y : Bool) (mv : Option QMove) (p : Fin 4) : BitVec 14 :=
  match mv with
  | some m => if m.p = p then postMod g y p m.mod 1 else ptr g y p
  | none => ptr g y p

/-- The bytes of a data word that a program may store: all but the stroke descriptor (R84). -/
def storeBytes (e : Fin 16) (y : Bool) (w : BitVec 14) (a : Nat) : Prop :=
  (y = true ∨ 16 ≤ w.toNat) ∧ (a = qAddr e y w ∨ a = qAddr e y w + 1)

/-- The bytes that a move field stores. -/
def moveStores (g : QEng) (e : Fin 16) (y : Bool) : Option QMove → Nat → Prop
  | some m => fun a => m.store = true ∧ storeBytes e y (ptr g y m.p) a
  | none => fun _ => False

/-- The bytes that an instruction stores (R94, R98). -/
def instrStores (g : QEng) (e : Fin 16) : QInstr → Nat → Prop
  | .par _ f => fun a => moveStores g e false f.xm a ∨ moveStores g e true f.ym a
  | .st _ y a => storeBytes e y (operandAddr g y a).1
  | .stl _ y a => fun b => storeBytes e y (operandAddr g y a).1 b ∨ storeBytes e y (operandAddr g y a).2 b
  | _ => fun _ => False

/-- The pointer registers with that of a memory operand post-modified, by unit step `u` (R86, R88). -/
def operandMoved (g : QEng) (y : Bool) (u : Int) : QAddr → QEng
  | .ptr p mod =>
    if y then { g with y := g.y.put p (postMod g y p mod u) } else { g with x := g.x.put p (postMod g y p mod u) }
  | .abs _ => g

/-- An instruction that is not a flow instruction (R95). -/
def straight : QInstr → Bool
  | .jmp .. | .call .. | .ret .. | .rep .. | .fin => false
  | .par .. | .ld .. | .st .. | .ldi .. | .movr .. | .movs .. | .ldl .. | .stl .. | .addi .. | .perr .. | .glu ..
  | .rot .. => true

/-- PC and repeat levels when the instruction at `pc` has completed: levels that end there with no iteration left are
popped, innermost first, and the next that ends there returns to its body (R106). -/
def loopsOn (pc : BitVec 12) (reps : List RepLevel) : BitVec 12 × List RepLevel :=
  match reps.dropWhile (fun l => l.last == pc && decide (l.left.toNat ≤ 1)) with
  | [] => (pc + 1, [])
  | l :: r => if l.last = pc then (l.first, { l with left := l.left - 1 } :: r) else (pc + 1, l :: r)

/-- PC and repeat levels past a REP of count 0 with end `e`: the levels that end there with no iteration left are popped,
and the next of them returns to its body, wherever levels with another end stand between (R104). -/
def loopsPast (e : BitVec 12) (reps : List RepLevel) : BitVec 12 × List RepLevel :=
  let again (l : RepLevel) : Bool := l.last == e && decide (1 < l.left.toNat)
  let inner := (reps.takeWhile (fun l => !again l)).filter (fun l => l.last != e)
  match reps.dropWhile (fun l => !again l) with
  | [] => (e + 1, inner)
  | l :: r => (l.first, inner ++ { l with left := l.left - 1 } :: r)

/-- Margin hears a report of source `n`: the domain of its block is on, and no injection forces its pair (R500, R522). -/
def Heard (s : State) (n : Nat) : Prop := srcOn s n = true ∧ forcedMode s n = 0

/-- The program of engine `e` has stopped with `cause`: QE_FAULT takes cause, PC, axis and count, the axis's entry never
completes, and source 0x090 + e is recorded (R112, R114, R118). -/
def StopsWith (s : State) (e : Fin 16) (cause : Nat) (t : State) : Prop :=
  let g := eng s e
  (eng t e).run = .stopped ∧ t.ax[g.axn].ent = .stopped ∧
  rd t (Reg.QE_FAULT e) = BitVec.ofNat 32 (cause * 2 ^ 28 + g.pc.toNat * 2 ^ 16 + g.axn.val * 2 ^ 8
    + min 255 (rdf s (Reg.QE_FAULT e) 0 8 + 1)) ∧
  rdb t (Reg.MGN_SRC ((0x90 + e.val) / 32)) ((0x90 + e.val) % 32) = true

/-- The engine's registers as a program sees them are those of `g`. -/
def Shows (t : State) (e : Fin 16) (g : QEng) : Prop := progRegs (eng t e) = progRegs g

/-! ## Inkwell -/

/-- The ready condition of a task for flags `f` (R214). -/
def condOf (s : State) (t : Fin 512) (f : Word) : Bool :=
  let m := rd s (Reg.INK_TMASK t)
  if rdb s (Reg.INK_TCFG t) 30 then f &&& m == m && m != 0 else f &&& m != 0

/-- The ring index `n` releases after index `w`, in a ring whose LEN field is `len` (R232). -/
def ringAfter (len w : Nat) : Nat → Nat
  | 0 => w
  | n + 1 => ringNext len (ringAfter len w n)

/-! ## Ductus -/

/-- The row of the record with opcode `i + 1` (R175). -/
def dctRow (i : Fin 13) (n : Fin 256) (w : DctParams) : Instr :=
  [Instr.moveAbs n w, .moveRel n w, .velocity n w, .setLimits n w, .abort n w, .gearIn n w, .gearRatio n w, .phase n w,
    .trim n w, .camIn n w, .camSwitch n w, .disengage n w, .stepdir n w][i]

/-- A record with opcode `op` met slot `n` with result `code` (R178, R210). -/
def Resulted (n : Fin 256) (op code : Nat) (t : State) : Prop :=
  rdf t (Reg.DCT_ST n) 16 4 = code ∧ rdf t (Reg.DCT_ST n) 20 4 = op

/-- A record with opcode `op` is taken in to the rules of its own: the slot takes records and holds none for fresh
feedback, the record is well formed, and no reaction turns it away (R172, R175, R178, R516). -/
def Admits (s : State) (n : Fin 256) (op : Nat) (w : DctParams) : Prop :=
  slotOn s n = true ∧ recordWf op w = true ∧ recordBarred s n op = false ∧ (slotOf s n).held = none

/-- A motion record finds fresh feedback where the slot needs it (R172). -/
def Ready (s : State) (n : Fin 256) : Prop := needsResync s n = true → s.ax[n].fbAge = 0

/-! ## Commands that are writes of a register -/

/-- Nothing that master `m` issued before is outstanding: no engine holds a read of it, and no access waits behind one
(R77, R530). -/
def MasterFree (s : State) (m : Master) : Prop := heldBy s m = false ∧ s.hst.wait[m] = []

/-- The bus takes a full write of the register at `a` by master `m`: no reset stands, no reason refuses it, and nothing of
the master's is outstanding (R530 to R534, R562). -/
def Accepted (s : State) (m : Master) (a : Nat) : Prop :=
  busDead s m = false ∧ refusal s m true a .all = none ∧ MasterFree s m

/-- The bus takes a full read of the register at `a` by master `m`. -/
def AcceptedRead (s : State) (m : Master) (a : Nat) : Prop :=
  busDead s m = false ∧ refusal s m false a .all = none ∧ MasterFree s m

/-- The bus takes a full write of the register at `a` by master `m`, and no lock of its fields stands (R531 to R536). -/
def Writable (s : State) (m : Master) (a : Nat) : Prop :=
  Accepted s m a ∧ ∀ r, regRow a = some r → rowLocked s r a = false

/-- A write through a window by master `m` reaches target `t`: no reset stands, the access table admits the master, and
nothing of the master's is outstanding (R530, R533, R543, R562). -/
def WinWritable (s : State) (m : Master) (t : Nat) : Prop :=
  busDead s m = false ∧ denied s m true t = false ∧ MasterFree s m

/-- The access was answered as done. -/
def Answered (t : State) (m : Master) : Prop := t.hst.resp[m] = .done

/-- A row that is a write of a register: its master, the register, the word written, and what the write does once the
word is stored, the register's RWL fields being unlocked. -/
def busAction : Instr → Option (Master × Nat × Word × (State → State))
  | .qeStep m e k => some (m, Reg.QE_CTL e, k.v ||| 0x10#32,
      fun s => setDet (debugStep (modeWrite (setDet s e [k.det, k.retry]) e (BitVec.ofNat 2 (fld k.v 0 2))) e) e [])
  | .qeMode m e v => some (m, Reg.QE_CTL e, v,
      fun s => when (bit v 4) (modeWrite s e (BitVec.ofNat 2 (fld v 0 2))) (fun s => debugStep s e))
  | .inkBankGo m g v => some (m, Reg.INK_BANK g, v ||| 1#32,
      fun s => bankRequest s g (rdb s (Reg.INK_BANK g) 4) (rdb s (Reg.INK_BANK g) 5) .software)
  | .inkTset m t v => some (m, Reg.INK_TSET t, v, fun s => when (decide (256 ≤ t.val)) s (fun s => setFlags s t v))
  | .done m c => some (m, Reg.INK_DONE c, 1#32, fun s => coreDone s c 1#32)
  | .fail m c => some (m, Reg.INK_DONE c, 2#32, fun s => coreDone s c 2#32)
  | .inkLigRingRd m l v => some (m, Reg.INK_LIG_RING l, v, fun s => when (decide (32 ≤ l.val)) s (fun s => ligRun (newInstant s) l))
  | .slackClear m v => some (m, Reg.INK_SLACK_CTL, v ||| 2#32, slackClear)
  | .scRun m c v => some (m, Reg.SC_CTL c, v, fun s => coreRun s c (bit v 0))
  | .dctPortCommit m c v => some (m, Reg.DCT_PORTW c 7, v, fun s => portWrite7 s c v)
  | .camArm m t v => some (m, Reg.DCT_CAM t, (v &&& 0xFFFFBFFF#32) ||| 0x8000#32, fun s => camArm s t)
  | .camDisarm m t v => some (m, Reg.DCT_CAM t, (v &&& 0xFFFF7FFF#32) ||| 0x4000#32, fun s => camDisarm s t)
  | .plnAcqWr m q v => some (m, Reg.PLN_ACQ_WR q, v, ringsTake)
  | .plnSwGo m v => some (m, Reg.PLN_SW_CTL, v ||| 0x100#32,
      fun s => switchRequest s (Fin.ofNat 8 (rdf s Reg.PLN_SW_CTL 0 3)) .software)
  | .resume m v => some (m, Reg.PLN_NODE_CTL, (v &&& 0xFFFFFEFF#32) ||| 0x200#32,
      fun s => resumeNode s (Fin.ofNat 256 (rdf s Reg.PLN_NODE_CTL 0 8)))
  | .remove m v => some (m, Reg.PLN_NODE_CTL, (v &&& 0xFFFFFDFF#32) ||| 0x100#32,
      fun s => removeNode s (Fin.ofNat 256 (rdf s Reg.PLN_NODE_CTL 0 8)))
  | .withdraw m v => some (m, Reg.PLN_CH_CTL, v &&& 0xFFFFFCFF#32, fun s => chCtlWrite s (v &&& 3#32))
  | .rejoin m v => some (m, Reg.PLN_CH_CTL, v &&& 0xFFFFFFFC#32, fun s => chCtlWrite s (v &&& 0x300#32))
  | .inc m b v => some (m, Reg.BSL_INC (domIdx b), v, fun s => setInc s b v.toNat)
  | .bslSetGo m v => some (m, Reg.BSL_SET, v ||| 1#32, bslSet)
  | .tpGo m n v => some (m, Reg.TP_CTL n, v ||| 1#32, fun s => tpGo (when (bit v 2) s (fun s => tpStop s n)) n)
  | .tpStop m n v => some (m, Reg.TP_CTL n, (v &&& 0xFFFFFFFE#32) ||| 4#32, fun s => tpStop s n)
  | .lfClr m v => some (m, Reg.LF_CTL, v, fun s => lfClear s (v &&& 0xFF00#32))
  | .folArm m v => some (m, Reg.FOL_CTL, v ||| 1#32,
      fun s => when (bit v 2) (folArm (when (bit v 1) s folStop)) folForce)
  | .folStop m v => some (m, Reg.FOL_CTL, v ||| 2#32,
      fun s => when (bit v 2) (when (bit v 0) (folStop s) folArm) folForce)
  | .folForce m v => some (m, Reg.FOL_CTL, v ||| 4#32,
      fun s => folForce (when (bit v 0) (when (bit v 1) s folStop) folArm))
  | .sbMode m k v => some (m, Reg.SB_CTL k, v, fun s => sbCtlWrite s k v)
  | .recover m k v => some (m, Reg.SB_CTL k, v ||| 0x200#32, fun s => sbCtlWrite s k (v ||| 0x200#32))
  | .push m k v => some (m, Reg.SB_TXC k, v ||| 1#32, fun s => sbTxcWrite s k ((v ||| 1#32) &&& 0x1F#32))
  | .urgReq m k v => some (m, Reg.SB_TXC k, v ||| 2#32, fun s => sbTxcWrite s k ((v ||| 2#32) &&& 0x1F#32))
  | .cancelHead m k v => some (m, Reg.SB_TXC k, v ||| 4#32, fun s => sbTxcWrite s k ((v ||| 4#32) &&& 0x1F#32))
  | .cancelUrg m k v => some (m, Reg.SB_TXC k, v ||| 8#32, fun s => sbTxcWrite s k ((v ||| 8#32) &&& 0x1F#32))
  | .flush m k v => some (m, Reg.SB_TXC k, v ||| 16#32, fun s => sbTxcWrite s k ((v ||| 16#32) &&& 0x1F#32))
  | .sbRxacq m k v => some (m, Reg.SB_RXACQ k, v, fun s => sbAcquire s k v)
  | .sbRxrel m k v => some (m, Reg.SB_RXREL k, v ||| 1#32, fun s => sbRelease s k)
  | .mgnAck m hi v => some (m, Reg.MGN_ACK hi.toNat, v, fun s => mgnAckWrite s hi v)
  | .mgnClr m hi v => some (m, Reg.MGN_CLR hi.toNat, v, fun s => mgnClrWrite s hi v)
  | .rearm m v => some (m, Reg.MGN_FIRST, v ||| 0x10000#32, fun s => wrb s Reg.MGN_FIRST 31 false)
  | .mgnInjGo m v => some (m, Reg.MGN_INJ, v ||| 0x1000#32, mgnInject)
  | .hstMbSel m v => some (m, Reg.HST_MB_SEL, v, fun s => mbSelect s m (fld v 0 16))
  | .hstQWr m q v => some (m, Reg.HST_Q_WR q, v, fun s => s)
  | .hstDoorbell m v => some (m, Reg.HST_DOORBELL, v, fun s => ringCores s (v &&& 0xFFFF#32))
  | .hstHdb m v => some (m, Reg.HST_HDB, v,
      fun s => when (decide (2 ≤ m.val) && bit (v &&& 0xFFFF#32) (m.val - 2)) s (fun s => hstIrq s (16 + (m.val - 2))))
  | .pdOff m v => some (m, Reg.PWR_PD_REQ, (v &&& 0xFFFFFFFC#32) ||| 0x101#32,
      fun s => pdRequest s ((v &&& 0xFFFFFFFC#32) ||| 0x101#32))
  | .pdOn m v => some (m, Reg.PWR_PD_REQ, (v &&& 0xFFFFFFFC#32) ||| 0x102#32,
      fun s => pdRequest s ((v &&& 0xFFFFFFFC#32) ||| 0x102#32))
  | .pdCycle m v => some (m, Reg.PWR_PD_REQ, (v &&& 0xFFFFFFFC#32) ||| 0x103#32,
      fun s => pdRequest s ((v &&& 0xFFFFFFFC#32) ||| 0x103#32))
  | .tmaxClr m v => some (m, Reg.PWR_CTL, v ||| 2#32, fun s => pwrCtl s ((v ||| 2#32) &&& 3#32))
  | .vminClr m v => some (m, Reg.PWR_CTL, v ||| 1#32, fun s => pwrCtl s ((v ||| 1#32) &&& 3#32))
  | _ => none

/-- A row that is a write through a window: its master, the window address, the word written, and what the write does
once the word is stored. -/
def winAction : Instr → Option (Master × Nat × Word × (State → State))
  | .load m v => some (m, 0x1008, (v &&& 0xFFFFFFF8#32) ||| 1#32, codexLoad)
  | .transition m v => some (m, 0x1008, (v &&& 0xFFFFFFF8#32) ||| 2#32, codexTransition)
  | .restart m v => some (m, 0x1008, (v &&& 0xFFFFFFF8#32) ||| 4#32,
      fun s => codexRestart s ((v &&& 0xFFFFFFF8#32) ||| 4#32))
  | .stwDraftJog m v => some (m, Reg.STW_DRAFT_JOG - winKey, v, fun s => draftJog s v)
  | .auth m tag => some (m, 0x100000, tag ++ 0x0101#16, fun s => wdnGo s m (tag ++ 0x0101#16))
  | .commit m tag => some (m, 0x100000, tag ++ 0x0102#16, fun s => wdnGo s m (tag ++ 0x0102#16))
  | .setPwd m tag => some (m, 0x100000, tag ++ 0x0103#16, fun s => wdnGo s m (tag ++ 0x0103#16))
  | .deauth m tag => some (m, 0x100000, tag ++ 0x0104#16, fun s => wdnGo s m (tag ++ 0x0104#16))
  | _ => none

/-- A step is safe when it answers a next state. -/
def stepSafe (s : State) : Prop := ∃ t, step s = .next t

end Sys2Proof.Machine
end

