-- ==== Sys2Proof/Certificates/Slice0/Obligations.lean ====
section
/-! DEFINITION. The statements about the model, for the provers. -/

open Sys2Proof Sys2Proof.Machine

/-- Every P-format operation that computes in an accumulator, ADDI and PERR write their exact result into An, saturated to
0x7F_FFFF_FFFF or 0x80_0000_0000 where it exceeds 40 bits, with Z, N, W, O and the sticky S of that result, whatever their
move fields; CMP sets the flags of the saturated difference and writes no accumulator (R89, R90, R98, R100). -/
def Obligations.QuillArithmeticWritesSaturatedResult : Prop :=
  (∀ v : Int, (sat40 v).1 = if 2 ^ 39 ≤ v then 0x7FFFFFFFFF#40 else if v < -(2 ^ 39) then 0x8000000000#40
    else BitVec.ofInt 40 v) ∧
  (∀ (s : State) (e : Fin 16) (f : PFmt) (imm : Half) (p q : Fin 4) (inc : Bool), (eng s e).run = .running →
     let g := eng s e
     let a : Int := g.a[f.an].toInt
     let x : Int := g.d[f.s1].toInt
     let y : Int := g.d[f.s2].toInt
     after (.mpy e .clean f) s (AccTakes s e f.an (2 * x * y)) ∧
     after (.mac e .clean f) s (AccTakes s e f.an (a + 2 * x * y)) ∧
     after (.msu e .clean f) s (AccTakes s e f.an (a - 2 * x * y)) ∧
     after (.add e .clean f) s (AccTakes s e f.an (a + x * 2 ^ 16)) ∧
     after (.sub e .clean f) s (AccTakes s e f.an (a - x * 2 ^ 16)) ∧
     after (.adda e .clean f) s (AccTakes s e f.an (a + g.a[Fin.ofNat 4 f.s2.val].toInt)) ∧
     after (.suba e .clean f) s (AccTakes s e f.an (a - g.a[Fin.ofNat 4 f.s2.val].toInt)) ∧
     after (.lda e .clean f) s (AccTakes s e f.an (x * 2 ^ 16)) ∧
     after (.clr e .clean f) s (AccTakes s e f.an 0) ∧
     after (.neg e .clean f) s (AccTakes s e f.an (-a)) ∧
     after (.abs e .clean f) s (AccTakes s e f.an (a.natAbs : Int)) ∧
     after (.ash e .clean f) s (AccTakes s e f.an (scale2 a (ashCount f))) ∧
     after (.addi e .clean f.an imm) s (AccTakes s e f.an (a + imm.toInt * 2 ^ 16)) ∧
     after (.perr e .clean f.an p q inc) s (AccTakes s e f.an (posAt s e false p - posAt s e true q).toInt) ∧
     after (.cmp e .clean f) s (fun t => (eng t e).a = g.a ∧
       (eng t e).sr = flagsZNWO g.sr (sat40 (a - x * 2 ^ 16)).1 (sat40 (a - x * 2 ^ 16)).2))

/-- SAT limits An to the Q1.31 range and CLMP to the range of two D registers, setting S where they limit it; CMP sets
the flags of the saturated difference and writes no accumulator, and MOVE changes neither (R89, R98). -/
def Obligations.QuillLimitsAndCompares : Prop :=
  ∀ (s : State) (e : Fin 16) (f : PFmt), (eng s e).run = .running →
    let g := eng s e
    let a : Int := g.a[f.an].toInt
    let lo : Int := g.d[f.s1].toInt * 2 ^ 16
    let hi : Int := g.d[f.s2].toInt * 2 ^ 16
    let lim (v : Int) (limited : Bool) (t : State) : Prop :=
      (eng t e).a = g.a.put f.an (BitVec.ofInt 40 v) ∧
      (eng t e).sr = flagSticky (flagsZNWO g.sr (BitVec.ofInt 40 v) false) limited
    after (.sat e .clean f) s (lim (min (max a (-(2 ^ 31))) (2 ^ 31 - 1)) (decide (a < -(2 ^ 31) ∨ 2 ^ 31 ≤ a))) ∧
    after (.clmp e .clean f) s (lim (min (max a lo) hi) (decide (a < lo ∨ hi < max a lo))) ∧
    after (.cmp e .clean f) s (fun t => (eng t e).a = g.a ∧
      (eng t e).sr = flagsZNWO g.sr (sat40 (a - lo)).1 (sat40 (a - lo)).2) ∧
    after (.move e .clean f) s (fun t => (eng t e).a = g.a ∧ (eng t e).sr = g.sr)

/-- Each row that is a write of a register, where the bus takes it and the register is not locked, stores the word's
writable bits, then does what its rule says, and is answered as done; ARM and DISARM of a cam table, whose other bits
DCT_CTL.LOCK locks, act under the lock too (R535, R536; the rules of the rows). Each row that is a write through a window,
where no reset stands, the access table of its target admits the master, nothing of the master's is outstanding, and the
master is PCIe or LBUS for WDN_CMD, stores the word's writable bits and does what its rule says, and is answered as done
(R256, R266, R267, R275, R493, R533, R543). That a row forces its own bit of the word, and that a row of a window leaves
HST_IND_ADDR and HST_IND_STAT alone, are the model's choices (log entries 70 and 91). -/
def Obligations.CommandsReachTheirAction : Prop :=
  (∀ (s : State) (c : Instr) (m : Master) (a : Nat) (v : Word) (act : State → State),
     busAction c = some (m, a, v, act) → Accepted s m a →
     ∃ r, regRow a = some r ∧
       (rowLocked s r a = false ∨ (∃ t : Fin 64, a = Reg.DCT_CAM t) →
         exec c s = .next (respond (act (regStore s m a r v)) m .done))) ∧
  (∀ (s : State) (c : Instr) (m : Master) (wa : Nat) (v : Word) (act : State → State),
     winAction c = some (m, wa, v, act) → WinWritable s m (if wa < 0x100000 then 16 else 17) →
     (0x100000 ≤ wa → m.val ≤ 1) →
     ∃ r, regRow (winKey + wa) = some r ∧ rowLocked s r (winKey + wa) = false ∧
       exec c s = .next (respond (act (regStore s m (winKey + wa) r v)) m .done))

/-- The moves of every P-format operation run beside its arithmetic, with every source read first: Dd takes the loaded
word, of two loads of one D register the Y value and MOVE_CONFLICT is set; each pointer is post-modified; a store puts
Dd into memory, but for one to X words 0 to 15, which is discarded and sets DESC_WR; and no other byte and no other
register than QE_STICKY changes (R84, R92, R94, R99). -/
def Obligations.QuillMovesRunBesideTheArithmetic : Prop :=
  ∀ (s : State) (e : Fin 16) (op : POp) (f : PFmt), (eng s e).run = .running →
    let g := eng s e
    after (pRow op e .clean f) s (fun t =>
      (∀ d : Fin 8, (eng t e).d[d] = ((loaded s e true f.ym d).or (loaded s e false f.xm d)).getD g.d[d]) ∧
      (∀ p : Fin 4, (eng t e).x[p] = pointed g false f.xm p ∧ (eng t e).y[p] = pointed g true f.ym p) ∧
      (∀ m, f.xm = some m → m.store = true → 16 ≤ g.x[m.p].toNat → qRead t e false g.x[m.p] = g.d[m.d]) ∧
      (∀ m, f.ym = some m → m.store = true → qRead t e true g.y[m.p] = g.d[m.d]) ∧
      MemoryKept s t (instrStores g e (.par op f)) (fun _ => False) ∧
      RegsKept s t (fun a => a = Reg.QE_STICKY e) ∧
      rdb t (Reg.QE_STICKY e) 3 = (rdb s (Reg.QE_STICKY e) 3 || f.xm.any (fun m => m.store && decide (g.x[m.p].toNat < 16))) ∧
      rdb t (Reg.QE_STICKY e) 4 = (rdb s (Reg.QE_STICKY e) 4 || moveConflict f))

/-- LD writes the addressed word into the register its code names, after the pointer is post-modified, so that a load of
that very pointer wins; LDI writes its immediate; MOVR and MOVS copy a register, and the narrowing of an accumulator
sets S, but not where SR is the destination (R79, R80, R86, R98, R99). A general register code reads D0 to D7, an
accumulator narrowed to 16 bits, the low half of one, an X or Y pointer, M or K; it writes them alike, an accumulator
from its code with the value in bits 31 to 16, extended above, and 0 below (R79, R91). A special register code reads SR, a
repeat level's count, outermost first, a gain base, the guard bits of an accumulator, the axis number, or the depths of
the call and repeat stacks; SR, the gain bases and the guard bits are written, and the others ignore a write (R80). That
values are extended with zeros, and that narrowing tests the accumulator's own bits, are the model's readings (log entries
22 and 113). -/
def Obligations.QuillLoadsAndTransfers : Prop :=
  (∀ (s : State) (e : Fin 16), (eng s e).run = .running →
     let g := eng s e
     (∀ r y a, after (.ld e .clean r y a) s (fun t =>
       Shows t e (writeReg (operandMoved g y 1 a) r (qRead s e y (operandAddr g y a).1)) ∧
       rdb t (Reg.QE_STICKY e) 4 = (rdb s (Reg.QE_STICKY e) 4 || ldConflict r y a))) ∧
     (∀ r v, after (.ldi e .clean r v) s (fun t => Shows t e (writeReg g r v))) ∧
     (∀ d r, after (.movr e .clean d r) s (fun t =>
       Shows t e { writeReg g d (readReg g r).1 with sr := flagSticky g.sr (readReg g r).2 })) ∧
     (∀ r c, after (.movs e .clean r false c) s (fun t => Shows t e (writeReg g r (readSpec g c)))) ∧
     (∀ r, after (.movs e .clean r true 0) s (fun t => Shows t e { g with sr := (readReg g r).1.setWidth 5 })) ∧
     (∀ r c, c ≠ 0 → after (.movs e .clean r true c) s (fun t =>
       Shows t e { writeSpec g c (readReg g r).1 with sr := flagSticky g.sr (readReg g r).2 }))) ∧
  (∀ (g : QEng) (v : Half) (n : Fin 8) (p : Fin 4) (r : Fin 32),
     (r.val = n.val → readReg g r = (g.d[n], false) ∧ writeReg g r v = { g with d := g.d.put n v }) ∧
     (r.val = 8 + p.val →
       (¬ wide g.a[p] → readReg g r = (g.a[p].extractLsb' 16 16, false)) ∧
       (wide g.a[p] → readReg g r = (if g.a[p].msb then 0x8000#16 else 0x7FFF#16, true)) ∧
       writeReg g r v = { g with a := g.a.put p (BitVec.ofInt 40 (v.toInt * 2 ^ 16)) }) ∧
     (r.val = 12 + p.val → readReg g r = (g.a[p].extractLsb' 0 16, false) ∧
       writeReg g r v = { g with a := g.a.put p (g.a[p].extractLsb' 16 24 ++ v) }) ∧
     (r.val = 16 + p.val → readReg g r = (g.x[p].setWidth 16, false) ∧
       writeReg g r v = { g with x := g.x.put p (v.setWidth 14) }) ∧
     (r.val = 20 + p.val → readReg g r = (g.y[p].setWidth 16, false) ∧
       writeReg g r v = { g with y := g.y.put p (v.setWidth 14) }) ∧
     (r.val = 24 + p.val → readReg g r = (g.m[p], false) ∧ writeReg g r v = { g with m := g.m.put p v }) ∧
     (r.val = 28 + p.val → readReg g r = (g.k[p], false) ∧ writeReg g r v = { g with k := g.k.put p v })) ∧
  (∀ (g : QEng) (v : Half) (n : Fin 3) (p : Fin 4) (c : Fin 14),
     (c.val = 0 → readSpec g c = g.sr.setWidth 16 ∧ writeSpec g c v = { g with sr := v.setWidth 5 }) ∧
     (c.val = 1 + n.val → readSpec g c = ((g.reps.reverse[n.val]?).map (fun l => l.left.setWidth 16)).getD 0 ∧
       writeSpec g c v = g) ∧
     (c.val = 4 + p.val → readSpec g c = g.gb[p].setWidth 16 ∧
       writeSpec g c v = { g with gb := g.gb.put p (v.setWidth 14) }) ∧
     (c.val = 8 + p.val → readSpec g c = (g.a[p].extractLsb' 32 8).setWidth 16 ∧
       writeSpec g c v = { g with a := g.a.put p (v.setWidth 8 ++ g.a[p].extractLsb' 0 32) }) ∧
     (c.val = 12 → readSpec g c = BitVec.ofNat 16 g.axn.val ∧ writeSpec g c v = g) ∧
     (c.val = 13 → readSpec g c = BitVec.ofNat 16 (g.calls.length * 4 + g.reps.length) ∧ writeSpec g c v = g))

/-- ST stores a register's 16 bits, STL an accumulator narrowed to 32 bits, its low half first; a limited narrowing sets
S; the pointer moves by 1 or 2; no other byte changes, and no register but QE_STICKY, whose DESC_WR a store to X words 0
to 15 sets (R84, R88, R91, R98, R599). Narrowing to 32 bits keeps the low 32 bits of a value within Q1.31 and takes the
nearest bound for another (R91). -/
def Obligations.QuillStores : Prop :=
  (∀ a : Acc, (¬ wide a → narrow32 a = (a.extractLsb' 0 32, false)) ∧
     (wide a → narrow32 a = (if a.msb then 0x80000000#32 else 0x7FFFFFFF#32, true))) ∧
  ∀ (s : State) (e : Fin 16) (y : Bool) (a : QAddr), (eng s e).run = .running →
    let g := eng s e
    let w := operandAddr g y a
    let desc (v : BitVec 14) : Bool := !y && decide (v.toNat < 16)
    (∀ r, after (.st e .clean r y a) s (fun t =>
      (y = true ∨ 16 ≤ w.1.toNat → qRead t e y w.1 = (readReg g r).1) ∧
      Shows t e { operandMoved g y 1 a with sr := flagSticky g.sr (readReg g r).2 } ∧
      rdb t (Reg.QE_STICKY e) 3 = (rdb s (Reg.QE_STICKY e) 3 || desc w.1) ∧
      MemoryKept s t (instrStores g e (.st r y a)) (fun _ => False) ∧
      RegsKept s t (fun b => b = Reg.QE_STICKY e))) ∧
    (∀ n, after (.stl e .clean n y a) s (fun t =>
      (w.1 ≠ w.2 → (y = true ∨ 16 ≤ w.1.toNat) → qRead t e y w.1 = (narrow32 g.a[n]).1.extractLsb' 0 16) ∧
      (y = true ∨ 16 ≤ w.2.toNat → qRead t e y w.2 = (narrow32 g.a[n]).1.extractLsb' 16 16) ∧
      Shows t e { operandMoved g y 2 a with sr := flagSticky g.sr (narrow32 g.a[n]).2 } ∧
      rdb t (Reg.QE_STICKY e) 3 = (rdb s (Reg.QE_STICKY e) 3 || desc w.1 || desc w.2) ∧
      MemoryKept s t (instrStores g e (.stl n y a)) (fun _ => False) ∧
      RegsKept s t (fun b => b = Reg.QE_STICKY e)))

/-- LDL loads two words, the first the low one, sign-extended into An; PERR puts the wrapped difference of two 48-bit
positions into An and with INC moves both pointers by 3 (R88, R98, R100). GLU puts the interpolated gain of a table of
64 words in Y memory into Dd: the entry at the magnitude of the error divided by 512, and the remainder of it towards
the next entry (R101). That a table which runs past word 0x3FFF goes on at word 0, and that a position's first word is the
one at the pointer even outside the modulo buffer, are the model's readings (log entries 113 and 100). -/
def Obligations.QuillPositionErrorAndGain : Prop :=
  (∀ (s : State) (e : Fin 16) (n p q : Fin 4), (eng s e).run = .running →
     let g := eng s e
     (∀ y a, after (.ldl e .clean n y a) s (fun t =>
       let w := operandAddr g y a
       let x : Word := qRead s e y w.2 ++ qRead s e y w.1
       AccTakes s e n x.toInt t ∧ ∀ i : Fin 4, (eng t e).x[i] = (operandMoved g y 2 a).x[i] ∧
         (eng t e).y[i] = (operandMoved g y 2 a).y[i])) ∧
     (∀ inc, after (.perr e .clean n p q inc) s (fun t =>
       AccTakes s e n (posAt s e false p - posAt s e true q).toInt t ∧
       (eng t e).x[p] = (if inc then stepPtr g.x[p] g.k[p] 3 else g.x[p]) ∧
       (eng t e).y[q] = (if inc then stepPtr g.y[q] g.k[q] 3 else g.y[q])))) ∧
  (∀ (s : State) (e : Fin 16) (dd ds : Fin 8) (b : Fin 4), (eng s e).run = .running →
     let g := eng s e
     let m := min g.d[ds].toInt.natAbs 0x7FFF
     let tab := fun i : Nat => (qRead s e true (g.gb[b] + BitVec.ofNat 14 i)).toInt
     after (.glu e .clean dd ds b) s (fun t =>
       (eng t e).d = g.d.put dd (BitVec.ofInt 16 (tab (m / 512) +
         (if m / 512 = 63 then 0 else (tab (m / 512 + 1) - tab (m / 512)) * ((m % 512 : Nat) : Int) / 512))) ∧
       (eng t e).sr = g.sr ∧ (eng t e).a = g.a))

/-- ROT turns (Da, Db) by the angle in Dth: the inverse form by the positive angle, the forward form by the negative one;
the two results go to A0 and A1 or to A2 and A3, with Z and N of the second (R102, R103). -/
def Obligations.QuillRotation : Prop :=
  ∀ (s : State) (e : Fin 16) (inv hi : Bool) (da db dth : Fin 8), (eng s e).run = .running →
    let g := eng s e
    let x := g.d[da].toInt
    let y := g.d[db].toInt
    let th := g.d[dth].toNat / 16
    let c := sine (th + 1024)
    let n := if inv then sine th else -sine th
    let first := BitVec.ofInt 40 (2 * (x * c - y * n))
    let second := BitVec.ofInt 40 (2 * (x * n + y * c))
    after (.rot e .clean inv hi da db dth) s (fun t =>
      (eng t e).a = (g.a.put (if hi then 2 else 0) first).put (if hi then 3 else 1) second ∧
      (eng t e).sr = flagsZN g.sr second ∧ (eng t e).d = g.d)

/-- At the end address of a body every instruction that is not a flow instruction pops the levels with no iteration left,
innermost first, and returns to the body of the next that ends there, else goes on to the next address; a flow
instruction there stops the program with CAUSE 1 (R106). What an instruction does at the end address of an active level
that is not the innermost, whose own end lies elsewhere, is the model's choice: it goes on to the next address, and a flow
instruction stops there too, a CALL or RET with a false condition as well (log entry 113). -/
def Obligations.QuillRepeatEnds : Prop :=
  ∀ (s : State) (e : Fin 16) (i : QInstr), (eng s e).run = .running →
    let g := eng s e
    (straight i = true → after (rowOf e .clean i) s (fun t =>
      ((eng t e).pc, (eng t e).reps) = loopsOn g.pc g.reps ∧ (eng t e).calls = g.calls)) ∧
    (straight i = false → atLoopEnd g = true → g.mode ≠ 3 → g.nextMode ≠ some 3 → Heard s (0x90 + e.val) →
      after (rowOf e .clean i) s (StopsWith s e 1))

/-- Off the end of a body, a flow instruction whose condition holds goes to its target: JMP pops the levels whose body
does not hold the target, CALL pushes the next address, RET pops one; one whose condition is false changes nothing but
the PC (R97, R107, R108). -/
def Obligations.QuillFlow : Prop :=
  ∀ (s : State) (e : Fin 16) (c : Fin 13) (a : BitVec 12), (eng s e).run = .running → atLoopEnd (eng s e) = false →
    let g := eng s e
    let goes (pc : BitVec 12) (reps : List RepLevel) (calls : List (BitVec 12)) (t : State) : Prop :=
      eng t e = { g with pc := pc, reps := reps, calls := calls }
    (condHolds g.sr c = true →
      after (.jmp e .clean c a) s (goes a
        (g.reps.filter (fun l => decide (l.first.toNat ≤ a.toNat ∧ a.toNat ≤ l.last.toNat))) g.calls) ∧
      (g.calls.length < 3 → after (.call e .clean c a) s (goes a g.reps ((g.pc + 1) :: g.calls))) ∧
      (∀ b r, g.calls = b :: r → after (.ret e .clean c) s (goes b g.reps r))) ∧
    (condHolds g.sr c = false →
      after (.jmp e .clean c a) s (goes (g.pc + 1) g.reps g.calls) ∧
      after (.call e .clean c a) s (goes (g.pc + 1) g.reps g.calls) ∧
      after (.ret e .clean c) s (goes (g.pc + 1) g.reps g.calls))

/-- REP with a count pushes a level whose body begins at the next address; with a count of 0 it goes on as if the
instruction at the end address had completed, testing every level that ends there. A fourth REP stops the program with
CAUSE 2, a CALL at depth 3 with CAUSE 3, a RET at depth 0 with CAUSE 4, and a REP that ends no later than itself with
CAUSE 1 (R104, R105, R108). An illegal instruction whose fetch shows no error is not retried: it stops the program with
CAUSE 1 (R96). That a REP of count 0 keeps levels with another end, and that it skips its body while three levels are
active, are the model's choices (log entry 113). -/
def Obligations.QuillProgramFaultsStop : Prop :=
  (∀ (s : State) (e : Fin 16) (n : QCount) (a : BitVec 12) (c : Fin 13), (eng s e).run = .running →
     atLoopEnd (eng s e) = false → (eng s e).mode ≠ 3 → (eng s e).nextMode ≠ some 3 → Heard s (0x90 + e.val) →
     let g := eng s e
     let k : BitVec 13 := match n with | .imm k => k | .reg d => g.d[d].setWidth 13
     (g.pc.toNat < a.toNat → k = 0 → after (.rep e .clean n a) s (fun t =>
       ((eng t e).pc, (eng t e).reps) = loopsPast a g.reps)) ∧
     (g.pc.toNat < a.toNat → k ≠ 0 → g.reps.length < 3 → after (.rep e .clean n a) s (fun t =>
       eng t e = { g with pc := g.pc + 1, reps := { first := g.pc + 1, last := a, left := k } :: g.reps })) ∧
     (g.pc.toNat < a.toNat → k ≠ 0 → 3 ≤ g.reps.length → after (.rep e .clean n a) s (StopsWith s e 2)) ∧
     (a.toNat ≤ g.pc.toNat → after (.rep e .clean n a) s (StopsWith s e 1)) ∧
     (condHolds g.sr c = true → 3 ≤ g.calls.length → after (.call e .clean c a) s (StopsWith s e 3)) ∧
     (condHolds g.sr c = true → g.calls = [] → after (.ret e .clean c) s (StopsWith s e 4))) ∧
  (∀ (s : State) (e : Fin 16), (eng s e).run = .running → (eng s e).mode ≠ 3 → (eng s e).nextMode ≠ some 3 →
     Heard s (0x90 + e.val) → after (.instructionIllegal ⟨e, .clean⟩) s (StopsWith s e 1))

/-- A detected error of the first attempt withholds every result and leaves the engine to execute the same instruction
again, the fetch of an illegal one as well; of the second it counts as lasting, stops the program with its cause and
reports source 0x090 + e (`StopsWith`). A second attempt without one counts as transient, reports source 0x080 + e, and
does, of every instruction, flow instructions among them, what an attempt of a running program does. Corrected single-bit
errors only count (R110, R111, R112). -/
def Obligations.QuillRetry : Prop :=
  ∀ (s : State) (e : Fin 16) (i : QInstr),
    let g := eng s e
    let bad (run : QRun) (cause : Nat) : State := updEng s e (fun g => { g with run := run, cause := cause })
    let det (x : DetErr) : Detect := { fixed := 0, err := some x }
    let lasting (cause : Nat) (t : State) : Prop :=
      StopsWith s e cause t ∧ rdf t (Reg.QE_RETRY e) 16 16 = min 0xFFFF (rdf s (Reg.QE_RETRY e) 16 16 + 1) ∧
      rdb t (Reg.QE_STICKY e) 2 = true
    (g.run = .running →
      after (rowOf e (det .progEcc) i) s (· = bad .retrying 5) ∧ after (rowOf e (det .dataEcc) i) s (· = bad .retrying 6) ∧
      after (.handshakeTimeout e) s (· = bad .retrying 7) ∧ after (rowOf e (det .dualRail) i) s (· = bad .retrying 8) ∧
      after (.instructionIllegal ⟨e, det .progEcc⟩) s (· = bad .retrying 5)) ∧
    (g.run = .retrying → g.mode ≠ 3 → g.nextMode ≠ some 3 → Heard s (0x90 + e.val) →
      after (rowOf e (det .progEcc) i) s (lasting 5) ∧ after (rowOf e (det .dataEcc) i) s (lasting 6) ∧
      after (.handshakeTimeout e) s (lasting 7) ∧ after (rowOf e (det .dualRail) i) s (lasting 8) ∧
      after (.instructionIllegal ⟨e, det .progEcc⟩) s (lasting 5)) ∧
    (g.run = .retrying → ∃ u : State, exec (rowOf e .clean i) s = exec (rowOf e .clean i) u ∧
      u.eng = (updEng s e (fun g => { g with run := .running })).eng ∧ u.ax = s.ax ∧
      rdf u (Reg.QE_RETRY e) 0 16 = min 0xFFFF (rdf s (Reg.QE_RETRY e) 0 16 + 1) ∧ rdb u (Reg.QE_STICKY e) 1 = true ∧
      (Heard s (0x80 + e.val) → rdb u (Reg.MGN_SRC ((0x80 + e.val) / 32)) ((0x80 + e.val) % 32) = true) ∧
      ∀ a, a < 0x05000000 → u.mem.read a = s.mem.read a) ∧
    (g.run = .retrying → straight i = true → after (rowOf e .clean i) s (fun t =>
      (eng t e).run = .running ∧ rdf t (Reg.QE_RETRY e) 0 16 = min 0xFFFF (rdf s (Reg.QE_RETRY e) 0 16 + 1) ∧
      rdb t (Reg.QE_STICKY e) 1 = true)) ∧
    (∀ k, 0 < k → g.run = .running → straight i = true → after (rowOf e { fixed := k, err := none } i) s (fun t =>
      rd t (Reg.QE_ECC_CORR e) = BitVec.ofNat 32 (min 0xFFFFFFFF ((rd s (Reg.QE_ECC_CORR e)).toNat + k)) ∧
      rdb t (Reg.QE_STICKY e) 0 = true ∧ ((eng t e).pc, (eng t e).reps) = loopsOn g.pc g.reps))

/-- FIN ends an axis program that is not the library's: its output record is taken, with words beyond the length of the
axis as 0, its entry is complete, and the engine is idle (R109, R228). The dispatch of a listed axis to an idle engine
in mode service sets its registers: accumulators, D, M, K, SR and the stacks 0, the pointers at the axis's records, the
state record that was written last as the one read, the gain tables of its active bank, the axis number and its entry
address (R81, R82, R126, R236). -/
def Obligations.QuillFinAndDispatch : Prop :=
  (∀ (s : State) (e : Fin 16), (eng s e).run = .running → (eng s e).mode ≠ 3 → (eng s e).nextMode ≠ some 3 →
     atLoopEnd (eng s e) = false →
     let n := (eng s e).axn
     let c := s.axcfg[n]
     c.chain = [] → after (.fin e .clean) s (fun t =>
       (eng t e).run = .idle ∧ (t.ax[n].ent = .complete ∨ t.ax[n].ent = .released) ∧
       ∀ i : Fin 5, t.ax[n].staged[i] =
         if i.val < c.outLen then qRead s c.engine true (c.yout + BitVec.ofNat 14 i.val) else 0)) ∧
  (∀ (s : State) (e : Fin 16) (n : Fin 256) (r : List (Fin 256)), (eng s e).run = .idle → (eng s e).mode = 2 →
     pdOn s (pdOfEngine e) = true → (eng s e).list = n :: r → s.dct.slot[n].failed = false → n.val < axisLimit s →
     let c := s.axcfg[n]
     let bank := if rdb s (Reg.INK_BANK c.group) 6 then c.yb1 else c.yb0
     after (.axisDispatch e) s (fun t =>
       (eng t e).run = .running ∧ (eng t e).pc = c.prog ∧ (eng t e).axn = n ∧ (eng t e).list = r ∧
       progRegs (eng t e) = (Vector.replicate 4 0, Vector.replicate 8 0,
         #v[c.xfb, if s.ax[n].recB then c.xs1 else c.xs0, if s.ax[n].recB then c.xs0 else c.xs1, 0],
         #v[c.ypar, bank, c.yout, 0], Vector.replicate 4 0, Vector.replicate 4 0,
         #v[(qRead s c.engine true (bank + 19)).setWidth 14, (qRead s c.engine true (bank + 20)).setWidth 14,
           (qRead s c.engine true (bank + 21)).setWidth 14, (qRead s c.engine true (bank + 22)).setWidth 14], 0) ∧
       (eng t e).reps = [] ∧ (eng t e).calls = [] ∧ t.ax[n].ent = .running ∧ t.ax[n].ran = true))

/-- FIN of an axis with library blocks takes the output record those blocks compute, and keeps their new state for the
release of the group; a reference that no VEL gives is a free value (the model's choice, log entries 101 and 104). Under
coast or short, and under POLICY 3, which the model takes as short (log entry 114), an axis in standstill sends its own KIND with cleared integrators; the circle limit keeps the amplitudes
on the unit circle; at age 3 and above the amplitudes, or references, and the integrator of VEL stand; the run count of
STALL counts with POS, holds and declares once; a divided block keeps its output outside its strokes, and a new output
is in use from d - 1 strokes on, PAGE wrapping or not (R51, R58, R127, R122, R129, R140, R153, R155, R160, R161, R163).
How POS, VEL and STALE take stale feedback and divided strokes together is the model's reading (log entry 106). -/
def Obligations.AxisLibrary : Prop :=
  (∀ (s : State) (e : Fin 16), (eng s e).run = .running → (eng s e).mode ≠ 3 → (eng s e).nextMode ≠ some 3 →
     atLoopEnd (eng s e) = false →
     let n := (eng s e).axn
     let c := s.axcfg[n]
     c.chain ≠ [] → ∃ noRef : Int, -32768 ≤ noRef ∧ noRef ≤ 32767 ∧
       let r := libStep (libIn s n noRef) s.ax[n].lib
       after (.fin e .clean) s (fun t => (eng t e).run = .idle ∧ (t.ax[n].libNew = some r.1 ∨ t.ax[n].lib = r.1) ∧
         ∀ i : Fin 5, t.ax[n].staged[i] = if i.val < c.outLen then r.2[i] else 0)) ∧
  (∀ (i : LibIn) (st : LibSt),
     let r := libStep i st
     let off := r.1.still = true ∧ i.policy ≠ 2
     let window := i.bank[(16 : Fin 32)].toNat + 65536 * i.bank[(17 : Fin 32)].toNat
     let dev := (libPerr (fbPos i 8) (fbPos i 0)).1.natAbs
     (off → r.2[0] = (if i.policy = 0 then 2 else 3) ∧ r.2[1] = 0 ∧ r.2[2] = 0 ∧ r.2[3] = 0 ∧
       r.1.intV = 0 ∧ r.1.intD = 0 ∧ r.1.intQ = 0) ∧
     (i.place = false → libStale i = false → r.2[2].toInt * r.2[2].toInt + r.2[3].toInt * r.2[3].toInt ≤ 2 ^ 30) ∧
     (libStale i = true → i.place = true ∨ chained i.chain .cur = true → ¬ off →
       r.2[2] = i.out[(2 : Fin 5)] ∧ r.2[3] = i.out[(3 : Fin 5)]) ∧
     (libStale i = true → st.ran = true → libIdle i = true → i.bank[(24 : Fin 32)] = st.tag → ¬ off →
       r.1.intV = st.intV) ∧
     (st.ran = true → libAge i ≠ 0 → r.1.dev = st.dev) ∧
     (st.ran = true → libAge i = 0 → st.still = false → st.reeng = 0 → chained i.chain .stall = true →
       (chained i.chain .pos = true → runsIn i.chain .pos (i.stroke % 64) = true) →
       r.1.dev = (if window < dev then min (st.dev + 1) 4096 else 0) ∧
       r.2[4].getLsbD 1 = decide (window < dev ∧ st.declared = false ∧ r.1.dev ≠ st.dev ∧
         r.1.dev = i.bank[(18 : Fin 32)].toNat + 1)) ∧
     (st.ran = true → chained i.chain .pos = true → runsIn i.chain .pos (i.stroke % 64) = false → r.1.dev = st.dev) ∧
     r.2[4].toNat / 256 = min r.1.dev 255 ∧ r.2[4].getLsbD 2 = libStale i ∧ r.2[4].getLsbD 0 = r.1.still ∧
     (st.ran = true → runsIn i.chain .pos (i.stroke % 64) = false → r.1.pos = st.pos) ∧
     (st.ran = true → runsIn i.chain .vel (i.stroke % 64) = false → r.1.vel = st.vel)) ∧
  (∀ (l : LibLoop) (k d n : Nat) (x : Int), 1 ≤ d → d ≤ 8 → n < 2 ^ 30 →
     (l.put k d x).use ((k + n) % 2 ^ 32) = if d ≤ n + 1 then BitVec.ofInt 16 x else l.use k)

/-- The registers that an instruction does not name keep their values: M, K and the gain bases under every arithmetic
instruction, D and the pointers where it has no move, load or INC, the accumulators but its destination (R98). An
instruction that is not a flow instruction changes its own engine, the bytes it stores and bits of that engine's
QE_STICKY, and nothing else of the machine (R75, R84, R98, R118). -/
def Obligations.QuillKeepsTheRest : Prop :=
  (∀ (s : State) (e : Fin 16), (eng s e).run = .running →
     let g := eng s e
     let base (t : State) : Prop := (eng t e).m = g.m ∧ (eng t e).k = g.k ∧ (eng t e).gb = g.gb
     let others (n : Fin 4) (t : State) : Prop := ∀ k : Fin 4, k ≠ n → (eng t e).a[k] = g.a[k]
     (∀ op f, after (pRow op e .clean f) s (fun t => base t ∧ others f.an t)) ∧
     (∀ n v, after (.addi e .clean n v) s (fun t => base t ∧ others n t ∧ (eng t e).d = g.d ∧ (eng t e).x = g.x ∧
       (eng t e).y = g.y)) ∧
     (∀ n y a, after (.ldl e .clean n y a) s (fun t => base t ∧ others n t ∧ (eng t e).d = g.d)) ∧
     (∀ n p q inc, after (.perr e .clean n p q inc) s (fun t => base t ∧ others n t ∧ (eng t e).d = g.d ∧
       (∀ k, k ≠ p → (eng t e).x[k] = g.x[k]) ∧ (∀ k, k ≠ q → (eng t e).y[k] = g.y[k]))) ∧
     (∀ dd ds b, after (.glu e .clean dd ds b) s (fun t => base t ∧ (eng t e).x = g.x ∧ (eng t e).y = g.y)) ∧
     (∀ inv hi da db dth, after (.rot e .clean inv hi da db dth) s (fun t => base t ∧ (eng t e).x = g.x ∧
       (eng t e).y = g.y))) ∧
  (∀ (s : State) (e : Fin 16) (i : QInstr), (eng s e).run = .running → straight i = true →
     after (rowOf e .clean i) s (fun t =>
       { t with eng := s.eng, mem := s.mem, regs := s.regs } = s ∧
       (∀ f : Fin 16, f ≠ e → eng t f = eng s f) ∧
       MemoryKept s t (instrStores (eng s e) e i) (fun _ => False) ∧
       RegsKept s t (fun a => a = Reg.QE_STICKY e) ∧
       (eng t e).axn = (eng s e).axn ∧ (eng t e).run = .running ∧ (eng t e).mode = (eng s e).mode))

/-- Decoding the word of an instruction gives the instruction, for every instruction that has a word, with every operand
at every value its fields admit; and a word that decodes is the word of the instruction it decodes to, so no legal word
has an ignored bit (R93 to R97). -/
def Obligations.QuillDecodesWhatItEncodes : Prop :=
  (∀ i : QInstr, qWf i = true → decodeQ (encodeQ i) = some i) ∧
  (∀ (w : Word) (i : QInstr), decodeQ w = some i → qWf i = true ∧ encodeQ i = w)

/-- Words written out from the encoding tables: MAC A1, D2, D3 with a load D4 from X0 post-incremented; LD A2H from Y
memory at 0x0123; LDI D7, 0x8001; REP of 16 up to 0x0AB; JMP on Z to 0xFFF; FIN; and words with an unassigned opcode, a
reserved condition and a bit that must be 0 (R93 to R98). -/
def Obligations.QuillWords : Prop :=
  decodeQ 0b000010_01_010_011_1_0_100_00_01_000000000#32 =
    some (.par .mac { an := 1, s1 := 2, s2 := 3, xm := some { store := false, d := 4, p := 0, mod := 1 }, ym := none }) ∧
  decodeQ 0b100000_01010_1_1_00000_00000100100011#32 = some (.ld 10 true (.abs 0x123#14)) ∧
  decodeQ 0b100010_00111_00000_1000000000000001#32 = some (.ldi 7 0x8001#16) ∧
  decodeQ 0b110011_0_0000000010000_000010101011#32 = some (.rep (.imm 16#13) 0x0AB#12) ∧
  decodeQ 0b110000_0001_0000000000_111111111111#32 = some (.jmp 1 0xFFF#12) ∧
  decodeQ 0b110100_00000000000000000000000000#32 = some .fin ∧
  decodeQ 0b010000_00000000000000000000000000#32 = none ∧
  decodeQ 0b110000_1101_0000000000_000000000000#32 = none ∧
  decodeQ 0b110100_00000000000000000000000001#32 = none

/-- A write of INK_TSET_t sets the flags of an application task; a task that waits with its condition true then becomes
ready, in its list behind those that were ready before, and any other keeps its state. For an axis task the write
changes nothing (R213, R214, R215, R219). A placement gives the lowest core with room the first task of the highest list
that may run on it; the task leaves the list, becomes queued and shows its core, and the core's QUEUE interrupt bit
rises (R219, R220, R245, R246). -/
def Obligations.TasksBecomeReadyAndAreQueued : Prop :=
  (∀ (s : State) (m : Master) (t : Fin 512) (v : Word), Writable s m (Reg.INK_TSET t) →
     let f := rd s (Reg.INK_TFLAG t) ||| v
     let p : Fin 4 := Fin.ofNat 4 (rdf s (Reg.INK_TCFG t) 28 2)
     let goes := taskState s t = 0 ∧ rdb s (Reg.INK_TCFG t) 31 = true ∧ condOf s t f = true
     (256 ≤ t.val → after (.inkTset m t v) s (fun u => Answered u m ∧ rd u (Reg.INK_TFLAG t) = f ∧
       (goes → taskState u t = 1 ∧ u.ink.task[t].readySeq = s.ink.nextReady + 1 ∧
         u.ink.ready = s.ink.ready.put p
           (s.ink.ready[p].takeWhile (readyBefore u t) ++ t :: s.ink.ready[p].dropWhile (readyBefore u t)) ∧
         ((∀ k ∈ s.ink.ready[p], k ≠ t ∧ s.ink.task[k].readySeq ≤ s.ink.nextReady) →
           u.ink.ready = s.ink.ready.put p (s.ink.ready[p] ++ [t]))) ∧
       (¬ goes → taskState u t = taskState s t ∧ u.ink = { s.ink with nextReady := s.ink.nextReady + 1 }))) ∧
     (t.val < 256 → after (.inkTset m t v) s (fun u => Answered u m ∧ u.ink = s.ink ∧ RegsKept s u (fun _ => False)))) ∧
  (∀ (s : State) (c : Fin 16) (p : Fin 4) (t : Fin 512) (r : List (Fin 512)),
     pdOn s 10 = true → rdb s Reg.INK_CTL 0 = true →
     (∀ k : Fin 16, k < c → hasRoom s k = false) → hasRoom s c = true →
     (∀ k : Fin 4, k < p → s.ink.ready[k] = []) → s.ink.ready[p] = t :: r → taskPrio s t = p → t ∉ r →
     rdb s (Reg.INK_TCFG t) c = true → rdb s (Reg.INK_TCFG t) 21 = false →
     after .queuePlacement s (fun u =>
       u.ink.core[c].queue = s.ink.core[c].queue ++ [t] ∧ u.ink.ready[p] = r ∧ taskState u t = 2 ∧
       rdf u (Reg.INK_TSTAT t) 24 4 = c.val ∧ rdb u (Reg.SC_IRQ_PEND c) 0 = true ∧
       rdf u (Reg.INK_QSTAT c) 8 4 = (s.ink.core[c].queue.length + 1) % 16))

/-- A core takes the head of its queue by reading INK_TAKE_c: the task runs, and the flags in its mask are copied to
INK_TAKEF_c and cleared. With an empty queue the read gives 0; with a task running it gives 0 and sets ERR (R221,
R224). -/
def Obligations.CoreTakesItsTask : Prop :=
  ∀ (s : State) (m : Master) (c : Fin 16), AcceptedRead s m (Reg.INK_TAKE c) →
    (∀ t q, s.ink.core[c].running = none → s.ink.core[c].queue = t :: q → after (.inkTake m c) s (fun u =>
      u.hst.resp[m] = .value (BitVec.ofNat 32 (2 ^ 31 + t.val)) ∧ u.ink.core[c].running = some t ∧
      u.ink.core[c].queue = q ∧ taskState u t = 3 ∧
      rd u (Reg.INK_TAKEF c) = (rd s (Reg.INK_TFLAG t) &&& rd s (Reg.INK_TMASK t)) ∧
      rd u (Reg.INK_TFLAG t) = (rd s (Reg.INK_TFLAG t) &&& ~~~(rd s (Reg.INK_TMASK t))))) ∧
    (s.ink.core[c].running = none → s.ink.core[c].queue = [] → after (.inkTake m c) s (fun u =>
      u.hst.resp[m] = .value 0 ∧ u.ink = s.ink)) ∧
    (∀ t, s.ink.core[c].running = some t → after (.inkTake m c) s (fun u =>
      u.hst.resp[m] = .value 0 ∧ u.ink = s.ink ∧ rdb u (Reg.INK_QSTAT c) 31 = true))

/-- A write of DONE or FAIL ends the running task of the core. Outside a ligature the task returns to waiting, or to
disabled, or becomes ready at once; as an entry behind an unfinished head of its ligature it stays, complete, with the
result words captured. With no task running ERR is set (R216, R223, R224, R228, R231). -/
def Obligations.CoreEndsItsTask : Prop :=
  ∀ (s : State) (m : Master) (c : Fin 16), Writable s m (Reg.INK_DONE c) →
    let row (failed : Bool) : Instr := if failed then .fail m c else .done m c
    ∀ failed : Bool,
      (∀ t, s.ink.core[c].running = some t → ligOf s t = none → 256 ≤ t.val → after (row failed) s (fun u =>
        Answered u m ∧ u.ink.core[c].running = none ∧
        taskState u t = (if rdb s (Reg.INK_TCFG t) 31 then
          if condOf s t (rd s (Reg.INK_TFLAG t)) then 1 else 0 else 5))) ∧
      (∀ t l e r, s.ink.core[c].running = some t → ligOf s t = some l → s.ink.lig[l] = e :: r → e.task ≠ t →
        e.complete = false → after (row failed) s (fun u =>
          Answered u m ∧ u.ink.core[c].running = none ∧ taskState u t = 4 ∧
          u.ink.lig[l] = s.ink.lig[l].map (fun k => if k.task = t ∧ k.complete = false then
            { k with complete := true, failed := failed
                     res := (rd s (Reg.INK_RES0 c), rd s (Reg.INK_RES1 c), rd s (Reg.INK_RES2 c)) } else k))) ∧
      (s.ink.core[c].running = none → after (row failed) s (fun u =>
        Answered u m ∧ u.ink = s.ink ∧ rdb u (Reg.INK_QSTAT c) 31 = true))

/-- When software reads on in a ligature's ring, the complete entries at its head are released into it one after another,
in the order of the ligature, each with its sequence number, failure bit, task and three result words at the next index,
until the head is not complete, which keeps those behind it, or the ring is full, which sets FULL; a ligature that a
failed operation holds releases none (R228, R232, R233). -/
def Obligations.LigatureReleasesInOrder : Prop :=
  ∀ (s : State) (m : Master) (l : Fin 64) (v : Word), Writable s m (Reg.INK_LIG_RING l) →
    let es := s.ink.lig[l]
    let ring := ringAfter (rdf s (Reg.INK_LIG_CFG l) 4 10) (rdf s (Reg.INK_LIG_RING l) 16 10)
    let at' (i : Nat) : Nat := rdf s (Reg.INK_LIG_CFG l) 14 18 * 16 + ring i * 16
    let ready (i : Nat) : Prop := ∃ e, es[i]? = some e ∧ e.complete = true
    let full (i : Nat) : Prop := ring (i + 1) = fld v 0 10
    (l.val < 32 → after (.inkLigRingRd m l v) s (fun u => Answered u m ∧ u.ink = s.ink ∧ u.mem = s.mem)) ∧
    (32 ≤ l.val → s.ink.held.contains l = true → after (.inkLigRingRd m l v) s (fun u => Answered u m ∧
      u.ink.lig = s.ink.lig ∧ u.mem = s.mem)) ∧
    (32 ≤ l.val → s.ink.held.contains l = false → ∀ n : Nat, (∀ i, i < n → ready i ∧ ¬ full i) → (¬ ready n ∨ full n) →
      after (.inkLigRingRd m l v) s (fun u => Answered u m ∧
        u.ink.lig[l] = es.drop n ∧ (∀ k : Fin 64, k ≠ l → u.ink.lig[k] = s.ink.lig[k]) ∧
        rdf u (Reg.INK_LIG_RING l) 16 10 = ring n ∧ (ready n → rdb u (Reg.INK_LIG_RING l) 31 = true) ∧
        (∀ i e, i < n → es[i]? = some e → (∀ j, i < j → j < n → ring j ≠ ring i) →
          u.mem.readWords (at' i) 4 = [BitVec.ofNat 32 (e.seq.toNat * 2 ^ 16 + e.failed.toNat * 2 ^ 15 + e.task.val),
            e.res.1, e.res.2.1, e.res.2.2]) ∧
        ∀ a, (∀ i, i < n → a < at' i ∨ at' i + 16 ≤ a) → u.mem.read a = s.mem.read a))

/-- A write of SC_CTL starts a core at its reset vector or stops it; a stopped core's queue empties and its running task
ends. A lasting fault of a running core is recorded with its cause and address, reported as source 0x0B0 + c, and stops
the core; a timer interrupt that it enables wakes one that waits (R225, R241, R242, R244, R246). CLEAR sets the slack
minima to 0x7FFF and the histogram and the overrun totals to 0 (R65). That source 0x0B0 + c ends when a write of RUN leaves
state 3, and that all registers of a core are 0 at its start, are the model's readings (log entries 95 and 97). -/
def Obligations.ScribeCoresAndSlack : Prop :=
  (∀ (s : State) (m : Master) (c : Fin 16) (v : Word) (cause : BitVec 4) (a : Half),
     (Writable s m (Reg.SC_CTL c) → rdb s (Reg.SC_CTL c) 0 = false → bit v 0 = true → after (.scRun m c v) s (fun u =>
       Answered u m ∧ rdb u (Reg.SC_CTL c) 0 = true ∧ rdf u (Reg.SC_STAT c) 28 4 = 1 ∧
       u.ink.core[c].hart = Hart.reset ∧ Hart.reset.pc = 0x10000000#32)) ∧
     (Writable s m (Reg.SC_CTL c) → rdb s (Reg.SC_CTL c) 0 = true → bit v 0 = false → after (.scRun m c v) s (fun u =>
       Answered u m ∧ rdb u (Reg.SC_CTL c) 0 = false ∧ rdf u (Reg.SC_STAT c) 28 4 = 0 ∧
       u.ink.core[c].queue = [] ∧ u.ink.core[c].running = none ∧ srcActive u (0xB0 + c.val) = false)) ∧
     (Heard s (0xB0 + c.val) → rdb s (Reg.SC_CTL c) 0 = true → srcActive s (0xB0 + c.val) = false → after (.scLastingFault c cause a) s (fun u =>
       rd u (Reg.SC_FAULT c) = BitVec.ofNat 32 (cause.toNat * 2 ^ 28 + a.toNat) ∧ rdf u (Reg.SC_STAT c) 28 4 = 3 ∧
       rdb u (Reg.MGN_SRC ((0xB0 + c.val) / 32)) ((0xB0 + c.val) % 32) = true ∧
       u.ink.core[c].queue = [] ∧ u.ink.core[c].running = none)) ∧
     (rdf s (Reg.SC_STAT c) 28 4 = 2 → bit s.ink.core[c].hart.ie 7 = true →
       (rd s (Reg.SC_MTIMECMP_HI c)).toNat * 2 ^ 32 + (rd s (Reg.SC_MTIMECMP_LO c)).toNat ≤ mtime s →
       after (.machineTimerInterrupt c) s (fun u => rdf u (Reg.SC_STAT c) 28 4 = 1)) ∧
     (rdf s (Reg.SC_STAT c) 28 4 = 2 → hartMip s c &&& s.ink.core[c].hart.ie = 0#32 →
       after (.machineTimerInterrupt c) s (fun u => u = s))) ∧
  (∀ (s : State) (m : Master) (v : Word), Writable s m Reg.INK_SLACK_CTL →
     after (.slackClear m v) s (fun u => Answered u m ∧ rd u Reg.INK_SLACK_MIN = 0x7FFF#32 ∧
       (∀ b, b < 6 → rd u (Reg.INK_SLACK_HIST b) = 0) ∧
       ∀ g : Fin 32, rdf u (Reg.INK_SLACK_GRP g) 16 16 = 0x7FFF ∧ rdf u (Reg.INK_OVR g) 8 24 = 0 ∧
         rdf u (Reg.INK_SLACK_GRP g) 0 16 = rdf s (Reg.INK_SLACK_GRP g) 0 16))

/-- GO of INK_BANK_g sets PEND and replaces a request that waits. A word of an accepted bank load is written into the Y
memory of the idle engine of its axis, at the bank for the first 32 words (R142, R145, R146). -/
def Obligations.CoefficientBanks : Prop :=
  ∀ (s : State) (m : Master) (g : Fin 32) (v : Word) (n : Fin 256) (b : Bool),
    (Writable s m (Reg.INK_BANK g) → after (.inkBankGo m g v) s (fun u => Answered u m ∧
      rdb u (Reg.INK_BANK g) 7 = true ∧
      u.grp[g].swap = some { target := bit v 4, atSwitch := bit v 5, due := false, src := .software })) ∧
    (∀ l, loadOf s n b = some l → l.pos < 32 →
      (eng s s.axcfg[n].engine).run = .idle → pdOn s (pdOfEngine s.axcfg[n].engine) = true →
      let w := (if b then s.axcfg[n].yb1 else s.axcfg[n].yb0) + BitVec.ofNat 14 l.pos
      ∀ x, after (.bankImageWrite n ⟨b, x⟩) s (fun u =>
        qRead u s.axcfg[n].engine true w = mrd16 s (l.addr.toNat + 2 * l.pos) ∧
        u.loads = s.loads.map (fun k => if k = l then { k with pos := k.pos + 1 } else k) ∧
        MemoryKept s u (storeBytes s.axcfg[n].engine true w) (fun _ => False) ∧ RegsKept s u (fun _ => False)))

/-! ## The machine as a whole -/

/-- A step with a command at the front of the queue carries out that command on the state with the rest of the queue. -/
def Obligations.StepRunsFront : Prop :=
  ∀ (s : State) (c : Instr) (r : List Instr), step { s with pending := c :: r } = exec c { s with pending := r }

/-- With no command waiting a step lets one Baseline tick pass: both domains advance by their increments, and, while no
access waits behind a held read, nothing else changes where no core runs, no stage of bring-up ends, no capture samples
its lines and no service-bus controller recovers; under the power-on reset time stands (R379, R563; that the step of an
empty queue is a tick is the model's choice, log entry 1). RECOV_CNT of a controller that recovers stays or rises by 1, up
to 127 (R455; which, is free, log entry 119). A core with its machine timer interrupt pending and enabled takes it, unless
a read of its own is held (R244; the trap is of the RISC-V family, log entry 97). Stage 2 of bring-up goes on, with PD10
on, when its time has passed: to stage 3, or to stage 10 where BOOT_HOST was sampled high (R259, R585; log entries 50 and
116). -/
def Obligations.IdleStepIsOneTick : Prop :=
  ∀ s : State, s.pending = [] →
    (s.pwr.por = true → step s = .next s) ∧
    (s.pwr.por = false → (s.tick + 1) % 10 ≠ 0 ∨ folRunning s = false → (∀ m : Master, s.hst.wait[m] = []) →
      let quiet : Prop := ∀ k : Fin 4, s.sb[k].recovering = false
      let counts (k : Fin 4) (t : State) : Nat := rdf t (Reg.SB_STAT k) 16 8
      let ticks (q : State → Prop) : Prop := ∃ t, step s = .next t ∧ t.tick = s.tick + 1 ∧
        (∀ b : Bool, domTime t b = (domTime s b).shift (rd s (Reg.BSL_INC (domIdx b))).toNat) ∧ q t
      let staying : Prop := stage s = 1 ∨ stage s = 2 ∨ stage s = 11 → s.tick + 1 < s.stw.stageEnd
      ((∀ c, coreLive s c = false) → staying → quiet → ticks (fun t =>
        { t with tick := s.tick, base := s.base } = s ∧ { t.base with dom := s.base.dom } = s.base)) ∧
      (∀ k : Fin 4, (∀ c, coreLive s c = false) → staying → s.sb[k].recovering = true → ticks (fun t =>
        t.sb[k].recovering = true ∧ (counts k t = counts k s ∨ counts k s < 127 ∧ counts k t = counts k s + 1))) ∧
      ((∀ c, coreLive s c = false) → stage s = 2 → s.stw.stageEnd ≤ s.tick + 1 → ticks (fun t =>
        stage t = (if s.stw.bootHost then 10 else 3) ∧ pdOn t 10 = true)) ∧
      (∀ c : Fin 16, (∀ k, coreLive s k = true ↔ k = c) → rdf s (Reg.SC_STAT c) 28 4 = 1 → staying →
        quiet → heldBy s (hartMaster c) = false →
        let h := s.ink.core[c].hart
        h.load = none → h.mie = true → h.ie = 0x80#32 → mtime s + 1 < 2 ^ 64 →
        (rd s (Reg.SC_MTIMECMP_HI c)).toNat * 2 ^ 32 + (rd s (Reg.SC_MTIMECMP_LO c)).toNat ≤ mtime s →
        ticks (fun t => t.ink.core[c].hart.mepc = h.pc ∧ t.ink.core[c].hart.mcause = 0x80000007#32 ∧
          t.ink.core[c].hart.mie = false ∧ t.ink.core[c].hart.mpie = true ∧
          t.ink.core[c].hart.pc = (h.mtvec &&& 0xFFFFFFFC#32) + (if bit h.mtvec 0 then 28#32 else 0#32) ∧
          RegsKept s t (fun _ => False) ∧ MemoryKept s t (fun _ => False) (fun _ => False))))

/-- After reset no command waits, every structure is within its bounds, no memory holds anything, and the registers hold
the values that the register tables give: of those with a value that is not 0, the ones named here. That memories are
empty, that the fields a Codex gives are 0, and that nothing is in progress, are the model's choices (log entries 4, 5, 71
and 72). -/
def Obligations.ResetState : Prop :=
  Kept [] State.reset ∧ State.reset.mem = [] ∧ State.reset.wmem = [] ∧
  rd State.reset Reg.BSL_STROKE_CFG = 3#32 ∧ rd State.reset (Reg.BSL_INC 0) = 0x01000000#32 ∧
  rd State.reset (Reg.BSL_INC 1) = 0x01000000#32 ∧ rd State.reset Reg.BSL_SERVO_CFG = 0x206#32 ∧
  rd State.reset Reg.INK_SLACK_MIN = 0x7FFF#32 ∧ rd State.reset Reg.INK_OVR_CFG = 2#32 ∧
  rd State.reset Reg.PWR_RST_CAUSE = 1#32 ∧ rd State.reset Reg.PWR_PD_STAT = 3#32 ∧
  (∀ t : Fin 512, taskState State.reset t = 5) ∧
  (∀ c : Fin 16, rd State.reset (Reg.SC_MTIMECMP_LO c) = 0xFFFFFFFF#32 ∧
    rd State.reset (Reg.SC_MTIMECMP_HI c) = 0xFFFFFFFF#32 ∧ State.reset.ink.core[c].hart.pc = 0x10000000#32) ∧
  (∀ k : Fin 4, rd State.reset (Reg.SB_CTL k) = 0) ∧ (∀ a, 0x04700000 ≤ a → a < 0x04800000 → rd State.reset a = 0)

/-- Every step from a state in which the register file and the memories stand in canonical form and every bounded
structure is within its bound answers a next state in which they are, with the front of the queue taken (R105, R108,
R421, R430, R548). -/
def Obligations.KeptByEveryStep : Prop :=
  ∀ (s : State) (q : List Instr), Kept q s → ∃ t, step s = .next t ∧ Kept q.tail t

/-- A full read of a memory word answers the word, and a full write stores it, where the bus takes them. A refused access
changes no memory, no engine, and no register but those that record it: HST_ACCERR takes its direction, reason and master,
and HST_ACCERR_ADDR its address, unless an error stands there, and the host is told; a write completes for PCIe and LBUS,
a read gives LBUS 0 and any other master an error (R526, R531, R534, R553). A core whose access is refused has ACCERR set,
and takes the load or store access fault exception while it is live (R242; its entry is of the RISC-V family, log entry
97). An access of a master that an engine holds a read of waits, and an engine in service that runs a program holds a read
of its memory (R77, R530; log entry 125).

Refused are, below 0x1000_0000: with 4 an address outside every block of the map; with 1 what the access table of the
target denies; with 2 an access of a register block that is not aligned or not full; with 5 one reserved to another
master; with 7 one of a domain that is off, a write of the image being loaded by another master than the Steward, and one
of an engine's memory in service; where several hold, the first in this order, which is the model's choice (log entry 55);
no other access of a register block, and no other of the Scriptorium (R77, R256, R531, R533, R545, R550, R554, R555). -/
def Obligations.MemoryAccesses : Prop :=
  (∀ (s : State) (m : Master) (a : BitVec 32) (v : Word), busDead s m = false → MasterFree s m →
    let recorded (write : Bool) (k : Nat) (t : State) : Prop :=
      MemoryKept s t (fun _ => False) (fun _ => False) ∧ t.eng = s.eng ∧ (m.val < 2 ∨ 17 < m.val → t.ink = s.ink) ∧
      RegsKept s t (fun r => r = Reg.HST_ACCERR ∨ r = Reg.HST_ACCERR_ADDR ∨ r = Reg.HST_IRQ_PEND ∨
        ∃ c : Fin 16, m.val = c.val + 2 ∧ (r = Reg.SC_IRQ_PEND c ∨ r = Reg.SC_STAT c)) ∧
      (rdb s Reg.HST_ACCERR 31 = false →
        rd t Reg.HST_ACCERR = BitVec.ofNat 32 (2 ^ 31 + write.toNat * 2 ^ 30 + k * 2 ^ 27 + m.val * 2 ^ 22) ∧
        rd t Reg.HST_ACCERR_ADDR = a ∧ rdb t Reg.HST_IRQ_PEND 14 = true) ∧
      (rdb s Reg.HST_ACCERR 31 = true → rd t Reg.HST_ACCERR = rd s Reg.HST_ACCERR ∧
        rd t Reg.HST_ACCERR_ADDR = rd s Reg.HST_ACCERR_ADDR) ∧
      ∀ c : Fin 16, m.val = c.val + 2 → rdb t (Reg.SC_IRQ_PEND c) 5 = (rdb s (Reg.SC_IRQ_PEND c) 5 || pdOn s (pdOfCore c)) ∧
        (coreLive s c = true → let h := t.ink.core[c].hart
          h.mepc = s.ink.core[c].hart.pc ∧ h.mcause = (if write then 7 else 5) ∧ h.mtval = a ∧ h.mie = false ∧
          h.pc = (s.ink.core[c].hart.mtvec &&& 0xFFFFFFFC#32) ∧ rdf t (Reg.SC_STAT c) 28 4 = 1)
    (a.toNat % 4 = 0 → a.toNat < 0x400000 →
      (refusal s m false a.toNat .all = none → after (.registerRead m a ⟨.all, .clean⟩) s (fun t =>
        t.hst.resp[m] = .value (mrd32 s a.toNat) ∧ RegsKept s t (fun _ => False) ∧
        MemoryKept s t (fun _ => False) (fun _ => False))) ∧
      (refusal s m true a.toNat .all = none → after (.registerWrite m a ⟨.all, .clean⟩ v) s (fun t =>
        Answered t m ∧ mrd32 t a.toNat = v ∧ RegsKept s t (fun _ => False) ∧
        MemoryKept s t (fun b => a.toNat ≤ b ∧ b < a.toNat + 4) (fun _ => False)))) ∧
    (∀ k, refusal s m true a.toNat .all = some k → after (.registerWrite m a ⟨.all, .clean⟩ v) s (fun t =>
      t.hst.resp[m] = (if m.val < 2 then .done else .refused) ∧ recorded true k t)) ∧
    (∀ k, refusal s m false a.toNat .all = some k → after (.registerRead m a ⟨.all, .clean⟩) s (fun t =>
      t.hst.resp[m] = (if m.val = 1 then .value 0 else .refused) ∧ recorded false k t)) ∧
    (∀ e : Fin 16, (eng s e).mode = 2 → engIdle (eng s e) = false → refusal s m false a.toNat .all = none →
      0x01000000 + e.val * 0x100000 ≤ a.toNat → a.toNat < 0x01008000 + e.val * 0x100000 →
      after (.registerRead m a ⟨.all, .clean⟩) s (fun t => t.hst.resp[m] = .none ∧ t.mem = s.mem ∧ t.regs = s.regs ∧
        (eng t e).held = (eng s e).held ++ [{ m := m, addr := a.toNat, fixed := 0, failed := false }]))) ∧
  (∀ (s : State) (m : Master) (a : BitVec 32) (l : Lanes) (v : Word), heldBy s m = true →
    after (.registerWrite m a ⟨l, .clean⟩ v) s (fun t => t.hst.resp[m] = .none ∧ t.mem = s.mem ∧ t.regs = s.regs ∧
      t.hst.wait[m] = s.hst.wait[m] ++ [.write a.toNat l v .clean])) ∧
  (∀ (s : State) (m : Master) (write : Bool) (a : Nat) (l : Lanes),
    let table (n : Nat) : Bool := rdb s (Reg.FUS_ACC n (m.val / 16)) (2 * (m.val % 16) + write.toNat)
    let shows (r : Option Nat) : Prop := refusal s m write a l = r
    (0x400000 ≤ a ∧ a < 0x01000000 ∨ 0x03000000 ≤ a ∧ a < 0x04000000 ∨ 0x04C00000 ≤ a ∧ a < 0x05000000 ∨
      0x05100000 ≤ a ∧ a < 0x08000000 ∨ 0x09800000 ≤ a ∧ a < 0x10000000 → shows (some 4)) ∧
    (∀ b : Fin 12, 0x04000000 + b.val * 0x100000 ≤ a → a < 0x04100000 + b.val * 0x100000 →
      let dom : Vector Nat 12 := #v[10, 10, 11, 0, 14, 15, 14, 0, 0, 0, 1, 0]
      let whole := a % 4 = 0 ∧ lanesFull l = true
      (table (3 + b.val) = true → shows (some 1)) ∧
      (table (3 + b.val) = false → ¬ whole → shows (some 2)) ∧
      (table (3 + b.val) = false → whole → reservedTo s m write a = true → shows (some 5)) ∧
      (table (3 + b.val) = false → whole → reservedTo s m write a = false →
        (pdOn s dom[b] = false → (b.val = 2 → pdOn s 12 = false) → shows (some 7)) ∧
        (pdOn s dom[b] = true → (b.val = 2 → pdOn s 12 = true) → shows none))) ∧
    (a < 0x400000 →
      let held := ∃ lo n, s.stw.range = some (lo, n) ∧ m.val ≠ 18 ∧ lo < a / 4 * 4 + 4 ∧ a / 4 * 4 < lo + n
      (table 0 = true → shows (some 1)) ∧
      (table 0 = false → pdOn s 10 = false ∨ write = true ∧ held → shows (some 7)) ∧
      (table 0 = false → pdOn s 10 = true → ¬ (write = true ∧ held) → shows none)) ∧
    (∀ e : Fin 16, 0x01000000 + e.val * 0x100000 ≤ a → a < 0x01008000 + e.val * 0x100000 → table 1 = false →
      pdOn s (pdOfEngine e) = true → shows (if write = true ∧ (eng s e).mode = 2 then some 7 else none)) ∧
    lanesFull .all = true ∧ (∀ be, lanesFull (.some be) = decide (be = 0b1111#4)) ∧
    (∀ c : Fin 16, let other : Bool := decide (m.val ≠ c.val + 2)
      reservedTo s m write (Reg.INK_TAKE c) = (!write && other) ∧
      (∀ r ∈ [Reg.INK_DONE c.val, Reg.INK_RES0 c, Reg.INK_RES1 c, Reg.INK_RES2 c], reservedTo s m write r = (write && other)) ∧
      (∀ w : Fin 8, reservedTo s m write (Reg.DCT_PORTW c w) = (write && other))) ∧
    reservedTo s m write Reg.HST_HDB = (write && decide (m.val < 2 ∨ 17 < m.val)) ∧
    (∀ q : Fin 8, reservedTo s m write (Reg.HST_Q_WR q) = (write && decide (m.val ≠ rdf s (Reg.HST_Q_CFG q) 8 5))))

/-- A write of HST_IRQ_EN stores the whole word, and one to the alias of a bit stores that bit alone; a read of the alias
gives the bit. A read of HST_IRQ_PEND gives its bits and clears them. Of DCT_CFG_n the axis unit in bits 31 to 16 is
stored while DCT_CTL.LOCK is 0; under the lock it stands, and a write that would change it is recorded with reason 3.
LBUS writes a register with its high half, from the low half that it wrote before (R529, R535, R536, R537). -/
def Obligations.RegisterAccesses : Prop :=
  ∀ (s : State) (m : Master) (v : Word) (i : Fin 32) (n : Fin 256) (l h : Half),
    let bitAddr : Word := BitVec.ofNat 32 (0x09000000 + 0x34 / 4 * 128 + i.val * 4)
    let en : Word := BitVec.ofNat 32 Reg.HST_IRQ_EN
    (Accepted s m Reg.HST_IRQ_EN → after (.registerWrite m en ⟨.all, .clean⟩ v) s (fun t => Answered t m ∧
      rd t Reg.HST_IRQ_EN = v ∧ RegsKept s t (fun a => a = Reg.HST_IRQ_EN))) ∧
    (Accepted s m bitAddr.toNat → after (.bitAliasWrite m bitAddr v) s (fun t => Answered t m ∧
      rd t Reg.HST_IRQ_EN = putBit (rd s Reg.HST_IRQ_EN) i.val (bit v 0) ∧ RegsKept s t (fun a => a = Reg.HST_IRQ_EN))) ∧
    (AcceptedRead s m bitAddr.toNat → after (.bitAliasRead m bitAddr) s (fun t =>
      t.hst.resp[m] = .value (if rdb s Reg.HST_IRQ_EN i.val then 1 else 0) ∧ RegsKept s t (fun _ => False))) ∧
    (AcceptedRead s m Reg.HST_IRQ_PEND → after (.registerRead m (BitVec.ofNat 32 Reg.HST_IRQ_PEND) ⟨.all, .clean⟩) s (fun t =>
      t.hst.resp[m] = .value (rd s Reg.HST_IRQ_PEND) ∧ rd t Reg.HST_IRQ_PEND = 0 ∧
      RegsKept s t (fun a => a = Reg.HST_IRQ_PEND))) ∧
    (Accepted s m (Reg.DCT_CFG n) → rdb s Reg.DCT_CTL 8 = false →
      after (.registerWrite m (BitVec.ofNat 32 (Reg.DCT_CFG n)) ⟨.all, .clean⟩ v) s (fun t => Answered t m ∧
        rd t (Reg.DCT_CFG n) = put (rd s (Reg.DCT_CFG n)) 16 16 (fld v 16 16))) ∧
    (Accepted s m (Reg.DCT_CFG n) → rdb s Reg.DCT_CTL 8 = true → rdb s Reg.HST_ACCERR 31 = false →
      rdf s (Reg.DCT_CFG n) 16 16 ≠ fld v 16 16 →
      after (.registerWrite m (BitVec.ofNat 32 (Reg.DCT_CFG n)) ⟨.all, .clean⟩ v) s (fun t => Answered t m ∧
        rd t (Reg.DCT_CFG n) = rd s (Reg.DCT_CFG n) ∧ rdb t Reg.HST_ACCERR 31 = true ∧ rdf t Reg.HST_ACCERR 27 3 = 3 ∧
        rdf t Reg.HST_ACCERR 22 5 = m.val ∧ rd t Reg.HST_ACCERR_ADDR = BitVec.ofNat 32 (Reg.DCT_CFG n))) ∧
    (busDead s 1 = false → MasterFree s 1 → after (.lbusHalfAccess en ⟨some l, .clean⟩) s (fun t => Answered t 1 ∧
      t.hst.lbWrite = some (en, l) ∧ RegsKept s t (fun _ => False))) ∧
    (Accepted s 1 Reg.HST_IRQ_EN → s.hst.lbWrite = some (en, l) → after (.lbusHalfAccess (en + 2) ⟨some h, .clean⟩) s (fun t =>
      Answered t 1 ∧ rd t Reg.HST_IRQ_EN = h ++ l ∧ t.hst.lbWrite = none))

/-! ## Debug and the stroke -/

/-- A write of QE_CTL.MODE is refused where it asks for debug while service is in effect or pending; to another mode
than service an idle engine changes at once, and to service it waits for the page. STEP in debug mode executes the
instruction at QE_DBG_PC, which moves on as the PC does (R118, R119). A change of mode that waits takes effect once the
engine is idle, and one to service at its page boundary, with the draft work of the ended page done: debug halts it
(R118, R119). That a change from debug to service waits for the page too, that a refused debug write is no access error,
when a waiting change takes effect, and what QE_DBG_PC shows after a step, are the model's readings (log entries 113, 79
and 32). -/
def Obligations.QuillModesAndDebug : Prop :=
  (∀ (s : State) (m : Master) (e : Fin 16) (v : Word), Writable s m (Reg.QE_CTL e) →
     let g := eng s e
     let x : BitVec 2 := BitVec.ofNat 2 (fld v 0 2)
     let pc : BitVec 12 := BitVec.ofNat 12 (rdf s (Reg.QE_DBG_PC e) 0 12)
     (bit v 4 = false → x = 3 → g.mode = 2 ∨ g.nextMode = some 2 → after (.qeMode m e v) s (fun t => Answered t m ∧
       (eng t e).mode = g.mode ∧ (eng t e).nextMode = g.nextMode ∧ rdf t (Reg.QE_CTL e) 0 2 = rdf s (Reg.QE_CTL e) 0 2)) ∧
     (bit v 4 = false → x ≠ 2 → x ≠ g.mode → ¬ (x = 3 ∧ (g.mode = 2 ∨ g.nextMode = some 2)) → engIdle g = true →
       after (.qeMode m e v) s (fun t => Answered t m ∧ (eng t e).mode = x ∧ (eng t e).nextMode = none ∧
         rdf t (Reg.QE_CTL e) 0 2 = x.toNat ∧ (x = 3 → (eng t e).run = .debug))) ∧
     (bit v 4 = false → x = 2 → g.mode ≠ 2 → (g.nextMode = some 2 → g.modeDue = true → workEnded g = false) →
       after (.qeMode m e v) s (fun t => Answered t m ∧
         (eng t e).mode = g.mode ∧ (eng t e).nextMode = some 2 ∧ rdf t (Reg.QE_CTL e) 0 2 = 2)) ∧
     (∀ i r, x = 3 → g.mode = 3 → g.run = .debug → g.nextMode = none → decodeQ (mrd32 s (qProgAddr e pc)) = some i →
       straight i = true → after (.qeStep m e { v := v, det := .clean, retry := r }) s (fun t => Answered t m ∧
         rdf t (Reg.QE_DBG_PC e) 0 12 = (loopsOn pc g.reps).1.toNat ∧ (eng t e).run = .debug ∧
         (∀ r w, i = .ldi r w → Shows t e (writeReg g r w)) ∧
         MemoryKept s t (instrStores g e i) (fun _ => False)))) ∧
  (∀ (s : State) (e : Fin 16) (m : BitVec 2), (eng s e).run = .idle → (eng s e).nextMode = some m →
     (m ≠ 2 ∨ (eng s e).modeDue = true ∧ ((eng s e).mode = 1 → (eng s e).list = []) →
       after (.modeChangeEffect e) s (fun t => (eng t e).mode = m ∧ (eng t e).nextMode = none ∧
         (eng t e).run = (if m = 3 then .debug else .idle))) ∧
     (m = 2 → (eng s e).modeDue = false → after (.modeChangeEffect e) s (fun t => t = s)))

/-- A send mark, but for a cold-start leader's first and for that of a page's first stroke, counts the stroke, latches
the times of both domains at its tick and sets the next mark one period on; marks run from then on (R51, R52, R386,
R388). At the freeze mark the receive side of every axis swaps: fresh feedback has age 0, and where none came the age
counts on; the reactions decided by then take effect. At the node instant every channel that counts latches its
position, and Ductus its time (R14, R120, R326, R403, R515). -/
def Obligations.MarksAndInstants : Prop :=
  (∀ (s : State) (pace : Half), (marks s = true ∨ s.pln.grid = true ∧ csState s ≠ 3) → strokeNo s ≠ 63 →
     after (.sendMark pace) s (fun t => rd t Reg.BSL_STROKE_NUM = rd s Reg.BSL_STROKE_NUM + 1 ∧ marks t = true ∧
       strokeNo t = strokeNo s + 1 ∧ pageNo t = pageNo s ∧ t.base.sendTick = s.tick ∧ t.base.sendTime = s.base.next ∧
       t.base.latch = s.base.dom ∧ t.base.next = s.base.next.shift ((periodNs s * 2 ^ 24 : Nat) : Int))) ∧
  (∀ (s : State) (pace : Half), marks s = false → s.pln.grid = false → after (.sendMark pace) s (fun t => t = s)) ∧
  (∀ s : State,
     (marks s = true → after .freezeMark s (fun t =>
       (∀ n : Fin 256, t.ax[n].fresh = false ∧
         t.ax[n].fbAge = if s.ax[n].fresh = true ∧ (∀ k, s.axcfg[n].lf = some k → lfDelivers s k = true) then 0
           else min (s.ax[n].fbAge + 1) 255) ∧
       ((∀ e : Fin 16, (eng s e).run ≠ .retrying) → t.mgn.effDeg = heldAt s 1 ∧ t.mgn.effQs = heldAt s 2))) ∧
     (pdOn s 14 = true → after .nodeInstant s (fun t =>
       (∀ n : Fin 8, lfMode s n ≠ 0 → rd t (Reg.LF_POS n) = s.lf[n].c ∧ rd t (Reg.LF_ANG n) = BitVec.ofNat 32 s.lf[n].a) ∧
       t.dct.tNode = (now s).units ∧ t.dct.tPrev = s.dct.tNode)))

/-- At the release mark in full service the axes of a group that has work and is not released repeat their outputs, with
the age flag, from the standstill output where it was never released; the library state they computed is dropped; the miss
is counted, in all and in a run. The publication of the axis view names the page, the half and the stroke of the copy
(R66, R67, R68, R353). -/
def Obligations.LateGroupsRepeat : Prop :=
  ∀ (s : State) (g : Fin 32),
    (marks s = true → fullService s = true → s.grp[g].released = false →
      (∃ n ∈ s.wave.grpList[g], s.ax[n].ent ≠ .none) → strokeNo s ≠ 63 →
      (∀ h : Fin 32, h ≠ g → ∀ n ∈ s.wave.grpList[h], n ∉ s.wave.grpList[g]) →
      after .releaseMark s (fun t => t.grp[g].late = true ∧ rdb t Reg.INK_SLACK_MISS g = true ∧
        rdf t (Reg.INK_OVR g) 0 8 = min (rdf s (Reg.INK_OVR g) 0 8 + 1) 255 ∧
        rdf t (Reg.INK_OVR g) 8 24 = (if rdb s Reg.INK_SLACK_CTL 0 then min (rdf s (Reg.INK_OVR g) 8 24 + 1) (2 ^ 24 - 1)
          else rdf s (Reg.INK_OVR g) 8 24) ∧
        ∀ n ∈ s.wave.grpList[g], t.ax[n].age = true ∧
          t.ax[n].lib = s.ax[n].lib ∧ t.ax[n].libNew = none ∧
          t.ax[n].out = if s.grp[g].ever then s.ax[n].out else standstillOut s.axcfg[n])) ∧
    (rdb s Reg.PLN_VIEW_CFG 0 = true → after .viewPublish s (fun t =>
      rd t Reg.PLN_VIEW_PUB = BitVec.ofNat 32 (pageNo s % 65536 * 65536 + strokeNo s % 2 * 64 + strokeNo s) ∧
      RegsKept s t (fun a => a = Reg.PLN_VIEW_PUB)))

/-! ## Margin -/

/-- An assertion records its source: sticky bit and count. An event, or a condition that was not active, is the first of
them where MGN_FIRST is armed, and brings its class, where that is enabled and idle, into grace, with its source, its
groups in the scope and the host told. A transient only counts (R501, R506, R518, R524). -/
def Obligations.AssertionsAreRecorded : Prop :=
  ∀ (s : State) (n : Fin 512) (d : Word), Heard s n → srcKind n ≠ .reserved →
    n.val ≠ 0x112 → n.val ≠ 0x113 → n.val ≠ 0x116 → n.val ≠ 0x117 → (srcKind n = .condition → srcActive s n = false) →
    let cnt (s : State) := smGet (fun _ => 0#64) s.mgn.counts n
    after (.sourceAssertion n d) s (fun t =>
      rdb t (Reg.MGN_SRC (n / 32)) (n % 32) = true ∧ cnt t = cnt s + 1 ∧
      (srcKind n = .condition → srcActive t n = true) ∧ (srcKind n = .event → srcActive t n = srcActive s n) ∧
      (srcKind n = .transient → rd t Reg.MGN_FIRST = rd s Reg.MGN_FIRST ∧ ∀ c < 64, rd t (Reg.MGN_CLS c) = rd s (Reg.MGN_CLS c)) ∧
      (srcKind n ≠ .transient → rdb s Reg.MGN_FIRST 31 = false → rd t Reg.MGN_FIRST = BitVec.ofNat 32 (2 ^ 31 + n.val)) ∧
      (rdb s Reg.MGN_FIRST 31 = true → rd t Reg.MGN_FIRST = rd s Reg.MGN_FIRST) ∧
      (∀ c : Fin 64, srcKind n ≠ .transient → classOf s n = c.val → rdb s (Reg.MGN_CLSCFG0 c) 31 = true → clsState s c = 0 →
        clsState t c = 1 ∧ rdf t (Reg.MGN_CLS c) 16 9 = n.val ∧
        t.mgn.scope[c] = (s.mgn.scope[c] ||| (ownGroups s n ||| rd s (Reg.MGN_CLSCFG1 c))) ∧
        rdb t (Reg.MGN_PEND (c / 32)) (c % 32) = true ∧ rdb t Reg.HST_IRQ_PEND 8 = true))

/-- A wiring fault of a pair whose domain is on, and which no injection forces, records the pair in MGN_WIRE, unless one
stands there, and source 0x1FF, and the pair's own source unless that is reserved; the collector sees none of another pair
(R499, R500), and no more than a new instant begins (log entry 123). A stop of the Steward joins those that the transmit control of each channel not withdrawn holds (R24). Where
injection is available, GO of MGN_INJ forces the pair SRC: MODE 1 asserts its source, 2 and 3 make a wiring fault of it,
and 0 releases a forced pair, whose source is then active where what its own block reports stands; no other pair changes
its forcing. Where injection is not available, the write changes nothing (R522). -/
def Obligations.WiringFaultsGroupStopsAndInjection : Prop :=
  (∀ (s : State) (p : Fin 512) (g : Fin 32),
     (¬ Heard s p → after (.wiringFault p) s (fun t => t = newInstant s)) ∧
     (Heard s p → after (.wiringFault p) s (fun t => rdb t (Reg.MGN_SRC 15) 31 = true ∧
       (srcKind p ≠ .reserved → rdb t (Reg.MGN_SRC (p / 32)) (p % 32) = true) ∧
       rd t Reg.MGN_WIRE = if rdb s Reg.MGN_WIRE 31 then rd s Reg.MGN_WIRE else BitVec.ofNat 32 (2 ^ 31 + p.val))) ∧
     after (.stewardGroupStop g) s (fun t => RegsKept s t (fun _ => False) ∧ ∀ b : Bool, t.mgn.stwStop.get b =
       if rdf s (Reg.PLN_CH_STAT (if b then 1 else 0)) 29 3 = 2 then s.mgn.stwStop.get b
       else s.mgn.stwStop.get b ||| groupBit g)) ∧
  (∀ (s : State) (m : Master) (v : Word), Writable s m Reg.MGN_INJ →
     let n := fld v 0 9
     let mode := fld v 16 2
     let was := forcedMode s n
     let sets (t : State) : Prop := rdb t (Reg.MGN_SRC (n / 32)) (n % 32) = true
     (rdb s Reg.MGN_INJ 31 = false → after (.mgnInjGo m v) s (fun t => Answered t m ∧ t.mgn = s.mgn ∧
       RegsKept s t (fun _ => False))) ∧
     (rdb s Reg.MGN_INJ 31 = true → after (.mgnInjGo m v) s (fun t => Answered t m ∧
       rdf t Reg.MGN_INJ 0 9 = n ∧ rdf t Reg.MGN_INJ 16 2 = mode ∧
       forcedMode t n = mode ∧ (∀ p, p ≠ n → forcedMode t p = forcedMode s p) ∧
       (mode = 0 → was = 0 → t.mgn = s.mgn) ∧
       (mode = 0 → was ≠ 0 → n ∉ s.mgn.under → srcActive t n = false) ∧
       (mode = 0 → was ≠ 0 → n ∈ s.mgn.under → srcKind n = .condition → srcActive t n = true) ∧
       (mode = 1 → was ≠ 1 → srcKind n ≠ .reserved → (srcKind n = .condition → srcActive s n = false) → sets t) ∧
       (2 ≤ mode → was < 2 → rdb t (Reg.MGN_SRC 15) 31 = true ∧ (srcKind n ≠ .reserved → sets t)))))

/-- The end of a class's grace brings its reaction at LEVEL into effect, and each further interval raises it by 1 up to
CEIL. An acknowledgement stops both; a clear ends the reaction and its scope, unless an active condition of the class
bars it. RE-ARM arms MGN_FIRST (R507, R508, R513, R518). -/
def Obligations.ReactionsOfAClass : Prop :=
  ∀ (s : State) (c : Fin 64) (m : Master) (v : Word),
    let hi : Bool := decide (32 ≤ c.val)
    let mine : Bool := bit v (c.val % 32)
    (clsState s c = 1 → after (.graceEnd c) s (fun t => clsState t c = 3 ∧
      clsLevel t c = rdf s (Reg.MGN_CLSCFG0 c) 28 3 ∧ rdb t Reg.HST_IRQ_PEND 9 = true)) ∧
    (clsState s c = 3 → clsLevel s c < rdf s (Reg.MGN_CLSCFG0 c) 25 3 → after (.escalation c) s (fun t =>
      clsState t c = 3 ∧ clsLevel t c = clsLevel s c + 1 ∧ rdb t Reg.HST_IRQ_PEND 9 = true)) ∧
    (clsState s c = 3 → rdf s (Reg.MGN_CLSCFG0 c) 25 3 ≤ clsLevel s c → after (.escalation c) s (fun t => t = s)) ∧
    (Writable s m (Reg.MGN_ACK hi.toNat) → after (.mgnAck m hi v) s (fun t => Answered t m ∧ clsLevel t c = clsLevel s c ∧
      clsState t c = if mine && clsState s c == 1 then 2 else if mine && clsState s c == 3 then 4 else clsState s c)) ∧
    (Writable s m (Reg.MGN_CLR hi.toNat) → mine = true → clearBarred s c = false → after (.mgnClr m hi v) s (fun t =>
      Answered t m ∧ clsState t c = 0 ∧ (clsState s c ≠ 0 → clsLevel t c = 0 ∧ t.mgn.scope[c] = 0 ∧
        rdb t (Reg.MGN_PEND (c / 32)) (c % 32) = false))) ∧
    (Writable s m (Reg.MGN_CLR hi.toNat) → mine = true → clsState s c ≠ 0 → clearBarred s c = true →
      after (.mgnClr m hi v) s (fun t => Answered t m ∧ rd t (Reg.MGN_CLS c) = rd s (Reg.MGN_CLS c) ∧ rdb t Reg.MGN_STAT 30 = true)) ∧
    (Writable s m Reg.MGN_FIRST → after (.rearm m v) s (fun t => Answered t m ∧ rdb t Reg.MGN_FIRST 31 = false))

/-! ## Ductus -/

/-- MOVE_ABS and MOVE_REL set the target, absolute or on from the present position, and the limits that they name;
VELOCITY runs to its velocity and holds it; ABORT ends gear, cam and following and ramps to rest; a gear, a cam or
following turns moves and velocities away with 3, and missing feedback holds them with 6 (R172, R173, R178, R184, R185,
R188, R191, R192). Every record of a slot that takes none is answered with code 7, one that is malformed with 2, and one
that a reaction of the slot's group turns away with 3 (R164, R175, R178, R516). That LAST_OP and RESULT show a rejected
record too, and that a record waits behind one that the slot holds for feedback, are the model's readings (log entry
26). -/
def Obligations.DuctusMotionRecords : Prop :=
  (∀ (s : State) (n : Fin 256) (w : DctParams),
     let k := slotOf s n
     let busy := 4 ≤ slotState s n ∧ slotState s n ≤ 7
     let some' (old new : Nat) : Nat := if new = 0 then old else new
     (Admits s n 1 w → ¬ busy → (w.w3 = 0 → k.lim.v ≠ 0) → Ready s n → after (.moveAbs n w) s (fun t =>
       Resulted n 1 1 t ∧ (slotOf t n).target = posOf (recordPos w) ∧ (slotOf t n).lim.v = some' k.lim.v w.w3.toNat)) ∧
     (Admits s n 2 w → ¬ busy → (w.w3 = 0 → k.lim.v ≠ 0) → needsResync s n = false → after (.moveRel n w) s (fun t =>
       Resulted n 2 1 t ∧ (slotOf t n).target = posOf (shr (slotPresent k).1 32 + recordPos w) ∧
       (slotOf t n).lim.v = some' k.lim.v w.w3.toNat)) ∧
     (Admits s n 3 w → ¬ busy → Ready s n → after (.velocity n w) s (fun t => Resulted n 3 1 t ∧
       (w.w1 ≠ 0 → rdf t (Reg.DCT_ST n) 28 4 = 3 ∧
         ∃ p, (slotOf t n).prof = some p ∧ p.fin = .hold ∧ p.target = w.w1.toInt * 2 ^ 32))) ∧
     (Admits s n 4 w → after (.setLimits n w) s (fun t => Resulted n 4 1 t ∧
       (slotOf t n).lim.v = some' k.lim.v w.w3.toNat ∧ (slotOf t n).lim.a = some' k.lim.a w.w4.toNat ∧
       (k.prof = none → (slotOf t n).lim.d = some' k.lim.d w.w5.toNat ∧ (slotOf t n).lim.j = some' k.lim.j w.w6.toNat))) ∧
     (Admits s n 5 w → slotIdle k = false → after (.abort n w) s (fun t => Resulted n 5 1 t ∧
       (slotOf t n).gear = none ∧ (slotOf t n).cam = none ∧ (slotOf t n).steps = false ∧
       ((slotOf t n).prof = none ∧ rdf t (Reg.DCT_ST n) 14 2 = 2 ∨ ∃ p, (slotOf t n).prof = some p ∧ p.fin = .abort))) ∧
     (Admits s n 5 w → slotIdle k = true → after (.abort n w) s (fun t => Resulted n 5 1 t ∧
       rdb t (Reg.DCT_ST n) 2 = true ∧ (slotOf t n).prof = none)) ∧
     (busy → (Admits s n 1 w → after (.moveAbs n w) s (Resulted n 1 3)) ∧
       (Admits s n 2 w → after (.moveRel n w) s (Resulted n 2 3)) ∧
       (Admits s n 3 w → after (.velocity n w) s (Resulted n 3 3))) ∧
     (Admits s n 3 w → ¬ busy → ¬ Ready s n → after (.velocity n w) s (fun t =>
       Resulted n 3 6 t ∧ (slotOf t n).held.isSome = true ∧ rdf t (Reg.DCT_ST n) 28 4 = 9))) ∧
  (∀ (s : State) (n : Fin 256) (w : DctParams) (i : Fin 13),
     ((slotOf s n).held.isSome = true → after (dctRow i n w) s (fun t => t.regs = s.regs ∧ t.mem = s.mem ∧ t.ax = s.ax ∧
       (slotOf t n).held = (slotOf s n).held ∧ (slotOf t n).waiting = (slotOf s n).waiting ++
         [{ src := .direct, w0 := BitVec.ofNat 32 (n.val * 2 ^ 16 + (i.val + 1)), w := w }])) ∧
     ((slotOf s n).held = none →
       (slotOn s n = false → after (dctRow i n w) s (fun t => Resulted n (i.val + 1) 7 t ∧ t.ax = s.ax ∧ t.mem = s.mem)) ∧
       (slotOn s n = true → recordWf (i.val + 1) w = false → after (dctRow i n w) s (Resulted n (i.val + 1) 2)) ∧
       (slotOn s n = true → recordWf (i.val + 1) w = true → recordBarred s n (i.val + 1) = true →
         after (dctRow i n w) s (Resulted n (i.val + 1) 3))))

/-- Gearing, cam use and step following begin from an idle slot with a master (a channel, for following), and change while
they stand; any other slot answers code 3. CAM_IN answers 4 for a table that is not armed and checked, 2 for a position
outside its cycle, and 5 for a slope beyond VJUMP (R196 to R199, R201, R202, R205, R206, R208). Code 2 of CAM_IN, code 3 of
a DISENGAGE with nothing to end and of a STEPDIR EN 0 while off, what LAST_OP shows of a rejected record, and a remainder
of 0 after GEAR_RATIO, are the model's readings (log entries 26 and 27). -/
def Obligations.DuctusCouplingRecords : Prop :=
  ∀ (s : State) (n : Fin 256) (w : DctParams),
    let k := slotOf s n
    let st := slotState s n
    let tb : Fin 64 := Fin.ofNat 64 (fld w.w1 0 6)
    let u := camAt s tb ((w.w2.toNat : Int) * 2 ^ 16)
    let steep := (k.record[(8 : Fin 16)].toNat : Rat) < ratAbs (camSlope s tb u.1 u.2) * ratAbs (k.dm : Rat)
    let free := mSrc s n ≠ 0 ∧ slotIdle k = true
    (Admits s n 6 w → (free → Ready s n → after (.gearIn n w) s (fun t => Resulted n 6 1 t ∧
        rdf t (Reg.DCT_ST n) 28 4 = 4 ∧ (slotOf t n).gear = some { num := w.w1.toInt, den := w.w2.toNat, q := 0
                                                                   disp := 0, ramp := some (w.w3.toNat, 0, 0, 0)
                                                                   engaged := false })) ∧
      (¬ free → after (.gearIn n w) s (Resulted n 6 3))) ∧
    (Admits s n 7 w → (∀ g, k.gear = some g → g.engaged = true → after (.gearRatio n w) s (fun t => Resulted n 7 1 t ∧
        (slotOf t n).gear = some { g with num := w.w1.toInt, den := w.w2.toNat, q := 0
                                          ramp := some (w.w3.toNat, 0, gearRatioNow g, (g.disp : Rat)) })) ∧
      ((∀ g, k.gear = some g → g.engaged = false) → after (.gearRatio n w) s (Resulted n 7 3))) ∧
    (Admits s n 8 w → (st = 5 ∨ st = 6 → after (.phase n w) s (fun t => Resulted n 8 1 t ∧
        ∃ p, (slotOf t n).phaseProf = some p ∧ p.target = (match k.phaseProf with
          | some q => q.target
          | none => k.phase * 2 ^ 32) + recordPos w * 2 ^ 32)) ∧
      (st ≠ 5 → st ≠ 6 → after (.phase n w) s (Resulted n 8 3))) ∧
    (Admits s n 9 w → ((st = 5 ∨ st = 6) → mSrc s n ≠ 0 → after (.trim n w) s (fun t => Resulted n 9 1 t ∧
        if bit w.w1 4 then (slotOf t n).trimCfg = some { ch := Fin.ofNat 16 (fld w.w1 0 4), pitch := w.w2.toNat
                                                         mexp := w.w3.toNat, win := w.w4.toNat, gain := fld w.w5 0 16
                                                         cmax := w.w6.toNat }
        else (slotOf t n).trimCfg = none ∧ (slotOf t n).trimTarget = k.trim)) ∧
      ((st ≠ 5 ∧ st ≠ 6) ∨ mSrc s n = 0 → after (.trim n w) s (Resulted n 9 3))) ∧
    (Admits s n 10 w →
      (free → camState s tb = 2 → w.w2.toNat < camCyc s tb → ¬ steep → Ready s n → after (.camIn n w) s (fun t =>
        Resulted n 10 1 t ∧ rdf t (Reg.DCT_ST n) 28 4 = 6 ∧ ∃ c, (slotOf t n).cam = some c ∧ c.table = tb ∧
          c.x = (w.w2.toNat : Int) * 2 ^ 16 ∧ c.c = 0 ∧ c.pend = none)) ∧
      (¬ free → after (.camIn n w) s (Resulted n 10 3)) ∧
      (free → camState s tb ≠ 2 → after (.camIn n w) s (Resulted n 10 4)) ∧
      (free → camState s tb = 2 → camCyc s tb ≤ w.w2.toNat → after (.camIn n w) s (Resulted n 10 2)) ∧
      (free → camState s tb = 2 → w.w2.toNat < camCyc s tb → steep → after (.camIn n w) s (Resulted n 10 5))) ∧
    (Admits s n 11 w → (∀ c, k.cam = some c → camState s tb = 2 → after (.camSwitch n w) s (fun t => Resulted n 11 1 t ∧
        (slotOf t n).cam = some { c with pend := some tb })) ∧
      (∀ c, k.cam = some c → camState s tb ≠ 2 → after (.camSwitch n w) s (Resulted n 11 4)) ∧
      (k.cam = none → after (.camSwitch n w) s (Resulted n 11 3))) ∧
    (Admits s n 12 w → (4 ≤ st ∧ st ≤ 7 → after (.disengage n w) s (fun t => Resulted n 12 1 t ∧
        (slotOf t n).gear = none ∧ (slotOf t n).cam = none ∧ (slotOf t n).steps = false)) ∧
      (st < 4 ∨ 7 < st → after (.disengage n w) s (Resulted n 12 3))) ∧
    (Admits s n 13 w →
      (bit w.w1 0 = true → sdEn s n = true → slotIdle k = true → Ready s n → after (.stepdir n w) s (fun t =>
        Resulted n 13 1 t ∧ rdf t (Reg.DCT_ST n) 28 4 = 7 ∧ (slotOf t n).steps = true)) ∧
      (bit w.w1 0 = true → sdEn s n = false ∨ slotIdle k = false → after (.stepdir n w) s (Resulted n 13 3)) ∧
      (bit w.w1 0 = false → k.steps = true → after (.stepdir n w) s (fun t =>
        Resulted n 13 1 t ∧ (slotOf t n).steps = false)) ∧
      (bit w.w1 0 = false → k.steps = false → after (.stepdir n w) s (Resulted n 13 3)))

/-- A write of word 7 of a port commits its record, or sets OVF while one waits. A table without users is armed and
disarmed by its bits, under DCT_CTL.LOCK as without it; a check brings an armed table to 2, or to 3, and the check of a
page leaves a good table and reports a bad one as source 0x0C0 + t. A slot that follows step pulses holds its position at
the time-out (R176, R179, R202, R207, R209). -/
def Obligations.DuctusPortsTablesAndTimeouts : Prop :=
  ∀ (s : State) (m : Master) (c : Fin 16) (tb : Fin 64) (n : Fin 256) (v : Word),
    (Writable s m (Reg.DCT_PORTW c 7) → rdb s (Reg.DCT_PST c) 0 = false → after (.dctPortCommit m c v) s (fun t =>
      Answered t m ∧ rdb t (Reg.DCT_PST c) 0 = true ∧ rdf t (Reg.DCT_PST c) 16 8 = rdf s (Reg.DCT_PORTW c 0) 16 8 ∧
      t.dct.port[c] = some { src := .port c, w0 := rd s (Reg.DCT_PORTW c 0)
                             w := ⟨rd s (Reg.DCT_PORTW c 1), rd s (Reg.DCT_PORTW c 2), rd s (Reg.DCT_PORTW c 3),
                                   rd s (Reg.DCT_PORTW c 4), rd s (Reg.DCT_PORTW c 5), rd s (Reg.DCT_PORTW c 6), v⟩ })) ∧
    (Writable s m (Reg.DCT_PORTW c 7) → rdb s (Reg.DCT_PST c) 0 = true → after (.dctPortCommit m c v) s (fun t =>
      Answered t m ∧ t.dct = s.dct ∧ rdb t (Reg.DCT_PST c) 1 = true)) ∧
    (Accepted s m (Reg.DCT_CAM tb) → after (.camArm m tb v) s (fun t => Answered t m ∧
      camState t tb = if camUsers s tb = 0 then 1 else camState s tb)) ∧
    (Accepted s m (Reg.DCT_CAM tb) → after (.camDisarm m tb v) s (fun t => Answered t m ∧
      camState t tb = if camUsers s tb = 0 then 0 else camState s tb)) ∧
    (camState s tb = 1 → after (.camCheckDone tb) s (fun t => camState t tb = if camGood s tb then 2 else 3)) ∧
    (camState s tb = 2 → camCrcOk s tb = true → after (.camCrcCheck tb) s (fun t => t = newInstant s)) ∧
    (camState s tb = 2 → camCrcOk s tb = false → after (.camCrcCheck tb) s (fun t =>
      camState t tb = 3 ∧ (Heard s (0xC0 + tb.val) → srcActive t (0xC0 + tb.val) = true))) ∧
    (slotOn s n = true → (slotOf s n).steps = true → after (.stepTmo n) s (fun t =>
      (slotOf t n).pcmd = (slotOf s n).pcmd ∧ (slotOf t n).vel = 0 ∧ (slotOf t n).acc = 0 ∧ (slotOf t n).steps = true))

/-! ## Codex and bring-up -/

/-- LOAD, TRANSITION and RESTART are refused with RESULT 2 while an operation runs. LOAD checks the image, and takes a
full one in stages 5 and 10 and a partial one in full service, as a whole; TRANSITION begins the switch out of draft
service; RESTART with its key resets the engines and blocks and begins bring-up. A jog sets the velocity of one draft
axis (R256 to R258, R266, R267, R273 to R275, R279). RESULT 8 for a partial image outside full service, RESULT 0x0A for a
full one in a stage other than 5 and 10, which R258 does not list, and the time of a restart, are the model's readings (log
entries 84, 7 and 116). -/
def Obligations.CodexCommands : Prop :=
  ∀ (s : State) (m : Master) (v : Word), WinWritable s m 16 →
    let b := hostImage s (codexAddr s)
    let part := bit (wAt b 1) 8
    let st := stage s
    let result (r i : Nat) (t : State) : Prop := Answered t m ∧ stage t = st ∧
      rdf t Reg.STW_CODEX_STAT 16 8 = r ∧ rdf t Reg.STW_CODEX_STAT 8 8 = i
    let proper := st = 9 ∧ part = true ∨ (st = 5 ∨ st = 10) ∧ part = false
    (codexBusy s = true → after (.load m v) s (result 2 0) ∧ after (.transition m v) s (result 2 0) ∧
      after (.restart m v) s (result 2 0)) ∧
    (codexBusy s = false →
      (imgHeaderOk b = false → after (.load m v) s (result 3 0xFF)) ∧
      (imgHeaderOk b = true → part = false → st ≠ 5 → st ≠ 10 → after (.load m v) s (result 0x0A 0xFF)) ∧
      (imgHeaderOk b = true → part = true → st ≠ 9 → after (.load m v) s (result 8 0xFF)) ∧
      (∀ e i, proper → checkImage s b = (e, i, none) → after (.load m v) s (fun t =>
        result (e % 256) (i % 256) t ∧ codexBusy t = false)) ∧
      (∀ i g, (st = 5 ∨ st = 10) → part = false → checkImage s b = (0, i, some g) → after (.load m v) s (fun t =>
        Answered t m ∧ t.stw.image = b ∧ (stage t = 5 ∨ stage t = 6) ∧ codexBusy t = true ∧
        t.stw.range = some (codexAddr s, b.length))) ∧
      (∀ i g, st = 9 → part = true → checkImage s b = (0, i, some g) → partBlocked s g = none → g.sect 10 0 = none →
        after (.load m v) s (fun t => result 1 0 t ∧ codexBusy t = false ∧ rd t Reg.STW_CODEX_PART = g.id)) ∧
      (∀ i g x, st = 9 → part = true → checkImage s b = (0, i, some g) → partBlocked s g = some x →
        after (.load m v) s (fun t => result 0x0A (x.idx % 256) t ∧ codexBusy t = false ∧ t.mem = s.mem)) ∧
      (draftService s = false ∨ s.stw.ready = false ∨ jogRuns s = true → after (.transition m v) s (result 0x0D 0)) ∧
      (∀ k, draftService s = true → s.stw.ready = true → jogRuns s = false → s.stw.machine = some k →
        after (.transition m v) s (fun t => Answered t m ∧ stage t = 8 ∧ codexBusy t = true ∧ t.stw.ready = false ∧
          rdf t Reg.PLN_SW_STAT 0 3 = 1 ∧ ∃ w, t.pln.sw = some w ∧ w.target = k.script ∧ w.transition = true)) ∧
      (fld v 8 8 ≠ 0x5A → after (.restart m v) s (result 0x0E 0)) ∧
      (fld v 8 8 = 0x5A → after (.restart m v) s (fun t => Answered t m ∧ stage t = 11 ∧ codexBusy t = true ∧
        rdb t Reg.PWR_RST_CAUSE 3 = true ∧ rd t Reg.STW_CODEX_ID = 0 ∧ marks t = false ∧ t.stw.fromAddr = bit v 3 ∧
        s.tick ≤ t.stw.stageEnd ∧ t.stw.stageEnd ≤ s.tick + 2000000 ∧
        { t.stw with stageEnd := 0, fromAddr := false } = Stw.reset ∧ (∀ e, eng t e = QEng.reset) ∧ t.mem = s.mem))) ∧
    (draftService s = true → after (.stwDraftJog m v) s (fun t => Answered t m ∧
      ∀ (i : Nat) (d : DraftAxis), s.drafts[i]? = some d → t.drafts[i]? = some (
        if i = fld v 16 6 ∧ d.mode ≠ 2 then { d with jog := signedOf 16 (fld v 0 16) } else d)))

/-- Bring-up reads the flash and takes the image of the first slot, or waits for the host; a load is written, or fails and
leaves draft service or nothing; a complete load waits for software, is turned away by a jog, or begins the transition;
and a waiting REACT map takes effect while no class is in grace (R255, R259, R267, R268, R271, R273, R274). That an image
from flash stands at a free multiple of 64, and that stage 7 ends whether or not its commutation tables were answered, are
the model's choices (log entries 83 and 99). With BOOT_HOST sampled high flash is not read (R585). -/
def Obligations.BringUpEvents : Prop :=
  ∀ s : State,
    let result (r : Nat) (t : State) : Prop := rdf t Reg.STW_CODEX_STAT 16 8 = r ∧ codexBusy t = false
    let started (t : State) (k : MachineSec) : Prop :=
      stage t = 8 ∧ ∃ w, t.pln.sw = some w ∧ w.target = k.script ∧ w.transition = true ∧ w.attempts = 0
    (∀ dir a b, s.stw.bootHost = true → after (.bootFlashRead dir a b) s (fun t => t = s)) ∧
    (∀ dir a b, s.stw.bootHost = false → 1 ≤ stage s → stage s ≤ 3 →
      (dirOk dir = false ∨ slotOrder dir a b = [] → after (.bootFlashRead dir a b) s (fun t =>
        stage t = 10 ∧ rdf t Reg.STW_BOOT_STAT 24 4 = 0 ∧ pdOn t 10 = true ∧ codexBusy t = false)) ∧
      (∀ e r i g, dirOk dir = true → slotOrder dir a b = e :: r →
        checkImage s (slotImage dir e.2 e.1) = (0, i, some g) → g.part = false →
        after (.bootFlashRead dir a b) s (fun t => t.stw.image = slotImage dir e.2 e.1 ∧ (stage t = 5 ∨ stage t = 6) ∧
          rdf t Reg.STW_BOOT_STAT 24 4 = (e.1 + 1) % 16 ∧
          ∃ p, p % 64 = 0 ∧ t.mem.readBytes p t.stw.image.length = t.stw.image))) ∧
    (stage s = 5 ∨ stage s = 6 ∨ stage s = 7 → codexBusy s = true →
      (∀ i g, checkImage s s.stw.image = (0, i, some g) → after (.loading true) s (fun t => stage t = 7)) ∧
      (draftService s = true → after (.loading false) s (fun t => stage t = 5 ∧ result 0x0B t)) ∧
      (draftService s = false → after (.loading false) s (fun t => stage t = 10 ∧ result 0x0B t ∧
        rdf t Reg.STW_BOOT_STAT 24 4 = 0 ∧ rd t Reg.PWR_PD_STAT = (rd s Reg.PWR_PD_STAT &&& ~~~0xDBFC#32)))) ∧
    (stage s = 7 → s.stw.ready = false →
      (s.stw.draft = true → s.stw.holdDraft = true → after .transitionRequest s (fun t => t.stw.ready = true ∧ result 1 t)) ∧
      (s.stw.draft = true → s.stw.holdDraft = false → jogRuns s = true → after .transitionRequest s (fun t =>
        t.stw.ready = true ∧ result 0x0D t)) ∧
      (∀ k, s.stw.draft = true → s.stw.holdDraft = false → jogRuns s = false → s.stw.machine = some k →
        after .transitionRequest s (fun t => started t k)) ∧
      (s.stw.draft = false → after .transitionRequest s (fun t => stage t = 8 ∧ csState t = (if s.pln.capable then 1 else 0) ∧
        rdb t Reg.BSL_STROKE_CFG 8 = true ∧ rdb t Reg.DCT_CTL 8 = true ∧ rdb t Reg.INK_CTL 8 = true ∧
        ∀ e : Fin 16, rdb t (Reg.QE_CTL e) 8 = true))) ∧
    (∀ w, s.stw.react = some w → (∀ c : Fin 64, clsState s c ≠ 1) → after .reactEffect s (fun t =>
      t.stw.react = none ∧ rd t Reg.STW_CODEX_PART = s.stw.partId ∧ result 1 t ∧
      ∀ c : Fin 64, rd t (Reg.MGN_CLSCFG0 c) = w.getD (1 + 2 * c.val) 0 ∧ rd t (Reg.MGN_CLSCFG1 c) = w.getD (2 + 2 * c.val) 0 ∧
        rdb t (Reg.MGN_CLS c) 25 = bit (w.getD (1 + 2 * c.val) 0) 31)) ∧
    (∀ c : Fin 64, clsState s c = 1 → after .reactEffect s (fun t => t = s))

/-! ## Plenil: members -/

/-- An uplink of a member inside its slot's window is counted once in a stroke, shows its lock bit, and puts the
feedback of an axis of the node on the receive side; one accepted after the freeze mark brings no feedback, and its
stroke stays one without an uplink. One outside the window is an edge violation. Any other frame changes nothing, but that
a new instant begins (log entry 123). A node
that drifts beyond the absence limit is lost, with a quick-stop of its axes (R55, R283, R325 to R328, R364). -/
def Obligations.UplinksAreJudgedByTheirSlot : Prop :=
  ∀ (s : State) (ch : Fin 2) (f : RxFrame),
    let c : Bool := ch == 1
    let n := frNode f.bytes
    let p := payload f.bytes
    let r := (p.drop 4).take 16
    let a : Fin 256 := Fin.ofNat 256 (f8 r 0)
    let w := fun i => (BitVec.ofNat 16 (f16 r i) : Half)
    let count (lo : Nat) (t : State) : Prop := rdf t (Reg.PLN_NODE n) lo 8 = min (rdf s (Reg.PLN_NODE n) lo 8 + 1) 255
    (uplinkOk s c f = false → after (.uplink ch f) s (fun t => t = newInstant s)) ∧
    (∀ k, uplinkOk s c f = true → activeSlot s n = some k →
      (slotFit s c k (strokeTime s) = .inside → s.pln.node[n].took = false → after (.uplink ch f) s (fun t =>
        t.pln.node[n].took = true ∧ t.pln.node[n].count = s.pln.node[n].count + 1 ∧
        rdb t (Reg.PLN_NODE n) 25 = (fb p 2).getLsbD 2 ∧
        (s.wave.frozen = true → t.pln.node[n].seen = s.pln.node[n].seen ∧ t.ax = s.ax) ∧
        (s.wave.frozen = false → t.pln.node[n].seen = true) ∧
        (s.wave.frozen = false → f8 p 1 = 1 → (nodeAxes s n).contains a = true → s.axcfg[a].lf = none → (fb p 2).getLsbD 2 = false →
          (fb r 1).getLsbD 0 = true → (fb r 1).getLsbD 1 = true →
          t.ax[a].fresh = true ∧ t.ax[a].fbIn.toList = [w 2, w 4, w 6, w 8, w 10, w 12, w 14]))) ∧
      (slotFit s c k (strokeTime s) = .inside → s.pln.node[n].took = true → after (.uplink ch f) s (fun t =>
        t.pln.node[n].count = s.pln.node[n].count ∧ t.ax = s.ax)) ∧
      (slotFit s c k (strokeTime s) = .early ∨ slotFit s c k (strokeTime s) = .late ∧ (chSt s c).wrap = false →
        after (.uplink ch f) s (fun t => count 8 t ∧ count 0 t ∧ t.pln.node[n].edge = true ∧ t.ax = s.ax))) ∧
    (∀ m : Fin 256, isMember s m = true → isDrift s m = true → isLost s m = false →
      s.pln.absence ≤ s.pln.node[m].driftAge → after (.driftLoss m) s (fun t =>
        isLost t m = true ∧ ∀ x ∈ nodeAxes s m, t.ax[x].qsLoss = true))

/-- A join request of a new UID waits for the page's decision with the path of its channel. A member's command is
answered busy, sent again after eight strokes, and ends with its response: a ring entry with its result and tag, a write
of a timing parameter, whoever asked for it, with VALID of its script, which an instant clears and an index with its bit
31 sets, a leave with the end of the membership; after three repeats without one it fails (R306, R309, R324, R344, R345,
R347, R351, R355). -/
def Obligations.AcyclicCommandsAndJoins : Prop :=
  ∀ (s : State) (ch : Fin 2) (f : RxFrame) (n : Fin 256) (k : AcycCmd),
    let c : Bool := ch == 1
    let b := f.bytes
    let p := payload b
    let mine := copyOk s c f = true ∧ frDst b = ctrlId s ∧ strokeTime s ≤ downEnd s
    let answers := mine ∧ frType b = 8 ∧ frNode b = n ∧ s.pln.node[n].cmd = some k ∧ k.due = false ∧
      f16 p 0 = k.tag.toNat ∧ fb p 2 = k.op
    let full (q : Fin 4) := rdf s (Reg.PLN_ACQ_WR q) 0 10 =
      (ringRd s q + ringActive s q + s.pln.ended[q].length) % ringLen s q
    (mine → frType b = 5 → frSrc b = 0 → (∀ r ∈ s.pln.reqs, r.uid ≠ BitVec.ofNat 64 (leNat (p.take 8))) →
      after (.joinReq ch f) s (fun t => ∃ r, t.pln.reqs = s.pln.reqs ++ [r] ∧ r.uid = BitVec.ofNat 64 (leNat (p.take 8)) ∧
        r.kept = false ∧ r.reqId = fb p 8 ∧ r.axes = f8 p 9 ∧ r.path.get c = some (pathOf s c b) ∧ r.path.get (!c) = none)) ∧
    (answers → f8 p 3 = 4 → k.busy = false → k.busys < 63 → after (.acycRsp ch f) s (fun t =>
      t.pln.node[n].cmd = some { k with busy := true, busys := k.busys + 1 })) ∧
    (∀ q i, answers → k.owner = .ring q i → f8 p 3 ≠ 4 → pdOn s 10 = true → s.pln.node[n].todo = [] → ringRd s q = i →
      ringActive s q = 1 → s.pln.ended[q] = [] → (∀ r, full r) → after (.acycRsp ch f) s (fun t =>
        t.pln.node[n].cmd = none ∧ ringRd t q = (i + 1) % ringLen s q ∧
        mrd32 t (ringAddr s q i + 12) = BitVec.ofNat 32 (2 ^ 31 + f8 p 3 * 2 ^ 16 + k.tag.toNat))) ∧
    (∀ (sc : Fin 8) (i : Nat), answers → f8 p 3 = 0 → k.op = 2 → i < 4 → leNat (k.data.take 2) = 0x10 + 4 * sc.val + i →
      after (.acycRsp ch f) s (fun t => t.pln.node[n].valid =
        if i = 3 ∧ (fb k.data 5).getLsbD 7 = true then s.pln.node[n].valid ||| bit8 sc
        else s.pln.node[n].valid &&& ~~~(bit8 sc))) ∧
    (answers → k.owner = .leave → f8 p 3 ≠ 4 → after (.acycRsp ch f) s (fun t => t.pln.node[n].ends = true)) ∧
    (s.pln.node[n].cmd = some k → k.due = false → k.busy = false → k.resends < 3 → after (.acycResend n) s (fun t =>
      t.pln.node[n].cmd = some { k with due := true, resends := k.resends + 1 })) ∧
    (s.pln.node[n].cmd = some k → k.due = false → k.busy = false → 3 ≤ k.resends → k.owner = .leave →
      after (.acycResend n) s (fun t => t.pln.node[n].ends = true ∧ rdb t (Reg.PLN_NODE n) 24 = true)) ∧
    (s.pln.node[n].cmd = some k → k.busy = true → after (.acycBusyResend n) s (fun t =>
      t.pln.node[n].cmd = some { k with due := true, busy := false }))

/-- A ring's new entry for a member without an outstanding command is taken with the node's next tag. A switch is
requested, or refused with its reason; a node is resumed or removed, or the write is refused; a join with writes open
fails; a channel is withdrawn unless the other one is, and rejoined from withdrawal (R309, R330, R340, R347, R351, R355,
R376, R377). That ACYC_MAX bounds each ring on its own is the model's reading (log entry 42). -/
def Obligations.NetworkCommands : Prop :=
  ∀ (s : State) (m : Master) (v : Word) (n : Fin 256),
    let named := fld v 0 8 = n.val
    let full (q : Fin 4) := rdf s (Reg.PLN_ACQ_WR q) 0 10 =
      (ringRd s q + ringActive s q + s.pln.ended[q].length) % ringLen s q
    (∀ q : Fin 4, Writable s m (Reg.PLN_ACQ_WR q) →
      let i := (ringRd s q + ringActive s q + s.pln.ended[q].length) % ringLen s q
      let w0 := mrd32 s (ringAddr s q i)
      let w1 := mrd32 s (ringAddr s q i + 4)
      (∀ r, r ≠ q → full r) → fld v 0 10 ≠ i → fld v 0 10 = (i + 1) % ringLen s q → ringActive s q < acycMax s →
      fld w0 24 8 = n.val → fld w0 0 8 = 0 → fld w1 0 16 = 0 → fld w1 16 16 ≤ 256 → isMember s n = true →
      s.pln.node[n].cmd = none → pdOn s 10 = true → after (.plnAcqWr m q v) s (fun t => Answered t m ∧
        t.pln.node[n].cmd = some { owner := .ring q i, op := byteOf w0 2, la := byteOf w0 1
                                   data := s.mem.readBytes (mrd32 s (ringAddr s q i + 8)).toNat (fld w1 16 16)
                                   tag := s.pln.node[n].tag, due := true, busy := false, resends := 0, busys := 0
                                   sent := 0 } ∧
        t.pln.node[n].tag = s.pln.node[n].tag + 1)) ∧
    (Writable s m Reg.PLN_SW_CTL → swRefusal s (Fin.ofNat 8 (fld v 0 3)) = none → after (.plnSwGo m v) s (fun t =>
      Answered t m ∧ rdf t Reg.PLN_SW_STAT 0 3 = 1 ∧ ∃ w, t.pln.sw = some w ∧ w.target.val = fld v 0 3 ∧
        w.announced = false ∧ w.transition = false)) ∧
    (∀ r, Writable s m Reg.PLN_SW_CTL → swRefusal s (Fin.ofNat 8 (fld v 0 3)) = some r → after (.plnSwGo m v) s (fun t =>
      Answered t m ∧ rdf t Reg.PLN_SW_STAT 8 4 = r ∧ t.pln.sw = s.pln.sw)) ∧
    (Writable s m Reg.PLN_NODE_CTL → named →
      let resumes := isLost s n = true ∧ missRun s n = 0 ∧ isDrift s n = false
      (resumes → after (.resume m v) s (fun t => Answered t m ∧ isLost t n = false ∧
        ∀ a ∈ nodeAxes s n, t.ax[a].qsLoss = false)) ∧
      (¬ resumes → after (.resume m v) s (fun t => Answered t m ∧ rdb t Reg.PLN_NODE_CTL 31 = true ∧ t.ax = s.ax)) ∧
      (isMember s n = true → isLeaving s n = false → after (.remove m v) s (fun t => Answered t m ∧
        isLeaving t n = true ∧ ∀ a ∈ nodeAxes s n, t.ax[a].qsLeave = true)) ∧
      (isMember s n = false → isJoining s n = true → after (.remove m v) s (fun t => Answered t m ∧
        t.pln.node[n].removeHeld = true)) ∧
      (isMember s n = false → isJoining s n = false → after (.remove m v) s (fun t => Answered t m ∧
        rdb t Reg.PLN_NODE_CTL 31 = true))) ∧
    (isJoining s n = true → s.pln.node[n].joinBad = true ∨ s.pln.node[n].cmd ≠ none ∨ s.pln.node[n].todo ≠ [] →
      after (.joinFail n) s (fun t => isJoining t n = false ∧ rdf t Reg.PLN_JOIN_STAT 8 4 = 5 ∧
        rdf t Reg.PLN_JOIN_STAT 0 8 = n.val ∧ t.pln.node[n].todo = [])) ∧
    (∀ c : Bool, Writable s m Reg.PLN_CH_CTL →
      let barred := 2 ≤ chState s (!c) ∨ (chSt s (!c)).decided ≠ 0
      (bit v (chIdx c) = true → bit v (chIdx (!c)) = false →
        (barred → after (.withdraw m v) s (fun t => Answered t m ∧ rdb t Reg.PLN_CH_CTL 31 = true ∧ t.pln = s.pln)) ∧
        (¬ barred → chState s c ≠ 2 → (chSt s c).decided = 0 → after (.withdraw m v) s (fun t => Answered t m ∧
          (chSt t c).decided = 4))) ∧
      (bit v (8 + chIdx c) = true → bit v (8 + chIdx (!c)) = false →
        (chState s c = 2 → after (.rejoin m v) s (fun t => Answered t m ∧ (chSt t c).probeReq = true)) ∧
        (chState s c ≠ 2 → after (.rejoin m v) s (fun t => Answered t m ∧
          rdf t (Reg.PLN_CH_STAT (chIdx c)) 24 2 = 3 ∧ t.pln = s.pln))))

/-- A port comes up by its lanes, an align column and 16 delay exchanges, and falls with the loss of a lane; leaving state
4 begins a wrap of its channel, which ends once its ports have been up for a page. A frame received on one port leaves by
the other with its residence added; the own one is removed, and never counts in DROP; with both of its wraps the
controller sends back by port 1, while that is up, what port 0 receives (R283, R288, R289, R312, R314, R316, R361, R367,
R375). What PLN_PORT_RES shows, and when a wrap heals, are the model's readings (log entries 40 and 44). -/
def Obligations.PortsAndForwarding : Prop :=
  ∀ (s : State) (p : Fin 4) (f : RxFrame) (res : BitVec 32),
    let st := portState s p
    let c := portCh p
    let k := s.pln.port[p]
    let live := portLive s p = true
    let b := f.bytes
    let add := res.toNat + portDelay s p
    let bad := !fcsOk b
    let own := ctrlId s ≠ 0 ∧ frSrc b = ctrlId s
    let up := chOn s c = true ∧ st = 4
    (live → st ≤ 1 → ∀ al, after (.laneSync p 15#4 al) s (fun t => portState t p = (if al then 2 else 1) ∧
      rdf t (Reg.PLN_PORT_STAT p) 12 4 = 15)) ∧
    (∀ l, live → l ≠ 15#4 → after (.laneSync p l false) s (fun t => portState t p = 0 ∧
      rdf t (Reg.PLN_PORT_STAT p) 12 4 = l.toNat)) ∧
    (∀ q, live → 1 ≤ st → after (.delayRequest p q) s (fun t => t.pln.port[p].answered = some q)) ∧
    (∀ q (e : BitVec 32), live →
      (st = 2 → k.n < 15 → after (.delayResponse p q e) s (fun t => portState t p = 2 ∧ t.pln.port[p].n = k.n + 1 ∧
        t.pln.port[p].sum = k.sum + ((e.toNat - 16384) / 2 : Nat))) ∧
      (st = 2 → k.n = 15 → after (.delayResponse p q e) s (fun t => portState t p = 3 ∧
        portDelay t p = (k.sum + ((e.toNat - 16384) / 2 : Nat)).toNat / 16 % 2 ^ 24)) ∧
      (3 ≤ st → after (.delayResponse p q e) s (fun t => t.pln.port[p].next = some ((e.toNat - 16384) / 2)))) ∧
    (live → st = 3 → after (.portUp p) s (fun t => portState t p = 4)) ∧
    (st ≠ 4 → after (.portDown p) s (fun t => portState t p = 0 ∧ t.pln.ch = s.pln.ch)) ∧
    (st = 4 → (chSt s c).wrap = false → after (.portDown p) s (fun t => portState t p = 0 ∧ (chSt t c).wrap = true ∧
      rdb t (Reg.PLN_PORT_STAT p) 7 = true ∧ rdb t (Reg.PLN_CH_STAT (chIdx c)) 23 = true ∧
      (chState s c = 0 → chState t c = 1))) ∧
    (∀ ch : Fin 2, let x : Bool := ch == 1
      (∀ q : Fin 4, portCh q = x → portState s q = 4 ∧ s.pln.port[q].upLast = true) → (chSt s x).revLast = false →
      (chSt s x).wrap = true → after (.wrapLeave ch) s (fun t => (chSt t x).wrap = false ∧ (chSt t x).ownUp = false ∧
        (chSt t x).ownDown = false ∧ rdb t (Reg.PLN_CH_STAT (chIdx x)) 22 = true ∧
        (chState s x = 1 → chState t x = 0))) ∧
    (up → isPort1 p = true → own → after (.frameForward p f res) s (fun t => t.pln = s.pln)) ∧
    (up → isPort1 p = true → ¬ own → frHops b ≠ 128 → upWrap s c = false → after (.frameForward p f res) s (fun t =>
      t.pln.port[port0 c].fwd = forwarded b bad true add ∧ rdf t (Reg.PLN_PORT_RES p) 0 16 = min res.toNat 0xFFFF)) ∧
    (up → isPort1 p = false → ¬ own → downWrap s c = false → after (.frameForward p f res) s (fun t =>
      t.pln.port[port1 c].fwd = forwarded b bad false add ∧ rdf t (Reg.PLN_PORT_RES p) 0 16 = min res.toNat 0xFFFF)) ∧
    (up → isPort1 p = false → ¬ own → downWrap s c = true → upWrap s c = true → portState s (port1 c) = 4 →
      after (.frameForward p f res) s (fun t => t.pln.port[port1 c].fwd = forwarded b bad false add)) ∧
    (up → own → after (.frameForward p f res) s (fun t => rdf t (Reg.PLN_PORT_ERR p) 0 8 = rdf s (Reg.PLN_PORT_ERR p) 0 8)) ∧
    (up → isPort1 p = true → chState s c < 2 → (chSt s c).wrap = false → f.viol = false →
      headerOk s c b = true → fcsOk b = true → frType b = 1 → frSrc b = ctrlId s → (chSt s c).train.headD [] ≠ [] →
      after (.setpointReturn (if c then 1 else 0) f) s (fun t => (chSt t c).returned = true ∧
        (chSt t c).ret = strokeTime s ∧ (chSt t c).hops = frHops b ∧
        (frContent b = frContent ((chSt s c).train.headD []) → t.regs = s.regs) ∧
        (frContent b ≠ frContent ((chSt s c).train.headD []) →
          rdf t (Reg.PLN_CH_CNT (chIdx c)) 16 8 = min (rdf s (Reg.PLN_CH_CNT (chIdx c)) 16 8 + 1) 255 ∧
          (Heard s (0x114 + chIdx c) → rdb t (Reg.MGN_SRC 8) (0x14 + chIdx c) = true) ∧ ((chSt s c).decided = 0 → (chSt t c).decided = 2))))

/-- A cold start goes from listening over the wait into leadership, with the controller as master of A alone and its first
mark on a page of its own, and out of it. A COLDSTART of another node makes a waiting one integrate, and a leader where
its pair is lower, which is then no master; frames of the active master give the grid to a node that listens, waits or
integrates, the first of each stroke, and both domains' masters and the phase to one that has; the master of the other domain changes the active
domain where its master is missing, and both missing begin a holdover, which the lowest of the capable members continues,
the lost masters left out (R331 to R339, R356, R359, R382, R387, R389). What a frame gives to a node that integrates, and
that no test against a stroke grid is made before there is one, are the model's readings (log entries 45 and 39). -/
def Obligations.NetworkTime : Prop :=
  ∀ (s : State) (ch : Fin 2) (f : RxFrame),
    let c : Bool := ch == 1
    let b := f.bytes
    let p := payload b
    let k := p.take 24
    let x := activeB s
    let act := (fb k 2).getLsbD 0
    let valid := copyOk s c f = true ∧ frSrc b ≠ ctrlId s ∧ toMe s b = true
    let ref := valid ∧ (frType b = 1 ∨ frType b = 3) ∧ afterNode s b = false
    let gone (d : Bool) := isTimeMaster s d = false ∧ (masterOf s d = 0 ∨ 3 ≤ s.pln.miss.get d)
    (csState s = 1 → after .coldStartListen s (fun t => csState t = 2)) ∧
    (csState s = 2 → after .coldStartWait s (fun t => csState t = 3 ∧ masterOf t false = ctrlId s ∧ masterOf t true = 0 ∧
      activeB t = false ∧ t.base.next = firstMark s ∧
      rdf t Reg.PLN_CS_STAT 16 16 = min (rdf s Reg.PLN_CS_STAT 16 16 + 1) 0xFFFF)) ∧
    (csState s = 3 → after .leadershipEnd s (fun t => csState t = if 128 ≤ s.pln.lead then 6 else 3)) ∧
    (isTimeMaster s (!x) = true → 3 ≤ s.pln.miss.get x → after .activeDomainChange s (fun t => activeB t = !x ∧
      t.base.next = (s.base.latch.get (!x)).shift ((periodNs s * 2 ^ 24 : Nat) : Int) ∧
      rdf t Reg.PLN_TIME_STAT 24 8 = min (rdf s Reg.PLN_TIME_STAT 24 8 + 1) 255)) ∧
    (gone false → gone true → after .holdover s (fun t => rdb t Reg.PLN_TIME_STAT 22 = true ∧
      (5 ≤ csState s → s.pln.capable = true → (∀ y ∈ s.pln.coldLast, y.2 ≠ masterOf s false → y.2 ≠ masterOf s true →
        pairLt (ownPair s) y = true) → csState t = 6 ∧ masterOf t x = ctrlId s))) ∧
    (valid → frType b = 4 → f32 p 4 = s.pln.netid.toNat →
      (csState s = 1 ∨ csState s = 2 → after (.coldstart ch f) s (fun t => csState t = 4 ∧ t.pln.integ = 0)) ∧
      (csState s = 3 → after (.coldstart ch f) s (fun t =>
        (csState t = if pairLt (f8 p 0, frSrc b) (ownPair s) then 4 else 3) ∧
        (csState t = 4 → masterOf t false = 0 ∧ masterOf t true = 0))) ∧
      (5 ≤ csState s → strokeTime s ≤ downEnd s → frStroke b % 64 = 63 → (f8 p 0, frSrc b) ∉ s.pln.cold →
        after (.coldstart ch f) s (fun t => t.pln.cold = s.pln.cold ++ [(f8 p 0, frSrc b)]))) ∧
    (ref → integrating s = true → frSrc b = f8 k (domIdx act) → s.base.seen.get act = false ∨
        csState s ≠ 1 ∧ csState s ≠ 2 ∧ marks s = false ∧ s.pln.integ ≠ 0 ∧ frStroke b ≠ rdf s Reg.BSL_STROKE_NUM 0 16 →
      after (.reference ch f) s (fun t => rdf t Reg.BSL_STROKE_NUM 0 16 = frStroke b ∧ activeB t = act ∧
        masterOf t false = f8 k 0 ∧ masterOf t true = f8 k 1 ∧
        t.base.next = (blockTime k).shift ((periodNs s * 2 ^ 24 : Nat) : Int) ∧
        csState t = if csState s = 0 then 0 else if csState s = 4 ∧ 63 ≤ s.pln.integ then 5 else 4)) ∧
    (ref → integrating s = false → frSrc b = masterOf s x → act = x → s.base.seen.get x = false →
      after (.reference ch f) s (fun t => masterOf t false = f8 k 0 ∧ masterOf t true = f8 k 1 ∧
        t.base.seen.get x = true ∧ t.pln.miss.get x = 0 ∧
        rd t (Reg.BSL_PHERR (domIdx x)) = BitVec.ofNat 32 (unsignedOf 31 (satI 31 (shr
          (((domTime s x).shift (-((pathOf s c b * 2 ^ 16 : Nat) : Int))).diff (blockTime k)) 16)))))

/-! ## Baseline and timed pulses -/

/-- An increment is stored within 1 ns ± 1000 ppm, and CLAMP set where it was not. GO of BSL_SET steps a domain, but not
the active one while marks run, nor to a time with 10^9 ns or more. The servo of a domain steers its increment by the mean
error of the last 8 strokes (R380, R381, R383). -/
def Obligations.BaselineIsSetAndSteered : Prop :=
  ∀ (s : State) (m : Master) (d : Bool) (v : Word),
    let clamp (x : Int) : Int := max 0x00FFBE77 (min 0x01004189 x)
    let ns := rdf s Reg.BSL_SET_NS 0 30
    let sec := (rd s Reg.BSL_SET_SL).toNat + rdf s Reg.BSL_SET_SH 0 16 * 2 ^ 32
    let refused := bit v 4 = activeB s ∧ marks s = true ∨ 1000000000 ≤ ns
    let errs := (s.base.errs.get d).drop ((s.base.errs.get d).length - 8)
    let e : Rat := ((errs.filterMap id).foldl (· + ·) 0 : Int) / (((errs.filterMap id).length * 256 : Nat) : Rat)
    let t8 : Rat := ((8 * periodNs s : Nat) : Rat)
    let rate := s.base.rate.get d + e / (((2 ^ rdf s Reg.BSL_SERVO_CFG 0 8 : Nat) : Rat) * t8)
    (Writable s m (Reg.BSL_INC (domIdx d)) → after (.inc m d v) s (fun t => Answered t m ∧
      rd t (Reg.BSL_INC (domIdx d)) = BitVec.ofNat 32 (clamp v.toNat).toNat ∧
      rdb t Reg.BSL_DOM_STAT (3 + domIdx d) = (rdb s Reg.BSL_DOM_STAT (3 + domIdx d) || clamp v.toNat != v.toNat))) ∧
    (Writable s m Reg.BSL_SET → refused → after (.bslSetGo m v) s (fun t => Answered t m ∧
      rdb t Reg.BSL_DOM_STAT 7 = true ∧ t.base = s.base)) ∧
    (Writable s m Reg.BSL_SET → ¬ refused → after (.bslSetGo m v) s (fun t => Answered t m ∧
      domTime t (bit v 4) = { sec := BitVec.ofNat 48 sec, ns := BitVec.ofNat 30 ns, frac := 0 } ∧
      domTime t (!bit v 4) = domTime s (!bit v 4) ∧
      rdb t Reg.BSL_DOM_STAT (5 + domIdx (bit v 4)) = true)) ∧
    (rdb s Reg.BSL_CTL 1 = true → after .servo s (fun t => t = s)) ∧
    (rdb s Reg.BSL_CTL 1 = false → marks s = true → masterOf s d ≠ 0 → isTimeMaster s d = false →
      errs.filterMap id ≠ [] → after .servo s (fun t => t.base.rate.get d = rate ∧
        rd t (Reg.BSL_INC (domIdx d)) = BitVec.ofNat 32 (clamp ((1 - rate
          - e / (((2 ^ rdf s Reg.BSL_SERVO_CFG 8 8 : Nat) : Rat) * t8)) * 2 ^ 24).floor).toNat))

/-- GO takes a program that keeps the rules and has no reserved field set, at once or behind the pulse that stands or
the program that is taken at this instant; STOP ends one. A leading edge drives the output to the active level and
counts it, a trailing edge drives it back, and takes the program that waits or ends a stopped one (R392 to R396). That
the same instant is the same Baseline tick is the model's choice (log entry 122). -/
def Obligations.TimedPulses : Prop :=
  ∀ (s : State) (m : Master) (n : Fin 16) (v : Word),
    let k := s.tp[n]
    let p := tpProg s n
    let pin (t : State) := t.pins.tp.getLsbD n.val
    let waits := k.high = true ∨ k.took = some s.tick ∧ rdb s (Reg.TP_STAT n) 0 = true
    (Writable s m (Reg.TP_CTL n) → bit v 2 = false →
      (tpOk p = false ∨ k.rsv ≠ 0 → after (.tpGo m n v) s (fun t => Answered t m ∧ t.tp = s.tp ∧ rdb t (Reg.TP_STAT n) 2 = true)) ∧
      (tpOk p = true → k.rsv = 0 → waits → after (.tpGo m n v) s (fun t => Answered t m ∧
        t.tp[n] = { k with pend := some p } ∧ rdb t (Reg.TP_STAT n) 1 = true)) ∧
      (tpOk p = true → k.rsv = 0 → ¬ waits → after (.tpGo m n v) s (fun t => Answered t m ∧
        t.tp[n].cur = some p ∧ t.tp[n].pend = none ∧ pin t = tpPol p ∧ rdb t (Reg.TP_STAT n) 1 = false ∧
        (tpMode p = 1 → (domTime s (tpDom s p)).units ≤ p.t0 → t.tp[n].edge = some p.t0 ∧
          rdb t (Reg.TP_STAT n) 0 = true)))) ∧
    (Writable s m (Reg.TP_CTL n) → after (.tpStop m n v) s (fun t => Answered t m ∧ t.tp[n].pend = none ∧
      rdb t (Reg.TP_STAT n) 1 = false ∧ (k.high = true → t.tp[n].stopping = true ∧ t.tp[n].high = true) ∧
      (k.high = false → t.tp[n].edge = none ∧ rdb t (Reg.TP_STAT n) 0 = false))) ∧
    (∀ q x, k.cur = some q → k.edge = some x → k.high = false → pdOn s 14 = true → after (.leadingEdge n) s (fun t =>
      t.tp[n].high = true ∧ t.tp[n].edge = none ∧ pin t = !tpPol q ∧
      rdf t (Reg.TP_STAT n) 16 16 = min (rdf s (Reg.TP_STAT n) 16 16 + 1) 0xFFFF)) ∧
    (∀ q, k.cur = some q → k.high = true →
      (∀ r, k.pend = some r → after (.trailingEdge n) s (fun t => t.tp[n].cur = some r ∧ t.tp[n].pend = none ∧
        t.tp[n].high = false ∧ t.tp[n].took = some s.tick ∧ pin t = tpPol r)) ∧
      (k.pend = none → k.stopping = false → tpMode q = 3 → after (.trailingEdge n) s (fun t => t.tp[n].high = false ∧
        t.tp[n].edge = k.edge ∧ pin t = tpPol q)) ∧
      (k.pend = none → k.stopping = true → after (.trailingEdge n) s (fun t => t.tp[n].high = false ∧
        t.tp[n].edge = none ∧ pin t = tpPol q ∧ rdb t (Reg.TP_STAT n) 0 = false)))

/-! ## Local feedback and captures -/

/-- A quadrature step, a Hall step and a step pulse count by one in the direction of the channel; a step of both lines
counts an error, as an impossible Hall code does; an index sets the angle the first time and corrects later, or is a
fault; an SSI frame ends with LFn_CK high, sets the position and later moves it, and a bad one counts (R401,
R402, R407 to R409, R411 to R416, R419). -/
def Obligations.FeedbackChannelsCount : Prop :=
  ∀ (s : State) (n : Fin 8), pdOn s 14 = true →
    let k := s.lf[n]
    let l := lfLine s n
    let c (t : State) := t.lf[n].c
    let moves (d : Int) (t : State) : Prop := c t = k.c + BitVec.ofInt 32 d
    let errs (lo : Nat) (t : State) : Prop := rdf t (Reg.LF_ERR n) lo 8 = min (rdf s (Reg.LF_ERR n) lo 8 + 1) 255
    let stat (i : Nat) (t : State) : Prop := rdb t (Reg.LF_STAT n) i = true
    (∀ a b, lfMode s n = 1 →
      ((a != l.1) != (b != l.2.1) → after (.quadratureTransition n a b) s
        (moves (lfDir s n ((quadPhase l.1 l.2.1 + 1) % 4 == quadPhase a b)))) ∧
      (a ≠ l.1 → b ≠ l.2.1 → after (.quadratureTransition n a b) s (fun t => c t = k.c ∧ errs 24 t ∧ stat 14 t))) ∧
    (∀ code, lfMode s n = 2 →
      let old : BitVec 3 := BitVec.ofNat 3 (l.1.toNat + 2 * l.2.1.toNat + 4 * l.2.2.toNat)
      (∀ x y, hallSector code = some x → hallSector old = some y → x ≠ y → hallChanged old code ≤ 1 →
        after (.hallTransition n code) s (fun t => moves (lfDir s n ((y.val + 1) % 6 == x.val)) t ∧
          rdf t (Reg.LF_STAT n) 0 3 = x.val)) ∧
      (∀ x, hallSector code = some x → hallSector old = none → after (.hallTransition n code) s (fun t => c t = k.c ∧
        rdf t (Reg.LF_STAT n) 0 3 = x.val)) ∧
      (hallSector code = none → code ≠ old → after (.hallTransition n code) s (fun t =>
        c t = k.c ∧ errs 16 t ∧ stat 15 t))) ∧
    (lfMode s n = 1 → lfCpr s n ≠ 0 →
      let pos := rdf s (Reg.LF_IDX n) 0 24
      let d := indexDev k.a pos (lfCpr s n)
      let seen (t : State) : Prop := stat 16 t ∧ rdf t (Reg.LF_IDXLAT n) 0 24 = unsignedOf 24 d ∧
        rdf t (Reg.LF_IDXLAT n) 24 8 = min (rdf s (Reg.LF_IDXLAT n) 24 8 + 1) 255
      (rdb s (Reg.LF_STAT n) 6 = false → after (.indexEvent n) s (fun t => seen t ∧ c t = k.c ∧ t.lf[n].a = pos ∧ stat 6 t)) ∧
      (rdb s (Reg.LF_STAT n) 6 = true → rdb s (Reg.LF_CFG n) 5 = false → after (.indexEvent n) s (fun t =>
        seen t ∧ c t = k.c ∧ t.lf[n].a = k.a)) ∧
      (rdb s (Reg.LF_STAT n) 6 = true → rdb s (Reg.LF_CFG n) 5 = true → d.natAbs ≤ rdf s (Reg.LF_IDX n) 24 8 →
        after (.indexEvent n) s (fun t => seen t ∧ moves (-d) t ∧ t.lf[n].a = pos ∧ stat 17 t)) ∧
      (rdb s (Reg.LF_STAT n) 6 = true → rdb s (Reg.LF_CFG n) 5 = true → rdf s (Reg.LF_IDX n) 24 8 < d.natAbs →
        after (.indexEvent n) s (fun t => seen t ∧ c t = k.c ∧ rdf t (Reg.LF_STAT n) 28 4 = 10))) ∧
    (∀ low raw err, lfMode s n = 3 → k.ssiBusy = true →
      let bad := low || (rdb s (Reg.LF_SSI n) 6 && err == rdb s (Reg.LF_SSI n) 5)
      let g := raw.toNat % 2 ^ ssiLen s n
      let x := if rdb s (Reg.LF_SSI n) 7 then grayDecode 32 g else g
      after (.ssiFrame n low raw err) s (fun t => t.lf[n].ssiBusy = false ∧ t.pins.lfCk.getLsbD n.val = true) ∧
      (bad = true → after (.ssiFrame n low raw err) s (fun t => c t = k.c ∧ errs 8 t ∧ stat 18 t)) ∧
      (bad = false → k.ssiLast = none → after (.ssiFrame n low raw err) s (fun t => c t = BitVec.ofNat 32 x ∧ stat 6 t)) ∧
      (∀ p, bad = false → k.ssiLast = some p → after (.ssiFrame n low raw err) s
        (moves (signedOf (ssiLen s n) (unsignedOf (ssiLen s n) ((x : Int) - p)))))) ∧
    (∀ level b, lfMode s n = 4 →
      (level ≠ l.1 → level ≠ rdb s (Reg.LF_CFG n) 4 → after (.stepEdge n level b) s (fun t =>
        moves (lfDir s n l.2.1) t ∧ t.lf[n].e0 = k.e1 ∧ t.lf[n].e1.isSome = true)) ∧
      (level = l.1 ∨ level = rdb s (Reg.LF_CFG n) 4 → after (.stepEdge n level b) s (fun t => t.lf = s.lf)))

/-- LF_CTL clears the fault of each channel it names. A capture input that is armed for an edge counts it and puts its
time, the count and the sequence number into the FIFO, counts an overflow where it is full, and counts an edge inside the
hold-off apart. Any other change of a line only shows (R410, R417, R420, R421, R426). -/
def Obligations.CapturesAndLineChanges : Prop :=
  ∀ (s : State) (m : Master) (v : Word) (i : Fin 8) (n : Fin 16) (level : Bool),
    let cfg := rd s (Reg.CAP_CFG n)
    let k := s.cap[n]
    let hit := bit cfg 31 && level != s.pins.cap.getLsbD n && (if level then fld cfg 29 2 % 2 == 1 else fld cfg 29 2 / 2 == 1)
    let at' := edgeTime s (fld cfg 16 8)
    let held := k.last.any (fun p => decide (at' < p + fld cfg 0 16 * 100 * 2 ^ 24))
    let w := (BTime.ofUnits at').words
    let count (lo : Nat) (t : State) : Prop := rdf t (Reg.CAP_STAT n) lo 8 = min (rdf s (Reg.CAP_STAT n) lo 8 + 1) 255
    (Writable s m Reg.LF_CTL → bit v (8 + i.val) = true → after (.lfClr m v) s (fun t => Answered t m ∧
      rdf t (Reg.LF_STAT i) 28 4 = 0 ∧ rdb t (Reg.LF_STAT i) 6 = false ∧ rdf t (Reg.LF_ERR i) 0 8 = 0 ∧
      (forcedMode s (0x100 + i.val) = 0 → srcActive t (0x100 + i.val) = false))) ∧
    (pdOn s 14 = true → hit = true → held = false → after (.capture n level) s (fun t => count 0 t ∧
      rd t (Reg.CAP_LAST n) = w.1 ∧ t.cap[n].last = some at' ∧ t.cap[n].seq = k.seq + 1 ∧
      (k.fifo.length < 8 → rdf t (Reg.CAP_STAT n) 24 4 = k.fifo.length + 1 ∧
        t.cap[n].fifo = k.fifo ++ [[w.1, w.2.1, w.2.2, if bit cfg 28 then s.lf[Fin.ofNat 8 (fld cfg 25 3)].c else 0,
          BitVec.ofNat 32 (k.seq % 2 ^ 16 + (activeB s).toNat * 2 ^ 16)]]) ∧
      (8 ≤ k.fifo.length → t.cap[n].fifo = k.fifo ∧ count 16 t ∧ rdb t (Reg.CAP_STAT n) 31 = true))) ∧
    (pdOn s 14 = true → hit = true → held = true → after (.capture n level) s (fun t => count 8 t ∧ t.cap = s.cap)) ∧
    (pdOn s 14 = true → hit = false → after (.capture n level) s (fun t => t.cap = s.cap ∧
      t.pins.cap.getLsbD n = level)) ∧
    (∀ j : Fin 24, pdOn s 14 = true →
      after (.filteredLineChange true j level) s (fun t => t.lf = s.lf ∧
        let x := lfLine t (Fin.ofNat 8 (j.val / 3))
        (if j.val % 3 = 0 then x.1 else if j.val % 3 = 1 then x.2.1 else x.2.2) = level) ∧
      (j.val < 16 → after (.filteredLineChange false j level) s (fun t => t.cap = s.cap ∧
        t.pins.cap.getLsbD j = level)))

/-! ## Folio -/

/-- ARM begins a capture, with a snapshot of each channel, or sets CFG_ERR; STOP ends one in state 5; FORCE triggers where
TSRC is 0, behind the changes that wait, which are written first (the model's choice, log entry 127), and is counted before
PRE entries are written. A queued change is written as an entry at IDX, and the last of POST ends the capture (R429 to
R436). -/
def Obligations.FolioCaptures : Prop :=
  ∀ (s : State) (m : Master) (v : Word),
    let i := rdf s Reg.FOL_IDX 0 16
    (Writable s m Reg.FOL_CTL → bit v 1 = false → bit v 2 = false →
      (folArmOk s = false → after (.folArm m v) s (fun t => Answered t m ∧ rdb t Reg.FOL_STAT 31 = true ∧ t.fol = s.fol)) ∧
      (folArmOk s = true → after (.folArm m v) s (fun t => Answered t m ∧ t.fol.queue = [] ∧ t.fol.dropped = 0 ∧
        t.fol.written = (folEnabled s).length ∧ rdf t Reg.FOL_IDX 0 16 = (folEnabled s).length ∧
        folState t = if rdf s Reg.FOL_PRE 0 17 ≤ (folEnabled s).length then 2 else 1))) ∧
    (Writable s m Reg.FOL_CTL → bit v 0 = false → bit v 2 = false →
      (folRunning s = true → after (.folStop m v) s (fun t => Answered t m ∧ folState t = 5 ∧ t.fol.queue = [])) ∧
      (folRunning s = false → after (.folStop m v) s (fun t => Answered t m ∧ folState t = folState s ∧ t.fol = s.fol))) ∧
    (Writable s m Reg.FOL_CTL → bit v 0 = false → bit v 1 = false → rdf s Reg.FOL_TRIG 0 3 = 0 →
      (folState s = 1 → after (.folForce m v) s (fun t => Answered t m ∧ folState t = 1 ∧
        rdf t Reg.FOL_CNT 0 16 = min (rdf s Reg.FOL_CNT 0 16 + 1) 0xFFFF)) ∧
      (folState s = 2 → after (.folForce m v) s (fun t => Answered t m ∧ t.fol.trig = BitVec.ofNat 16
          (i + s.fol.queue.length + (if s.fol.dropped ≠ 0 ∧ s.fol.queue ≠ [] then 1 else 0)) ∧
        t.fol.post = 0 ∧ folState t = if rdf s Reg.FOL_POST 0 17 = 0 then 4 else 3))) ∧
    (∀ e r, folRunning s = true → s.fol.queue = e :: r → s.fol.dropped = 0 → after .traceEntryWrite s (fun t =>
      t.mem.readWords (0x05000000 + 16 * i) 4 =
        [put e.tag.1 30 2 0, e.tag.2.1, put e.tag.2.2 16 5 e.ch.val, e.val] ∧
      rdf t Reg.FOL_IDX 0 16 = (i + 1) % 65536 ∧
      (if folState s = 3 ∧ rdf s Reg.FOL_POST 0 17 ≤ s.fol.post + 1 then folState t = 4 ∧ t.fol.queue = []
        else t.fol.queue = r) ∧
      MemoryKept s t (fun a => 0x05000000 + 16 * i ≤ a ∧ a < 0x05000000 + 16 * i + 16) (fun _ => False)))

/-! ## Service bus -/

/-- MODE leaves initialisation with a timing that keeps the rules, and returns to it at once or at the end of the frame
that stands; a write that may not be done sets CFG_ERR. RECOVER starts the recovery of a bus-off controller. PUSH and
URG_REQ commit a sound buffer where there is room. A cancel removes a frame that is not offered with result 2 and waits
for one that is; FLUSH removes the entries behind the head and cancels the head (R442, R443, R447, R448, R450, R452,
R455). That a change of another field than MODE and RECOVER sets CFG_ERR outside initialisation is the model's choice (log
entry 35). -/
def Obligations.ServiceBusTakesItsCommands : Prop :=
  ∀ (s : State) (m : Master) (k : Fin 4) (v : Word),
    let mode := fld v 0 3
    let busy := rdf s (Reg.SB_STAT k) 0 2 = 1 ∨ rdf s (Reg.SB_STAT k) 0 2 = 2
    let txs (lo n : Nat) (t : State) : Nat := rdf t (Reg.SB_TXS k) lo n
    let only (t : State) : Prop := RegsKept s t (fun a => a = Reg.SB_TXS k ∨ a = Reg.SB_STAT k) ∧ t.wmem = s.wmem
    let offered (urg : Bool) : Prop := s.sb[k].offer = some urg ∧ sbBusOff s k = false
    let waits (t : State) : Prop := t.sb[k].cancel = true
    (Writable s m (Reg.SB_CTL k) →
      (5 ≤ mode → after (.sbMode m k v) s (fun t => Answered t m ∧ rdb t (Reg.SB_STAT k) 31 = true ∧
        sbMode t k = sbMode s k)) ∧
      (sbMode s k = 0 → 1 ≤ mode → mode ≤ 4 → sbTimingOk s k v = false → after (.sbMode m k v) s (fun t =>
        Answered t m ∧ rdb t (Reg.SB_STAT k) 31 = true ∧ sbMode t k = 0)) ∧
      (sbMode s k = 0 → 1 ≤ mode → mode ≤ 4 → sbTimingOk s k v = true → after (.sbMode m k v) s (fun t =>
        Answered t m ∧ sbMode t k = mode ∧ rdf t (Reg.SB_CTL k) 4 5 = fld v 4 5 ∧ rdf t (Reg.SB_STAT k) 0 2 = 3)) ∧
      (sbMode s k ≠ 0 → 1 ≤ mode → mode ≤ 4 → after (.sbMode m k v) s (fun t => Answered t m ∧ sbMode t k = mode ∧
        rdf t (Reg.SB_CTL k) 4 5 = rdf s (Reg.SB_CTL k) 4 5 ∧
        (fld v 4 5 ≠ rdf s (Reg.SB_CTL k) 4 5 → rdb t (Reg.SB_STAT k) 31 = true))) ∧
      (sbMode s k ≠ 0 → mode = 0 → after (.sbMode m k v) s (fun t => Answered t m ∧
        (busy → sbMode t k = sbMode s k ∧ t.sb[k].initPend = true) ∧
        (¬ busy → sbMode t k = 0 ∧ t.sb[k].offer = none ∧ rdf t (Reg.SB_STAT k) 0 2 = 0))) ∧
      (sbBusOff s k = true → s.sb[k].recovering = false → after (.recover m k v) s (fun t => Answered t m ∧
        t.sb[k].recovering = true ∧ rdf t (Reg.SB_STAT k) 16 8 = 0)) ∧
      (sbBusOff s k = false → after (.recover m k v) s (fun t => Answered t m ∧
        t.sb[k].recovering = s.sb[k].recovering))) ∧
    (Writable s m (Reg.SB_TXC k) →
      (fld v 1 4 = 0 → after (.push m k v) s (fun t => Answered t m ∧ only t ∧
        if 32 ≤ sbLevel s k then rdb t (Reg.SB_TXS k) 22 = true ∧ txs 0 5 t = txs 0 5 s ∧ sbLevel t k = sbLevel s k
        else if sbBufferOk s k (sbFifo k (txs 0 5 s)) then txs 0 5 t = (txs 0 5 s + 1) % 32 ∧ sbLevel t k = sbLevel s k + 1
        else rdb t (Reg.SB_STAT k) 30 = true ∧ rd t (Reg.SB_TXS k) = rd s (Reg.SB_TXS k))) ∧
      (v &&& 0x1D#32 = 0#32 → after (.urgReq m k v) s (fun t => Answered t m ∧ only t ∧
        if sbUrg s k || !sbBufferOk s k (sbUrgent k) then rdb t (Reg.SB_STAT k) 30 = true ∧ sbUrg t k = sbUrg s k
        else sbUrg t k = true)) ∧
      (v &&& 0x1B#32 = 0#32 → sbLevel s k ≠ 0 → after (.cancelHead m k v) s (fun t => Answered t m ∧ only t ∧
        (offered false → waits t ∧ rd t (Reg.SB_TXS k) = rd s (Reg.SB_TXS k)) ∧
        (¬ offered false → txs 28 4 t = 2 ∧ txs 8 5 t = (txs 8 5 s + 1) % 32 ∧ sbLevel t k = sbLevel s k - 1))) ∧
      (v &&& 0x17#32 = 0#32 → sbUrg s k = true → after (.cancelUrg m k v) s (fun t => Answered t m ∧ only t ∧
        (offered true → waits t ∧ rd t (Reg.SB_TXS k) = rd s (Reg.SB_TXS k)) ∧
        (¬ offered true → txs 24 4 t = 2 ∧ sbUrg t k = false))) ∧
      (v &&& 0xF#32 = 0#32 → sbLevel s k ≠ 0 → after (.flush m k v) s (fun t => Answered t m ∧ only t ∧
        txs 0 5 t = (txs 8 5 s + 1) % 32 ∧
        (offered false → waits t ∧ sbLevel t k = 1) ∧
        (¬ offered false → txs 28 4 t = 2 ∧ txs 8 5 t = txs 0 5 t ∧ sbLevel t k = 0))))

/-- At an arbitration opportunity a controller that may send offers its urgent frame before its FIFO head. A frame that
loses is offered no more and counted; one that wins is sent, unless a cancel removes it; a frame sent is removed with
result 1, or 3 where a cancel came too late, is counted and lowers TEC. A bus error shows its code and raises the counter
of its side: TEC by 8, REC by 1, or by 9 where a dominant bit follows the flag, or by 8 for a bit error in the receiver's
own flag; a further run of eight dominant bits is no error of its own and raises it by 8. At 256 the controller is bus-off.
Recovery clears both counters (R449, R451 to R455; the amounts are those of ISO 11898-1, log entry 34). -/
def Obligations.ServiceBusSendsAndCountsErrors : Prop :=
  ∀ (s : State) (k : Fin 4) (urg : Bool),
    let txs (lo n : Nat) (t : State) : Nat := rdf t (Reg.SB_TXS k) lo n
    let removed (res : Nat) (t : State) : Prop :=
      if urg then txs 24 4 t = res ∧ sbUrg t k = false
      else txs 28 4 t = res ∧ txs 8 5 t = (txs 8 5 s + 1) % 32 ∧ sbLevel t k = sbLevel s k - 1
    let idle (t : State) : Prop := t.sb[k].offer = none
    (pdOn s 14 = true → sbMode s k ≠ 0 → s.sb[k].offer = none → after (.arbitrationOpportunity k) s (fun t =>
      if sbMaySend s k = true ∧ (sbUrg s k = true ∨ sbLevel s k ≠ 0) then
        t.sb[k].offer = some (sbUrg s k) ∧ rdf t (Reg.SB_STAT k) 0 2 = 2
      else idle t ∧ rdf t (Reg.SB_STAT k) 0 2 = 0)) ∧
    (s.sb[k].offer = some urg → s.sb[k].won = false →
      after (.arbitrationLost k) s (fun t => idle t ∧ rdf t (Reg.SB_STAT k) 0 2 = 1 ∧
        rdf t (Reg.SB_TXCNT k) 0 16 = min (rdf s (Reg.SB_TXCNT k) 0 16 + 1) 0xFFFF ∧
        (s.sb[k].cancel = true → removed 2 t) ∧
        (s.sb[k].cancel = false → rd t (Reg.SB_TXS k) = rd s (Reg.SB_TXS k))) ∧
      after (.arbitrationWon k) s (fun t =>
        (s.sb[k].cancel = true → idle t ∧ removed 2 t) ∧
        (s.sb[k].cancel = false → t.sb[k].offer = some urg ∧ t.sb[k].won = true))) ∧
    (∀ sof, s.sb[k].offer = some urg → s.sb[k].won = true → after (.frameSent ⟨k, sof⟩) s (fun t =>
      idle t ∧ removed (if s.sb[k].cancel then 3 else 1) t ∧ sbTec t k = min 256 (sbTec s k - 1) ∧
      rdf t (Reg.SB_TXCNT k) 16 16 = min (rdf s (Reg.SB_TXCNT k) 16 16 + 1) 0xFFFF)) ∧
    (∀ err dp, pdOn s 14 = true → sbMode s k ≠ 0 → sbBusOff s k = false →
      let lo := if dp then 8 else 12
      let shown (t : State) : Prop := rdf t (Reg.SB_STAT k) lo 4 =
        if err = .dominantRun then rdf s (Reg.SB_STAT k) lo 4 else sbErrCode err
      let spared := err = .ack ∧ rdb s (Reg.SB_STAT k) 25 = true ∨ err = .stuff ∧ s.sb[k].won = false
      (sbMode s k ≠ 2 → ∀ p, after (.busError k err dp true p) s (fun t => shown t ∧ idle t ∧ sbRec t k = sbRec s k ∧
        (spared → sbTec t k = sbTec s k) ∧
        (¬ spared → sbTec t k = min 256 (sbTec s k + 8) ∧ (sbBusOff t k = true ↔ 256 ≤ sbTec s k + 8)))) ∧
      (sbMode s k ≠ 2 → ∀ p, after (.busError k err dp false p) s (fun t => shown t ∧ sbTec t k = min 256 (sbTec s k) ∧
        sbRec t k = min 255 (sbRec s k + if err = .flagBit ∨ err = .dominantRun then 8 else if p then 9 else 1))) ∧
      (sbMode s k = 2 → ∀ tr p, after (.busError k err dp tr p) s (fun t => shown t ∧
        rd t (Reg.SB_ERR k) = rd s (Reg.SB_ERR k)))) ∧
    (sbBusOff s k = true → s.sb[k].recovering = true → after (.recoveryEnd k) s (fun t =>
      sbBusOff t k = false ∧ rd t (Reg.SB_ERR k) = 0 ∧ t.sb[k].recovering = false))

/-- A frame received goes to the first mailbox whose filter takes it, into its empty buffer (of two the lower, the model's
choice, log entry 35), else over the older that is not acquired, which counts a lost frame: identifier, flags and length,
the time of its start-of-frame sample point, the data bytes, and 0 in words 21 to 23; it is counted; one that no mailbox
takes is counted apart. A frame with a recessive res bit, or a CAN FD frame without FD_EN, is stored nowhere: with PEX_EN it
is a protocol exception event, which changes no counter, and else a form error (R440; log entry 34). SB_RXACQ acquires the
oldest buffer of a mailbox, SB_RXREL releases it (R446, R456 to R458; that a protocol clock is 12.5 ns by the domain's
present increment is the model's reading, log entry 93). -/
def Obligations.ServiceBusReceives : Prop :=
  ∀ (s : State) (m : Master) (k : Fin 4) (f : CanFrame) (v : Word),
    let find := (fins 16).find? (sbMatches s k f.ide f.id.toNat)
    let cnt (lo n : Nat) (t : State) : Prop := rdf t (Reg.SB_RXCNT k) lo n = min (rdf s (Reg.SB_RXCNT k) lo n + 1) (2 ^ n - 1)
    let box : Fin 16 := Fin.ofNat 16 (fld v 0 4)
    let foreign := f.fdf = true ∧ (f.res = true ∨ rdb s (Reg.SB_CTL k) 5 = false)
    let inc := (rd s (Reg.BSL_INC (domIdx (activeB s)))).toNat
    let tag := ((now s).shift (-((f.sof.toNat * 25 * inc / 2 : Nat) : Int))).words
    let data := f.data.take (if f.rtr then 0 else sbDataLen f.fdf f.dlc.toNat)
    let stat (t : State) : Nat := rdf t (Reg.SB_STAT k) 0 2
    (pdOn s 14 = true → sbMode s k ≠ 0 → sbMode s k ≠ 4 → sbBusOff s k = false → foreign →
      (rdb s (Reg.SB_CTL k) 7 = true → after (.frameReceived k f) s (fun t => t.wmem = s.wmem ∧
        rd t (Reg.SB_ERR k) = rd s (Reg.SB_ERR k) ∧ rd t (Reg.SB_RXCNT k) = rd s (Reg.SB_RXCNT k) ∧
        (s.sb[k].initPend = false → stat t = 3))) ∧
      (rdb s (Reg.SB_CTL k) 7 = false → after (.frameReceived k f) s (fun t =>
        (∀ x, x < 0x304000 → t.wmem.read x = s.wmem.read x) ∧ rd t (Reg.SB_RXCNT k) = rd s (Reg.SB_RXCNT k) ∧
        rdf t (Reg.SB_STAT k) 12 4 = 5 ∧ (sbMode s k ≠ 2 → sbRec t k = min 255 (sbRec s k + 1))))) ∧
    (pdOn s 14 = true → sbMode s k ≠ 0 → sbMode s k ≠ 4 → sbBusOff s k = false → ¬ foreign →
      (find = none → after (.frameReceived k f) s (fun t => cnt 0 8 t ∧ ∀ x, x < 0x304000 → t.wmem.read x = s.wmem.read x)) ∧
      (∀ b, find = some b → after (.frameReceived k f) s (fun t =>
        let full := s.sb[k].full[b]
        let p : Bool × Bool := if full.contains false = false then (false, false) else if full.contains true = false then (true, false)
          else ((full.filter (fun x => s.sb[k].acq ≠ some (b, x))).headD false, true)
        let a := sbRx k b p.1
        cnt 16 16 t ∧ (p.2 = true → cnt 8 8 t) ∧ t.sb[k].full[b].getLast? = some p.1 ∧
        rdb t (Reg.SB_RXSTAT k) b = true ∧
        sbWord t a 0 = BitVec.ofNat 32 (f.ide.toNat * 2 ^ 31 + f.rtr.toNat * 2 ^ 30 + f.fdf.toNat * 2 ^ 29 + f.id.toNat) ∧
        sbWord t a 1 = BitVec.ofNat 32 (f.brs.toNat * 2 ^ 31 + f.esi.toNat * 2 ^ 30 + f.dlc.toNat) ∧
        sbWord t a 2 = tag.1 ∧ sbWord t a 3 = tag.2.1 ∧ sbWord t a 4 = tag.2.2 ∧
        t.wmem.readBytes (a + 20) data.length = data ∧ (∀ i, 21 ≤ i → i < 24 → sbWord t a i = 0) ∧
        ∀ x, x < 0x304000 → (x < a ∨ a + 96 ≤ x) → t.wmem.read x = s.wmem.read x))) ∧
    (Writable s m (Reg.SB_RXACQ k) →
      (s.sb[k].acq.isSome = true → after (.sbRxacq m k v) s (fun t => Answered t m ∧ t.sb = s.sb ∧
        rdb t (Reg.SB_RXSTAT k) 31 = true)) ∧
      (s.sb[k].acq = none → s.sb[k].full[box] = [] → after (.sbRxacq m k v) s (fun t => Answered t m ∧
        rdb t (Reg.SB_RXACQ k) 31 = false ∧ t.sb = s.sb)) ∧
      (∀ b r, s.sb[k].acq = none → s.sb[k].full[box] = b :: r → after (.sbRxacq m k v) s (fun t => Answered t m ∧
        t.sb[k].acq = some (box, b) ∧ rdb t (Reg.SB_RXACQ k) 31 = true ∧ rdb t (Reg.SB_RXACQ k) 8 = b ∧
        rdf t (Reg.SB_RXACQ k) 0 4 = box.val))) ∧
    (∀ b : Fin 16, ∀ x, Writable s m (Reg.SB_RXREL k) → s.sb[k].acq = some (b, x) → after (.sbRxrel m k v) s (fun t =>
      Answered t m ∧ t.sb[k].acq = none ∧ rdb t (Reg.SB_RXACQ k) 31 = false ∧
      t.sb[k].full[b] = s.sb[k].full[b].filter (· ≠ x)))

/-! ## Safety island -/

/-- A tick filters each input and moves each pair; the outputs of a pair that leaves RUN go off, at once or after their
delay, and one that waits for no press and has no demand goes on. With VIO out of range every output is low, and a
safe-stop line whose rails are in the same state is a request. The Warden commands its own channel at the end of its cycle,
where an output whose delay has ended goes off. A demand that arrives during an output's off-pulse keeps it off, whatever
its delay. A press restarts the outputs of the Seal at once, and the request of a safe stop ends with it where the line is
idle, or it releases a lock-out that is authorised and whose condition holds; any other is ignored, as each is in start-up
before the Warden's first heartbeat. A due test makes an off-pulse of one output at a time (R463, R465 to R467, R469 to
R471, R473 to R475, R484 to R486, R561, R563; what stands of the line and of the cells between ticks is the model's reading,
log entry 38). -/
def Obligations.SafetyInputsDriveTheOutputs : Prop :=
  ∀ (s : State) (l : SafeLevels) (o p : Fin 8) (ms : Half),
    let c := s.isl.cfg
    let so (t : State) : Bool := t.pins.so.getLsbD o
    let named (x : Fin 8) : Prop := (outPairs c o).getLsbD x = true
    let moved (k k' : SafeCh) : Prop :=
      k'.lvlA.getLsbD p = (filt (k.lvlA.getLsbD p) (l.siA.getLsbD p) k.cntA[p] (pairFilt c p)).1 ∧
      k'.lvlB.getLsbD p = (filt (k.lvlB.getLsbD p) (l.siB.getLsbD p) k.cntB[p] (pairFilt c p)).1 ∧
      (pairEn c p = true → k'.pair[p] = pairNext (k'.lvlA.getLsbD p) (k'.lvlB.getLsbD p != pairAnti c p) k.pair[p])
    let demands (k : SafeCh) : Prop := ∃ x : Fin 8, named x ∧ k.pair[x] ≠ .run
    let calm (k : SafeCh) : Prop := ∀ x : Fin 8, named x → pairEn c x = true ∧ k.pair[x] = .run ∧ k.dem.getLsbD x = false
    let ignored (t : State) : Prop := t.isl = s.isl ∧ rdb t Reg.SEAL_EVT 29 = true ∧ t.pins = s.pins
    let ends (k : SafeCh) : Prop := k.expired.getLsbD o = true
    (l.vioOk = true → after (.sealTick l) s (fun t => moved s.isl.sealCh t.isl.sealCh ∧ moved s.isl.wdnCh t.isl.wdnCh)) ∧
    (l.vioOk = false → after (.sealTick l) s (fun t => t.pins.so = 0)) ∧
    (l.sameRails = true → after (.sealTick l) s (fun t => t.isl.mstop = true)) ∧
    (s.isl.mode = .running → outEn c o = true → outCat1 c o = false → s.isl.sealCh.delaying.getLsbD o = false →
      after (.sealTick l) s (fun t => demands t.isl.sealCh → so t = false) ∧
      after .marginSafeStop s (fun t => so t = false ∧ t.isl.mstop = true)) ∧
    (s.isl.mode = .running → outEn c o = true → outCat1 c o = true → s.isl.sealCh.cmd.getLsbD o = true →
      ¬ ends s.isl.sealCh → (∀ b, s.isl.pulse ≠ some (o, b)) →
      after .marginSafeStop s (fun t => t.isl.sealCh.delaying.getLsbD o = true ∧ t.isl.sealCh.cmd.getLsbD o = true)) ∧
    (∀ b, s.isl.mode = .running → outEn c o = true → s.isl.pulse = some (o, b) → s.isl.sealCh.inDem.getLsbD o = false →
      after .marginSafeStop s (fun t => so t = false ∧ t.isl.sealCh.cmd.getLsbD o = false ∧ ends t.isl.wdnCh)) ∧
    (s.isl.mode = .running → outEn c o = true → s.isl.mstop = false → s.isl.wdnCh.wait.getLsbD o = false →
      calm s.isl.wdnCh → ¬ ends s.isl.wdnCh → after .wardenCycle s (fun t => t.isl.wdnCh.cmd.getLsbD o = true)) ∧
    (s.isl.mode = .running → ends s.isl.wdnCh → after .wardenCycle s (fun t => t.isl.wdnCh.cmd.getLsbD o = false)) ∧
    (s.isl.mode = .running → outEn c o = true → outCat1 c o = false → s.isl.wdnCh.delaying.getLsbD o = false →
      demands s.isl.wdnCh → after .wardenCycle s (fun t => so t = false ∧
        (outManual c o = true → t.isl.wdnCh.wait.getLsbD o = true))) ∧
    (s.isl.sealCh.delaying.getLsbD o = true ∨ s.isl.wdnCh.delaying.getLsbD o = true →
      after (.offDelayExpiry o) s (fun t => so t = false ∧ t.isl.sealCh.delaying.getLsbD o = false ∧
        t.isl.sealCh.cmd.getLsbD o = false ∧ ends t.isl.wdnCh ∧ t.isl.wdnCh.cmd = s.isl.wdnCh.cmd)) ∧
    (ms.toNat < 50 ∨ 3000 < ms.toNat ∨ s.isl.checked = false ∨ s.isl.mode = .startup ∧ s.isl.hbSeen = false →
      after (.srstNPress ms) s ignored) ∧
    (50 ≤ ms.toNat → ms.toNat ≤ 3000 → s.isl.checked = true →
      let released := s.isl.auth.isSome = true ∧ releaseOk s s.isl.condCause s.isl.condDetail = true
      (s.isl.mode = .lockout → ¬ released → after (.srstNPress ms) s ignored) ∧
      (s.isl.mode = .lockout → released → after (.srstNPress ms) s (fun t => t.isl.mode = .startup ∧ t.isl.auth = none ∧
        rdf t Reg.WDN_LOCK 24 4 = 0 ∧ rdf t Reg.SEAL_SI_STAT 0 8 = 0 ∧ rdf t Reg.SEAL_SO_STAT 0 8 = 0 ∧
        rdb t Reg.SEAL_EVT 30 = true)) ∧
      (s.isl.mode = .running ∨ s.isl.mode = .startup ∧ s.isl.hbSeen = true → after (.srstNPress ms) s (fun t =>
        t.isl.mode = .running ∧ rdb t Reg.SEAL_EVT 30 = true ∧ t.isl.wdnCh.cmd = s.isl.wdnCh.cmd ∧
        t.isl.mstop = (s.isl.mstop && (rdb s Reg.MGN_STAT 31 || s.isl.lineFault)) ∧
        (outEn c o = true → s.isl.mstop = false → calm s.isl.sealCh → s.isl.sealCh.delaying.getLsbD o = false →
          ¬ ends s.isl.sealCh →
          t.isl.sealCh.wait.getLsbD o = false ∧ t.isl.sealCh.cmd.getLsbD o = true)))) ∧
    (outEn c o = true →
      (s.isl.pulse = none → (outBoth s.isl).getLsbD o = true → after (.offPulseTest o) s (fun t => so t = false ∧
        t.isl.pulse = some (o, s.isl.tests[o] % 2 == 0))) ∧
      (s.isl.pulse = none → (outBoth s.isl).getLsbD o = false → after (.offPulseTest o) s (fun t => t.isl = s.isl ∧
        rdf t Reg.WDN_LOCK 8 8 = min (rdf s Reg.WDN_LOCK 8 8 + 1) 255)) ∧
      (∀ q b, s.isl.pulse = some (q, b) → q ≠ o → after (.offPulseTest o) s (fun t =>
        t.isl = { s.isl with pulseWait := s.isl.pulseWait ++ [o] }))) ∧
    (∀ b, s.isl.pulse = some (o, b) → s.isl.pulseWait = [] → after (.offPulseEnd o) s (fun t => t.isl.pulse = none ∧
      so t = (!(s.pwr.por || s.pwr.nReset || s.isl.vioLow) && (s.isl.sealCh.cmd &&& s.isl.wdnCh.cmd).getLsbD o)))

/-- Each fault of the island latches a lock-out with its cause and detail, in which every output is off: a discrepancy
that outlasts its time, a readback fault of any output and a pulse fault of an enabled one, missing or differing
heartbeats (the Warden's found missing by the Seal once one has come), the loss of the tick, a node that does not report
STO once its STOP bit was sent, and VSAFE. In a lock-out the first cause stands, but both heartbeats missing make one of
their own; before the ledger has been checked a fault waits for the check (the model's choice, log entry 128). A heartbeat
is formed from its sender's next sequence number, pair states, output commands and configuration CRC; that another may
arrive in its place is a fault on the way. A fault that changes nothing begins no more than a new instant (R468, R472,
R473, R478 to R484, R488, R563, R574). -/
def Obligations.SafetyFaultsLockOut : Prop :=
  ∀ (s : State) (o p : Fin 8) (n : Fin 256) (ch : SafeChannel) (other : Option Heartbeat),
    let c := s.isl.cfg
    let locks (cause detail : Nat) (t : State) : Prop := t.isl.mode = .lockout ∧ t.pins.so = 0 ∧
      t.isl.sealCh.cmd = 0 ∧ t.isl.wdnCh.cmd = 0 ∧ rdf t Reg.WDN_LOCK 24 4 = cause ∧ rdf t Reg.WDN_LOCK 16 8 = detail ∧
      rdf t Reg.WDN_LOCK 0 8 = min (rdf s Reg.WDN_LOCK 0 8 + 1) 255 ∧ rdb t Reg.SEAL_EVT 31 = true ∧
      t.isl.condCause = cause ∧ t.isl.condDetail = detail
    let recv (t : State) : SafeCh := if ch = .warden then t.isl.sealCh else t.isl.wdnCh
    let send (t : State) : SafeCh := if ch = .warden then t.isl.wdnCh else t.isl.sealCh
    let formed : Heartbeat := { seq := (send s).sent + 1, pairs := pairRuns c (send s), cmds := outCmd s.isl (ch == .seal)
                                crc := cfgCrc c }
    let h := other.getD formed
    let k := recv s
    let hb := if ch = .warden then 4 else 5
    let seqOk := ∀ q, k.seq = some q → h.seq = q + 1
    let same := h.pairs = pairRuns c k ∧ h.cmds = outCmd s.isl (ch == .warden)
    (s.isl.checked = true → s.isl.mode ≠ .lockout →
      (pairEn c p = true → pairDisc c p ≤ s.isl.sealCh.timer[p] → after (.discrepancyFault p) s (fun t =>
        locks 1 p t ∧ rdb t Reg.SEAL_SI_STAT p = true)) ∧
      after (.readbackFault o) s (fun t => locks 2 o t ∧ rdb t Reg.SEAL_SO_STAT o = true) ∧
      (outEn c o = true → after (.offPulseFault o) s (fun t => locks 3 o t ∧ rdb t Reg.SEAL_SO_STAT o = true)) ∧
      (s.isl.hbSeen = true → after (.heartbeatMissing .seal) s (locks 4 0)) ∧
      after (.heartbeatMissing .warden) s (locks 5 0) ∧
      (¬ seqOk ∨ h.crc ≠ cfgCrc c → after (.heartbeat ch other) s (locks hb 0)) ∧
      (seqOk → h.crc = cfgCrc c → ¬ same → k.diff = true → after (.heartbeat ch other) s (locks 7 0)) ∧
      after .tickLoss s (locks 8 0) ∧ after .vsafeFault s (locks 12 0) ∧
      (rdb s (Reg.PLN_NODE n) 31 = true → s.pln.node[n].safe = true → s.pln.node[n].stopSent = true →
        s.pln.node[n].stoSeen = false → after (.nodeStoFeedback n) s (locks 9 n))) ∧
    (seqOk → h.crc = cfgCrc c → (same ∨ k.diff = false) → after (.heartbeat ch other) s (fun t => t.isl.mode = s.isl.mode ∧
      (recv t).seq = some h.seq ∧ ((recv t).diff = true ↔ ¬ same) ∧ (same → (recv t).good = min 100 (k.good + 1)) ∧
      (¬ same → (recv t).good = 0) ∧ rdf t Reg.WDN_HB (if ch = .warden then 16 else 0) 16 = h.seq.toNat)) ∧
    after (.heartbeat ch other) s (fun t => (send t).sent = (send s).sent + 1) ∧
    (pairEn c p = false ∨ s.isl.sealCh.timer[p] < pairDisc c p → after (.discrepancyFault p) s (fun t => t = s)) ∧
    (outEn c o = false → after (.offPulseFault o) s (fun t => t = s)) ∧
    (s.isl.hbSeen = false → after (.heartbeatMissing .seal) s (fun t => t = s)) ∧
    (s.pln.node[n].stopSent = false ∨ s.pln.node[n].stoSeen = true → after (.nodeStoFeedback n) s (fun t => t = s)) ∧
    (s.isl.checked = true → s.isl.mode = .lockout →
      after .tickLoss s (fun t => t = newInstant s) ∧ after .vsafeFault s (fun t => t = newInstant s) ∧
      (rdf s Reg.WDN_LOCK 24 4 = 5 → s.isl.hbSeen = true → after (.heartbeatMissing .seal) s (fun t =>
        t.isl.mode = .lockout ∧ rdf t Reg.WDN_LOCK 24 4 = 6 ∧ t.isl.condCause = 6))) ∧
    (s.isl.checked = false → after .tickLoss s (fun t => t.isl.mode = s.isl.mode ∧ rd t Reg.WDN_LOCK = rd s Reg.WDN_LOCK ∧
      (8, 0) ∈ t.isl.early ∧ ∀ x ∈ s.isl.early, x ∈ t.isl.early))

/-- A command to the Warden is executed once per tag and for PCIe and LBUS (masters 0 and 1) alone, and clears the
password; one of another master is an access error with reason 5 and ends with RESULT 8. AUTH judges the digest, and one
that fails or is refused sets AUTH_FAIL_EVT; COMMIT judges the staged image and SET_PWD the characters; these two take
effect with their ledger entry, which waits in the queue while the ledger does not answer. VSAFE power-on keeps the
configuration and the password; the first check of the ledger takes up the lock-out that it shows, and then one that a fault
before it began (R461, R484, R485, R487, R488, R490 to R495, R533; the model's readings of these stand in log entries 38,
57, 75, 76 and 128). -/
def Obligations.SafetyCommandsAndLedger : Prop :=
  ∀ (s : State) (m : Master) (tag : Half),
    let i := s.isl
    let res (r : Nat) (t : State) : Prop := Answered t m ∧ rdf t Reg.WDN_CMD_STAT 16 8 = r ∧
      rdb t Reg.WDN_CMD_STAT 31 = false ∧ rdf t Reg.WDN_CMD_STAT 0 16 = tag.toNat ∧ ∀ w : Fin 4, rd t (Reg.WDN_PWD w) = 0
    let up := ledgerUp s = true ∧ warning s = false ∧ i.queue = []
    let free := i.lastTag ≠ some tag ∧ rdb s Reg.WDN_CMD_STAT 31 = false
    let all (q : State → Prop) : Prop :=
      after (.auth m tag) s q ∧ after (.commit m tag) s q ∧ after (.setPwd m tag) s q ∧ after (.deauth m tag) s q
    let img := staged s
    (WinWritable s m 17 →
      (rdb s Reg.WDN_CMD_STAT 31 = false → i.lastTag = some tag → all (fun t => Answered t m ∧ t.isl = i ∧
        rd t Reg.WDN_CMD_STAT = rd s Reg.WDN_CMD_STAT)) ∧
      (rdb s Reg.WDN_CMD_STAT 31 = true → all (fun t => Answered t m ∧ t.isl.nextCmd.isSome = true ∧
        rd t Reg.WDN_CMD_STAT = rd s Reg.WDN_CMD_STAT)) ∧
      (free → 1 < m.val → all (fun t => res 8 t ∧ t.isl.auth = i.auth ∧ rdb t (indStat m) 31 = true ∧
        (rdb s Reg.HST_ACCERR 31 = false → rd t Reg.HST_ACCERR = BitVec.ofNat 32 (2 ^ 31 + 2 ^ 30 + 5 * 2 ^ 27 + m.val * 2 ^ 22) ∧
          rd t Reg.HST_ACCERR_ADDR = 0x100000#32))) ∧
      (free → m.val ≤ 1 →
        (i.refusing = true → after (.auth m tag) s (fun t => res 3 t ∧ t.isl.auth = i.auth ∧ rdb t Reg.SEAL_EVT 28 = true)) ∧
        (i.refusing = false → i.digest = [] → after (.auth m tag) s (fun t => res 9 t ∧ t.isl.auth = i.auth ∧
          rdb t Reg.SEAL_EVT 28 = true)) ∧
        (i.refusing = false → i.digest ≠ [] → pwdDigest s = i.digest → after (.auth m tag) s (fun t => res 1 t ∧
          t.isl.auth = some s.tick ∧ t.isl.fails = 0 ∧ rdb t Reg.WDN_CMD_STAT 30 = true)) ∧
        (i.refusing = false → i.digest ≠ [] → pwdDigest s ≠ i.digest → after (.auth m tag) s (fun t => res 2 t ∧
          t.isl.auth = i.auth ∧ rdb t Reg.SEAL_EVT 28 = true ∧ t.isl.fails = i.fails + 1 ∧ (t.isl.refusing = true ↔ 2 ≤ i.fails))) ∧
        (i.auth = none → after (.commit m tag) s (res 4)) ∧
        (i.auth ≠ none → cfgFormOk s img = false → after (.commit m tag) s (res 5)) ∧
        (i.auth ≠ none → cfgFormOk s img = true → cfgRangeOk img = false → after (.commit m tag) s (res 6)) ∧
        (i.auth ≠ none → cfgFormOk s img = true → cfgRangeOk img = true →
          (up → after (.commit m tag) s (fun t => res 1 t ∧ t.isl.mode = .lockout ∧ t.isl.cfg = img ∧ t.isl.auth = none ∧
            rd t Reg.WDN_CRC = cfgCrc img ∧ ∀ p : Fin 8, t.isl.sealCh.pair[p] = .demand true false)) ∧
          (i.mode = .lockout → ¬ up → i.queue.length < 8 → after (.commit m tag) s (fun t => Answered t m ∧
            rdb t Reg.WDN_CMD_STAT 31 = true ∧ t.isl.cfg = i.cfg ∧ t.isl.pendCfg = some img ∧
            t.isl.queue.length = i.queue.length + 1)) ∧
          (i.mode = .lockout → 8 ≤ i.queue.length → after (.commit m tag) s (fun t => res 0 t ∧ t.isl.cfg = i.cfg ∧
            t.isl.pendCfg = none ∧ rdb t Reg.SEAL_EVT 27 = true))) ∧
        (i.auth = none → i.digest ≠ [] → after (.setPwd m tag) s (res 4)) ∧
        ((i.auth ≠ none ∨ i.digest = []) → pwdOk s = false → after (.setPwd m tag) s (res 7)) ∧
        ((i.auth ≠ none ∨ i.digest = []) → pwdOk s = true → up → after (.setPwd m tag) s (fun t => res 1 t ∧
          t.isl.digest = pwdDigest s)) ∧
        after (.deauth m tag) s (fun t => res 1 t ∧ t.isl.auth = none ∧ rdb t Reg.WDN_CMD_STAT 30 = false))) ∧
    after .authorisationExpiry s (fun t => t.isl = { i with auth := none } ∧ rdb t Reg.WDN_CMD_STAT 30 = false) ∧
    after .authRefusalEnd s (fun t => t.isl = { i with refusing := false }) ∧
    after .vsafePowerOn s (fun t => t.isl.mode = .startup ∧ t.isl.checked = false ∧ t.isl.auth = none ∧
      t.isl.cfg = i.cfg ∧ t.isl.digest = i.digest ∧ t.isl.fails = i.fails ∧ t.isl.nextS = i.nextS ∧ t.pins.so = 0 ∧
      rd t Reg.WDN_LOCK = 0) ∧
    (i.checked = true → after .ledgerCheck s (fun t => t = s)) ∧
    (i.checked = false → s.pwr.por = false → i.early = [] →
      let sound := (ledgerEntries s).find? (fun e => entryKind e == 3 || entryKind e == 4)
      (∀ e, sound = some e → entryKind e = 3 → after .ledgerCheck s (fun t => t.isl.checked = true ∧
        t.isl.mode = .lockout ∧ rdf t Reg.WDN_LOCK 24 4 = 13 ∧ rdf t Reg.WDN_LOCK 16 8 = entryCause e ∧ t.pins.so = 0)) ∧
      ((∀ e, sound = some e → entryKind e ≠ 3) → i.cfg ≠ [] → after .ledgerCheck s (fun t => t.isl.checked = true ∧
        t.isl.mode = i.mode)) ∧
      ((∀ e, sound = some e → entryKind e ≠ 3) → i.cfg = [] → i.mode ≠ .lockout → after .ledgerCheck s (fun t =>
        t.isl.mode = .lockout ∧ rdf t Reg.WDN_LOCK 24 4 = 11))) ∧
    (∀ x d, i.checked = false → s.pwr.por = false → i.early = [(x, d)] → x < 16 → i.cfg ≠ [] → i.mode ≠ .lockout →
      ledgerEntries s = [] → after .ledgerCheck s (fun t => t.isl.checked = true ∧ t.isl.mode = .lockout ∧
        rdf t Reg.WDN_LOCK 24 4 = x ∧ t.pins.so = 0)) ∧
    (i.nextCmd = none → (ledgerUp s = false ∨ warning s = true) → after .ledgerQueueWrite s (fun t => t = s)) ∧
    (∀ e, i.nextCmd = none → ledgerUp s = true → warning s = false → i.queue = [e] → e.words.length = 6 →
      after .ledgerQueueWrite s (fun t => t.isl.queue = [] ∧ t.isl.nextS = i.nextS + 1 ∧
        rd t Reg.WDN_LEDGER = BitVec.ofNat 32 i.nextS ∧
        t.wmem.readWords (0x300000 + i.nextS % 128 * 32) 7 = e.words ++ [BitVec.ofNat 32 i.nextS] ∧
        (∀ cfg, e.acts = true → i.pendCfg = some cfg → t.isl.cfg = cfg ∧ t.isl.pendCfg = none ∧
          rdf t Reg.WDN_CMD_STAT 16 8 = 1)))

/-! ## Host interface -/

/-- A selector latches a wide value, or sets ERR; the value arrives with VALID and its length, and the read of its last
word releases it, with the capture it is tied to. HST_IND_DATA reaches the window address and steps it with INC: a register
through the management ring, a frame buffer of the message RAM, the staging area, the ledger, a fuse word, which is blown
when its programming is done. An access that reaches no target, that names HST_IND_DATA itself, that meets a domain that is
off or an urgent buffer in use, sets ERR, reads 0, and is an access error with the window address, of reason 7 for the
domain and 6 for the others (the last distinction is the model's reading, log entry 55, and the access that names itself
its choice, log entry 68). A doorbell rings the cores and raises event 0x07, a core's own bit the host. A function level
reset clears the MSI-X table and the configuration space alone (R217, R218, R421, R422, R446, R450, R527, R541 to R544,
R550, R555, R556; the configuration space is PRESUMED, log entry 129). -/
def Obligations.MailboxesWindowsAndDoorbells : Prop :=
  ∀ (s : State) (m : Master) (c : Fin 16) (v : Word) (vf : Bool),
    let sel := fld v 0 16
    let b := s.hst.mb[m]
    let len := rdf s (mbStat m) 0 3
    let a := indAddr s m
    let stepped (t : State) : Prop := indAddr t m = if rdb s (Reg.banked m Reg.HST_IND_ADDR) 31 then (a + 4) % 2 ^ 23 else a
    let failed (write : Bool) (k : Nat) (t : State) : Prop := stepped t ∧ rdb t (indStat m) 31 = true ∧ t.wmem = s.wmem ∧
      (rdb s Reg.HST_ACCERR 31 = true → rd t Reg.HST_ACCERR = rd s Reg.HST_ACCERR) ∧
      (rdb s Reg.HST_ACCERR 31 = false → rd t Reg.HST_ACCERR_ADDR = BitVec.ofNat 32 a ∧
        rd t Reg.HST_ACCERR = BitVec.ofNat 32 (2 ^ 31 + write.toNat * 2 ^ 30 + k * 2 ^ 27 + m.val * 2 ^ 22))
    let readsNone (k : Nat) : Prop := after (.hstIndData m none vf) s (fun t => t.hst.resp[m] = .value 0 ∧ failed false k t)
    let dropped (k : Nat) : Prop := after (.hstIndData m (some v) vf) s (fun t => Answered t m ∧ failed true k t)
    (Writable s m Reg.HST_MB_SEL →
      (mbValue s sel = none → after (.hstMbSel m v) s (fun t => Answered t m ∧ mbValid t m = false ∧
        rdb t (mbStat m) 30 = true ∧ t.cap = s.cap)) ∧
      (∀ w x, mbValue s sel = some (w, x) → mbOn s sel = true → after (.hstMbSel m v) s (fun t => Answered t m ∧
        mbValid t m = false ∧ t.hst.mb[m] = { words := w, tie := x, waiting := true } ∧ t.cap = s.cap))) ∧
    (b.waiting = true → b.words ≠ [] → b.words.length < 8 → after (.mailboxValid m) s (fun t => mbValid t m = true ∧
      rdf t (mbStat m) 0 3 = b.words.length ∧ t.hst.mb[m].words = b.words)) ∧
    (b.waiting = true → b.words = [] → after (.mailboxValid m) s (fun t => mbValid t m = mbValid s m)) ∧
    (b.waiting = false → after (.mailboxValid m) s (fun t => t = s)) ∧
    (1 ≤ len → len ≤ 5 → AcceptedRead s m (Reg.HST_MB_D (len - 1)) → mbValid s m = true → b.words.length = len →
      after (.mailboxRelease m) s (fun t => t.hst.resp[m] = .value (b.words.getD (len - 1) 0) ∧ mbValid t m = false ∧
        t.hst.mb[m].words = [] ∧ (b.tie = .none → t.cap = s.cap) ∧
        (∀ n, b.tie = .capture n → s.cap[n].fifo.head? = some b.words → t.cap[n].fifo = s.cap[n].fifo.tail))) ∧
    (Accepted s m Reg.HST_IND_DATA →
      (winSite a = some (17, .staging) → denied s m true 17 = false → after (.hstIndData m (some v) vf) s (fun t =>
        Answered t m ∧ stepped t ∧ t.wmem = s.wmem.write32 a v)) ∧
      (∀ o, winSite a = some (20, .fuse o) → denied s m true 20 = false → s.hst.fuseJob[m] = none →
        after (.hstIndData m (some v) true) s (fun t => Answered t m ∧ stepped t ∧ rdb t (indStat m) 30 = true ∧
          t.hst.fuseJob[m] = some { ofs := o, bits := v, begun := !warning s }) ∧
        after (.hstIndData m (some v) false) s (fun t => Answered t m ∧ failed true 6 t)) ∧
      (a = 0xC0034 → denied s m true 16 = false → after (.hstIndData m (some v) vf) s (fun t => Answered t m ∧ stepped t ∧
        rd t Reg.HST_IRQ_EN = v ∧ t.wmem = s.wmem)) ∧
      (∀ k u, winSite a = some (18, .frame k u) → denied s m true 18 = false → pdOn s 14 = true →
        (u = true ∧ sbUrg s k = true → dropped 6) ∧
        (u = false ∨ sbUrg s k = false → after (.hstIndData m (some v) vf) s (fun t => Answered t m ∧ stepped t ∧
          t.wmem = s.wmem.write32 a v))) ∧
      (∀ k u, winSite a = some (18, .frame k u) → pdOn s 14 = false → dropped 7) ∧
      (∀ x, winSite a = some (16, .ring x) → siteOn s x = false → dropped 7) ∧
      (winSite a = none ∨ a = 0xC0144 → dropped 6)) ∧
    (AcceptedRead s m Reg.HST_IND_DATA →
      (∀ k, winSite a = some (k, .staging) ∨ winSite a = some (k, .ledger) → denied s m false k = false →
        after (.hstIndData m none vf) s (fun t => stepped t ∧ t.hst.resp[m] = .value (s.wmem.read32 a))) ∧
      (a = 0xC0034 → denied s m false 16 = false → after (.hstIndData m none vf) s (fun t => stepped t ∧
        t.hst.resp[m] = .value (rd s Reg.HST_IRQ_EN))) ∧
      (∀ k u, winSite a = some (18, .frame k u) → denied s m false 18 = false → pdOn s 14 = true →
        after (.hstIndData m none vf) s (fun t => stepped t ∧ t.hst.resp[m] = .value (s.wmem.read32 a))) ∧
      (∀ k u, winSite a = some (18, .frame k u) → pdOn s 14 = false → readsNone 7) ∧
      (∀ x, winSite a = some (16, .ring x) → siteOn s x = false → readsNone 7) ∧
      (winSite a = none ∨ a = 0xC0144 → readsNone 6)) ∧
    (∀ j, s.hst.fuseJob[m] = some j → j.begun = true → after (.fuseProgramDone m) s (fun t =>
      fuseWord t j.ofs = fuseWord s j.ofs ||| j.bits ∧ t.hst.fuseJob[m] = none ∧ rdb t (indStat m) 30 = false)) ∧
    (∀ j, s.hst.fuseJob[m] = some j → j.begun = false → after (.fuseProgramDone m) s (fun t => t = s)) ∧
    (Writable s m Reg.HST_DOORBELL → after (.hstDoorbell m v) s (fun t => Answered t m ∧
      (bit v c.val = true → pdOn s (pdOfCore c) = true → rdb t (Reg.SC_IRQ_PEND c) 4 = true) ∧
      (∀ r : Fin 128, fld v 0 16 ≠ 0 → pdOn s 10 = true → rdb s (Reg.INK_EVR r) 31 = true → rdf s (Reg.INK_EVR r) 16 8 = 7 →
        256 ≤ rdf s (Reg.INK_EVR r) 7 9 → rdb t (Reg.INK_TFLAG (rdf s (Reg.INK_EVR r) 7 9)) (rdf s (Reg.INK_EVR r) 0 5) = true))) ∧
    (Writable s m Reg.HST_HDB → m.val = c.val + 2 → after (.hstHdb m v) s (fun t => Answered t m ∧
      rdb t Reg.HST_IRQ_PEND (16 + c.val) = (rdb s Reg.HST_IRQ_PEND (16 + c.val) || bit v c.val))) ∧
    after .functionLevelReset s (fun t => t.hst.msix = State.reset.hst.msix ∧ t.hst.msixPend = 0 ∧ t.hst.pcie = Hst.reset.pcie ∧
      RegsKept s t (fun _ => False) ∧ MemoryKept s t (fun _ => False) (fun _ => False))

/-- A queue takes the entry at TAKE, while it is enabled and holds one; no other entry is taken. A repeat of an accepted
entry is acknowledged with the stored result, or when that is known; an ill-formed one with result 0xF0 and one outside
full service with 0xF1; one whose target is busy stays; any other is passed to its target. RESET empties a queue that is
not enabled (R545 to R549). -/
def Obligations.QueueEntriesAreTaken : Prop :=
  ∀ (s : State) (m : Master) (q : Fin 8) (v : Word) (en : QEntry) (c : Instr) (k : TakenEntry),
    let next := if qTakeIdx s q + 1 < qSize s q then qTakeIdx s q + 1 else 0
    let row := (c, k) ∈ [(Instr.nop q en, rowEntry 0 en), (.ductus q en, rowEntry 1 en), (.bankLoad q en, rowEntry 2 en),
      (.bankSwap q en, rowEntry 3 en), (.switch q en, rowEntry 4 en)]
    let due := qWaits s q = true ∧ k.idx.toNat = qTakeIdx s q
    let taken := row ∧ due ∨ c = .queueEntryTake q ∧ k = entryAt s q (qTakeIdx s q) ∧ qWaits s q = true
    let acked (w : Word) (t : State) : Prop := qTakeIdx t q = next ∧ rdb t Reg.HST_IRQ_PEND q = true ∧
      mrd32 t (entryAddr s q k.idx.toNat + 48) = w
    let same (u : TagRec) : Bool := u.tag == k.tag
    let p (i : Nat) : Word := k.w.getD i 0
    let src : ReqSrc := .queue q k.tag
    (taken → pdOn s 10 = true →
      (∀ u r, s.hst.queue[q].tags.find? same = some u → u.result = some r →
        after c s (acked (ackWord k.tag r true (u.op != k.op)))) ∧
      (∀ u, s.hst.queue[q].tags.find? same = some u → u.result = none → after c s (fun t => qTakeIdx t q = next ∧
        t.hst.queue[q].tags = s.hst.queue[q].tags.map (fun x =>
          if same x then { x with repeats := x.repeats ++ [(k.idx, u.op != k.op)] } else x))) ∧
      (s.hst.queue[q].tags.find? same = none →
        (k.spoilt = true ∨ paramsOk k.op k.w = false → after c s (acked (ackWord k.tag 0xF0 false false))) ∧
        (k.spoilt = false → paramsOk k.op k.w = true →
          (fullService s = false → after c s (acked (ackWord k.tag 0xF1 false false))) ∧
          (fullService s = true → heldBack s q k = true → after c s (fun t => t = s)) ∧
          (fullService s = true → heldBack s q k = false →
            (k.op = 0 → after c s (acked (ackWord k.tag 1 false false))) ∧
            (k.op = 1 → after c s (fun t => qTakeIdx t q = next ∧ let n : Fin 256 := Fin.ofNat 256 (fld (p 0) 16 8)
              (slotOf t n).waiting = (slotOf s n).waiting ++
                [{ src := .queue q k.tag, w0 := p 0, w := ⟨p 1, p 2, p 3, p 4, p 5, p 6, p 7⟩ }])) ∧
            (k.op = 2 → let n : Fin 256 := Fin.ofNat 256 (fld (p 0) 0 8)
              if s.axcfg[n].used && !s.axcfg[n].virt then after c s (fun t => qTakeIdx t q = next ∧
                t.loads = s.loads ++ [{ axis := n, bank := bit (p 0) 8, addr := p 1, accepted := false, tables := []
                                        pos := 0, bad := false, src }])
              else after c s (acked (ackWord k.tag 7 false false))) ∧
            (k.op = 3 → after c s (fun t => qTakeIdx t q = next ∧ let g : Fin 32 := Fin.ofNat 32 (fld (p 0) 0 5)
              rdb t (Reg.INK_BANK g) 7 = true ∧
              t.grp[g].swap = some { target := bit (p 0) 8, atSwitch := bit (p 0) 9, due := false, src })) ∧
            (k.op = 4 → let x : Fin 8 := Fin.ofNat 8 (fld (p 0) 0 3)
              match swRefusal s x with
              | some r => after c s (acked (ackWord k.tag (BitVec.ofNat 8 r) false false))
              | none => after c s (fun t => qTakeIdx t q = next ∧ rdf t Reg.PLN_SW_STAT 0 3 = 1 ∧
                  ∃ w, t.pln.sw = some w ∧ w.target = x ∧ w.src = src)))))) ∧
    (qWaits s q = false → after (.queueEntryTake q) s (fun t => t = s)) ∧ (row → ¬ due → after c s (fun t => t = s)) ∧
    (Writable s m (Reg.HST_Q_WR q) → after (.hstQWr m q v) s (fun t => Answered t m ∧
      rdf t (Reg.HST_Q_WR q) 0 8 = fld v 0 8)) ∧
    (Writable s m (Reg.HST_Q_CTL q) →
      (rdb s (Reg.HST_Q_CTL q) 0 = true → after (.queueReset m q v) s (fun t => Answered t m ∧
        rdb t (Reg.HST_Q_RD q) 31 = true ∧ t.hst.queue = s.hst.queue)) ∧
      (rdb s (Reg.HST_Q_CTL q) 0 = false → after (.queueReset m q v) s (fun t => Answered t m ∧
        t.hst.queue[q] = { tags := [], acked := [] } ∧ rdf t (Reg.HST_Q_WR q) 0 8 = 0 ∧
        rdf t (Reg.HST_Q_RD q) 0 8 = 0 ∧ qTakeIdx t q = 0 ∧ rdb t (Reg.HST_Q_CTL q) 0 = bit v 0)))

/-! ## Power, clocks and reset -/

/-- The power-on reset returns everything to its reset value but the island, its ledger and its staging area, and the
fuses, and a Warden that was heard is missed: before the check of R487 that lock-out waits (log entry 128). nRST does so
too, once it is armed. Both empty the memories of the map, whose domains they switch off, and drive the safe outputs low;
numbers of the fault history count on: both are the model's readings (log entry 53). At the release the fuses are read
and bring-up begins with a stage 1 of at most 1 ms, whose length is left open (log entry 116); the strap BOOT_HOST is
sampled there and acts later (log entry 50). A press that lasts 4 s disarms nRST (R461, R522, R562, R563, R567 to R570,
R586, R587). -/
def Obligations.ResetsAndTheirReach : Prop :=
  ∀ (s : State) (vio te bh level : Bool),
    let idle := s.isl.writing = none ∧ s.mgn.writing = none ∧ ∀ m : Master, s.hst.fuseJob[m] = none
    let wiped (t : State) : Prop := t.eng = State.reset.eng ∧ t.ink = State.reset.ink ∧ t.mgn = { Mgn.reset with histSeq := s.mgn.histSeq } ∧
      t.pln = State.reset.pln ∧ t.stw = State.reset.stw ∧ t.hst = State.reset.hst ∧ t.pwr.nArmed = false ∧ t.pins.tp = 0 ∧ t.pins.lfCk = 0xFF ∧
      t.pins.so = 0 ∧ t.mem = [] ∧
      (∀ a, islandReg a = false → a ≠ Reg.PWR_STAT → a ≠ Reg.PWR_RST_CAUSE → rd t a = rd State.reset a) ∧
      rd t Reg.PWR_STAT = (rd s Reg.PWR_STAT &&& 0x1F0#32) ∧
      ∀ x, 0x200000 ≤ x → x < 0x208000 → t.wmem.read x = State.reset.wmem.read x
    let kept (low : Bool) (t : State) : Prop := t.isl = { s.isl with writing := none, vioLow := low } ∧ (∀ a, islandReg a = true → rd t a = rd s a) ∧
      (idle → ∀ x, (x < 0x200000 ∨ 0x208000 ≤ x) → t.wmem.read x = s.wmem.read x)
    let begins (t : State) : Prop := t.pwr.por = false ∧ t.pwr.nReset = false ∧ stage t = 1 ∧ t.stw.bootHost = bh ∧
      s.tick ≤ t.stw.stageEnd ∧ t.stw.stageEnd ≤ s.tick + 1000000 ∧
      pdOn t 13 = true ∧ (∀ o ∈ fuseOffsets, rd t (0x04B00000 + o) = fuseShadow o (fuseWord s o)) ∧
      rdb t Reg.MGN_INJ 31 = (te && bit (fuseShadow 0x48 (fuseWord s 0x48)) 0)
    after (.powerOnReset vio) s (fun t => wiped t ∧ t.pwr.por = true ∧
      rd t Reg.PWR_RST_CAUSE = BitVec.ofNat 32 (1 + 2 * vio.toNat) ∧ (s.isl.hbSeen = false → kept (!vio) t) ∧
      (s.isl.hbSeen = true → if s.isl.checked
        then t.isl.mode = .lockout ∧ (s.isl.mode ≠ .lockout → rdf t Reg.WDN_LOCK 24 4 = 4) else (4, 0) ∈ t.isl.early)) ∧
    (s.pwr.por = false → s.pwr.nReset = false → s.pwr.nArmed = true → after .nrstPress s (fun t => wiped t ∧
      kept s.isl.vioLow t ∧ t.pwr.nReset = true ∧ rd t Reg.PWR_RST_CAUSE = (rd s Reg.PWR_RST_CAUSE ||| 4#32))) ∧
    (s.pwr.por = true ∨ s.pwr.nReset = true ∨ s.pwr.nArmed = false → after .nrstPress s (fun t => t = s)) ∧
    (s.pwr.por = true → after (.porRelease te bh) s begins ∧ after (.nrstResetEnd te bh) s (fun t => t = s)) ∧
    (s.pwr.por = false → after (.porRelease te bh) s (fun t => t = s)) ∧
    (s.pwr.nReset = true → s.pwr.por = false → after (.nrstResetEnd te bh) s begins) ∧
    (s.pwr.nReset = false → after (.nrstResetEnd te bh) s (fun t => t = s)) ∧
    (s.pwr.por = false → s.pwr.nReset = false → after .nrstArmed s (fun t => t = { s with pwr := { s.pwr with nArmed := true } })) ∧
    after .nrstStuck s (fun t => t.pwr.nArmed = false ∧ rdb t Reg.PWR_STAT 1 = true) ∧
    after (.pePerstN level) s (fun t => t.pwr.perst = level ∧ RegsKept s t (fun _ => False) ∧
      (level = false → t.hst.msix = State.reset.hst.msix ∧ t.hst.msixPend = 0 ∧ t.hst.pcie = Hst.reset.pcie))

/-- The brown-out warning, the clocks, the temperature and VSAFE show in PWR_STAT; the warning is counted and timed. A
domain is switched off at the request and on when it is powered; the request is refused for PD0 and PD1 and, in full
service, without the key for a domain of the mask, and waits while another runs. The peak registers follow and are cleared
to the present value, each from its reset value 0 (log entry 52; R564 to R566, R572 to R577, R579). -/
def Obligations.PowerIsSupervised : Prop :=
  ∀ (s : State) (m : Master) (v : Word) (x : Half) (b : Bool),
    let shows (i src : Nat) (on : Bool) (t : State) : Prop := rdb t Reg.PWR_STAT i = on ∧
      (Heard s src → srcActive t src = on)
    let word (op : Nat) : Word := (v &&& 0xFFFFFFFC#32) ||| BitVec.ofNat 32 (0x100 + op)
    let d := fld v 16 4
    let row : Nat → Instr := fun op => if op = 1 then .pdOff m v else if op = 2 then .pdOn m v else .pdCycle m v
    let result (r : Nat) (t : State) : Prop := rdf t Reg.PWR_PD_STAT 24 4 = r
    (warning s = false → after .brownOutWarningRise s (fun t => shows 4 0x130 true t ∧ rdb t Reg.PWR_STAT 0 = true ∧
      rdf t Reg.PWR_BOW_CNT 0 16 = min (rdf s Reg.PWR_BOW_CNT 0 16 + 1) 0xFFFF ∧ t.pwr.bowTick = s.tick)) ∧
    (warning s = true → after .brownOutWarningRise s (fun t => t = s) ∧
      after .brownOutWarningFall s (fun t => shows 4 0x130 false t ∧
        rdf t Reg.PWR_BOW_CNT 16 16 = max (min ((s.tick - s.pwr.bowTick) / 1000) 0xFFFF) (rdf s Reg.PWR_BOW_CNT 16 16) ∧
        (ledgerUp s = true → s.isl.nextCmd = none → t.isl.queue = []) ∧
        ∀ k : Master, t.hst.fuseJob[k] = s.hst.fuseJob[k].map (fun j => { j with begun := true }))) ∧
    (warning s = false → after .brownOutWarningFall s (fun t => t = s)) ∧
    after .refclkLost s (shows 6 0x133 true) ∧ after .refclkRestored s (shows 6 0x133 false) ∧
    after .sdrefLost s (fun t => shows 7 0x134 true t ∧ ∀ p : Fin 4, portState t p = 0) ∧
    after .sdrefRestored s (shows 7 0x134 false) ∧ after (.tempHi b) s (shows 5 0x132 b) ∧
    after (.vsafeOkChange b) s (fun t => rdb t Reg.PWR_STAT 8 = b ∧ t.isl = s.isl) ∧
    after (.pwrTempUpdate x) s (fun t => rdf t Reg.PWR_TEMP 0 16 = x.toNat ∧ rdf t Reg.PWR_TEMP 16 16 =
      if signedOf 16 (rdf s Reg.PWR_TEMP 16 16) < x.toInt then x.toNat else rdf s Reg.PWR_TEMP 16 16) ∧
    after (.pwrVcoreSample x) s (fun t => rdf t Reg.PWR_VCORE 0 16 = x.toNat ∧
      rdf t Reg.PWR_VCORE 16 16 = min x.toNat (rdf s Reg.PWR_VCORE 16 16)) ∧
    (Writable s m Reg.PWR_CTL →
      after (.tmaxClr m v) s (fun t => Answered t m ∧ rdf t Reg.PWR_TEMP 16 16 = rdf s Reg.PWR_TEMP 0 16) ∧
      after (.vminClr m v) s (fun t => Answered t m ∧ rdf t Reg.PWR_VCORE 16 16 = rdf s Reg.PWR_VCORE 0 16)) ∧
    (∀ op, 1 ≤ op → op ≤ 3 → Writable s m Reg.PWR_PD_REQ →
      (s.pwr.op.isSome = true → after (row op) s (fun t => Answered t m ∧ t.pwr.next = some (word op) ∧
        rd t Reg.PWR_PD_STAT = rd s Reg.PWR_PD_STAT)) ∧
      (s.pwr.op = none → d < 2 → after (row op) s (fun t => Answered t m ∧ result 3 t ∧ t.pwr = s.pwr)) ∧
      (s.pwr.op = none → 2 ≤ d → pdKeyed s d op = true → fld v 24 8 ≠ 0x5A → after (row op) s (fun t => Answered t m ∧
        result 2 t ∧ t.pwr = s.pwr)) ∧
      (s.pwr.op = none → 2 ≤ d → (pdKeyed s d op = false ∨ fld v 24 8 = 0x5A) → after (row op) s (fun t => Answered t m ∧
        t.pwr.op = some (d, op) ∧ rdb t Reg.PWR_PD_STAT 31 = true ∧
        pdOn t d = (decide (op = 2) && pdOn s d) ∧
        (op ≠ 2 → pdOn s d = true → ∀ e : Fin 16, pdOfEngine e = d → eng t e = QEng.reset)))) ∧
    (s.pwr.op = none → after .pdSwitchDone s (fun t => t = s)) ∧
    (∀ k op, s.pwr.op = some (k, op) → s.pwr.next = none → after .pdSwitchDone s (fun t => t.pwr.op = none ∧ result 1 t ∧
      rdb t Reg.PWR_PD_STAT 31 = false ∧ (op ≠ 1 → k < 24 →
        (∀ e ∈ s.stw.route, e.1 ≠ Reg.PWR_PD_STAT) → pdOn t k = true)))
end

