-- ==== Sys2Proof/Laws/SparseMap.lean ====
section
/-! SUPPORT. Laws of the sparse maps that hold registers and memories: reads after writes, and the canonical form. -/

namespace Sys2Proof.Machine

variable {α : Type}

theorem smGet_filter_ne (d : Nat → α) (m : List (Nat × α)) {k j : Nat} (h : j ≠ k) :
    smGet d (m.filter (fun e => e.1 ≠ k)) j = smGet d m j := by
  induction m with
  | nil => rfl
  | cons e r ih =>
    obtain ⟨i, v⟩ := e
    by_cases hi : i = k
    · subst hi
      simp only [ne_eq, not_true_eq_false, decide_false, Bool.false_eq_true, not_false_eq_true, List.filter_cons_of_neg,
        smGet, ih, if_neg (Ne.symm h)]
    · simp only [ne_eq, hi, not_false_eq_true, decide_true, List.filter_cons_of_pos, smGet, ih]

theorem smGet_of_absent (d : Nat → α) (m : List (Nat × α)) {k : Nat} (h : ∀ e ∈ m, e.1 ≠ k) : smGet d m k = d k := by
  induction m with
  | nil => rfl
  | cons e r ih =>
    obtain ⟨i, v⟩ := e
    have hi : i ≠ k := h (i, v) (by simp)
    simp only [smGet, if_neg hi]
    exact ih (fun e he => h e (by simp [he]))

theorem smGet_smInsert_self (d : Nat → α) (m : List (Nat × α)) {k : Nat} (v : α) (h : ∀ e ∈ m, e.1 ≠ k) :
    smGet d (smInsert m k v) k = v := by
  induction m with
  | nil => simp [smInsert, smGet]
  | cons e r ih =>
    obtain ⟨i, u⟩ := e
    have hi : i ≠ k := h (i, u) (by simp)
    simp only [smInsert]
    split
    · simp [smGet]
    · simp only [smGet, if_neg hi]
      exact ih (fun e he => h e (by simp [he]))

theorem smGet_smInsert_ne (d : Nat → α) (m : List (Nat × α)) {k j : Nat} (v : α) (h : j ≠ k) :
    smGet d (smInsert m k v) j = smGet d m j := by
  induction m with
  | nil => simp [smInsert, smGet, Ne.symm h]
  | cons e r ih =>
    obtain ⟨i, u⟩ := e
    simp only [smInsert]
    split
    · simp [smGet, Ne.symm h]
    · simp only [smGet, ih]

theorem mem_filter_ne (m : List (Nat × α)) (k : Nat) : ∀ e ∈ m.filter (fun e => e.1 ≠ k), e.1 ≠ k := by
  intro e he
  simpa using (List.mem_filter.1 he).2

/-- A read after a write at the same key gives the value written. -/
@[simp] theorem smGet_smSet_self [DecidableEq α] (d : Nat → α) (m : List (Nat × α)) (k : Nat) (v : α) :
    smGet d (smSet d m k v) k = v := by
  unfold smSet
  split
  · rename_i h
    rw [smGet_of_absent d _ (mem_filter_ne m k), h]
  · exact smGet_smInsert_self d _ v (mem_filter_ne m k)

/-- A write leaves every other key alone. -/
theorem smGet_smSet_ne [DecidableEq α] (d : Nat → α) (m : List (Nat × α)) {k j : Nat} (v : α) (h : j ≠ k) :
    smGet d (smSet d m k v) j = smGet d m j := by
  unfold smSet
  split
  · exact smGet_filter_ne d m h
  · rw [smGet_smInsert_ne d _ v h, smGet_filter_ne d m h]

/-- A read after a write, by cases on the key. -/
theorem smGet_smSet [DecidableEq α] (d : Nat → α) (m : List (Nat × α)) (k j : Nat) (v : α) :
    smGet d (smSet d m k v) j = if j = k then v else smGet d m j := by
  split
  · rename_i h; subst h; simp
  · rename_i h; exact smGet_smSet_ne d m v h

theorem smWfFrom_mono [DecidableEq α] (d : Nat → α) {a b : Nat} (m : List (Nat × α)) (h : a ≤ b)
    (hm : smWfFrom d b m = true) : smWfFrom d a m = true := by
  cases m with
  | nil => rfl
  | cons e r =>
    obtain ⟨i, v⟩ := e
    simp only [smWfFrom, Bool.and_eq_true, decide_eq_true_eq] at hm ⊢
    exact ⟨⟨by omega, hm.1.2⟩, hm.2⟩

theorem smWfFrom_filter [DecidableEq α] (d : Nat → α) (p : Nat × α → Bool) :
    ∀ (m : List (Nat × α)) (a : Nat), smWfFrom d a m = true → smWfFrom d a (m.filter p) = true
  | [], _, _ => rfl
  | (i, v) :: r, a, h => by
    simp only [smWfFrom, Bool.and_eq_true, decide_eq_true_eq] at h
    have ih := smWfFrom_filter d p r (i + 1) h.2
    by_cases hp : p (i, v) = true
    · simp only [hp, List.filter_cons_of_pos, smWfFrom, Bool.and_eq_true, decide_eq_true_eq]
      exact ⟨h.1, ih⟩
    · simp only [hp, Bool.false_eq_true, not_false_eq_true, List.filter_cons_of_neg]
      exact smWfFrom_mono d _ (by omega) ih

theorem smWfFrom_smInsert [DecidableEq α] (d : Nat → α) (k : Nat) (v : α) (hv : v ≠ d k) :
    ∀ (m : List (Nat × α)) (a : Nat), a ≤ k → (∀ e ∈ m, e.1 ≠ k) → smWfFrom d a m = true →
      smWfFrom d a (smInsert m k v) = true
  | [], a, ha, _, _ => by simp [smInsert, smWfFrom, ha, hv]
  | (i, u) :: r, a, ha, hk, h => by
    simp only [smWfFrom, Bool.and_eq_true, decide_eq_true_eq] at h
    have hi : i ≠ k := hk (i, u) (by simp)
    simp only [smInsert]
    split
    · simp only [smWfFrom, Bool.and_eq_true, decide_eq_true_eq]
      exact ⟨⟨ha, hv⟩, ⟨by omega, h.1.2⟩, h.2⟩
    · simp only [smWfFrom, Bool.and_eq_true, decide_eq_true_eq]
      exact ⟨h.1, smWfFrom_smInsert d k v hv r (i + 1) (by omega) (fun e he => hk e (by simp [he])) h.2⟩

/-- A write keeps the canonical form. -/
theorem smWf_smSet [DecidableEq α] (d : Nat → α) (m : List (Nat × α)) (k : Nat) (v : α) (h : smWf d m = true) :
    smWf d (smSet d m k v) = true := by
  unfold smSet smWf
  have hf := smWfFrom_filter d (fun e => decide (e.1 ≠ k)) m 0 h
  split
  · exact hf
  · rename_i hv
    exact smWfFrom_smInsert d k v hv _ 0 (by omega) (mem_filter_ne m k) hf

/-- Taking keys back to their unlisted value keeps the canonical form. -/
theorem smWf_smDrop [DecidableEq α] (d : Nat → α) (m : List (Nat × α)) (p : Nat → Bool) (h : smWf d m = true) :
    smWf d (smDrop p m) = true := smWfFrom_filter d _ m 0 h

/-- What a key holds once some keys are taken back to their unlisted value. -/
theorem smGet_smDrop (d : Nat → α) (p : Nat → Bool) (m : List (Nat × α)) (k : Nat) :
    smGet d (smDrop p m) k = if p k then d k else smGet d m k := by
  induction m with
  | nil => simp [smDrop, smGet]
  | cons e r ih =>
    obtain ⟨i, v⟩ := e
    simp only [smDrop] at ih ⊢
    by_cases hp : p i = true
    · simp only [hp, Bool.not_true, Bool.false_eq_true, not_false_eq_true, List.filter_cons_of_neg, ih, smGet]
      by_cases hk : i = k
      · subst hk; simp [hp]
      · simp [hk]
    · simp only [hp, Bool.not_false, List.filter_cons_of_pos, smGet, ih]
      by_cases hk : i = k
      · subst hk; simp [hp]
      · simp [hk]

/-! ## Memories -/

/-- A read after a write of one byte. -/
theorem Memory.read_write (m : Memory) (a b : Nat) (v : Byte) :
    (m.write a v).read b = if b = a then v else m.read b := smGet_smSet memUnlisted m a b v

theorem Memory.wf_write (m : Memory) (a : Nat) (v : Byte) (h : m.wf = true) : (m.write a v).wf = true :=
  smWf_smSet memUnlisted m a v h

theorem Memory.wf_writeBytes (l : List Byte) : ∀ (m : Memory) (a : Nat), m.wf = true → (m.writeBytes a l).wf = true := by
  induction l with
  | nil => exact fun _ _ h => h
  | cons b r ih => exact fun m a h => ih _ _ (m.wf_write a b h)

theorem Memory.wf_write16 (m : Memory) (a : Nat) (v : Half) (h : m.wf = true) : (m.write16 a v).wf = true :=
  Memory.wf_write _ _ _ (Memory.wf_write _ _ _ h)

theorem Memory.wf_write32 (m : Memory) (a : Nat) (v : Word) (h : m.wf = true) : (m.write32 a v).wf = true :=
  Memory.wf_write _ _ _ (Memory.wf_write _ _ _ (Memory.wf_write _ _ _ (Memory.wf_write _ _ _ h)))

theorem Memory.wf_writeWords (l : List Word) : ∀ (m : Memory) (a : Nat), m.wf = true → (m.writeWords a l).wf = true := by
  induction l with
  | nil => exact fun _ _ h => h
  | cons b r ih => exact fun m a h => ih _ _ (m.wf_write32 a b h)

/-- A store of 32 bits leaves every other byte alone. -/
theorem Memory.read_write32_ne (m : Memory) (a b : Nat) (v : Word) (h : b < a ∨ a + 4 ≤ b) :
    (m.write32 a v).read b = m.read b := by
  simp only [Memory.write32, Memory.read_write]
  rw [if_neg (by omega), if_neg (by omega), if_neg (by omega), if_neg (by omega)]

/-- A store of 16 bits leaves every other byte alone. -/
theorem Memory.read_write16_ne (m : Memory) (a b : Nat) (v : Half) (h : b < a ∨ a + 2 ≤ b) :
    (m.write16 a v).read b = m.read b := by
  simp only [Memory.write16, Memory.read_write]
  rw [if_neg (by omega), if_neg (by omega)]

end Sys2Proof.Machine
end

