-- ==== Sys2Proof/Laws/Reported.lean ====
section
/-! SUPPORT. What a report to Margin, an event, a trace entry or a host interrupt leaves as it was (`Reported`). -/

namespace Sys2Proof.Machine

/-- The registers that reports write: SC_IRQ_PEND, the task flags and states, Folio, Margin and the host interface. -/
def reportReg (a : Nat) : Bool :=
  decide (0x02000000 ≤ a ∧ a < 0x03000000) || decide (0x04001000 ≤ a ∧ a < 0x04004000)
    || decide (0x04500000 ≤ a ∧ a < 0x04600000) || decide (0x04700000 ≤ a ∧ a < 0x04900000)

theorem reportReg_iff (a : Nat) : reportReg a = true ↔ (0x02000000 ≤ a ∧ a < 0x03000000) ∨
    (0x04001000 ≤ a ∧ a < 0x04004000) ∨ (0x04500000 ≤ a ∧ a < 0x04600000) ∨ (0x04700000 ≤ a ∧ a < 0x04900000) := by
  simp only [reportReg, Bool.or_eq_true, decide_eq_true_eq, or_assoc]

theorem reportReg_irqPend (c : Fin 16) : reportReg (Reg.SC_IRQ_PEND c) = true := by
  rw [reportReg_iff]; unfold Reg.SC_IRQ_PEND; omega

theorem reportReg_tflag (t : Fin 512) : reportReg (Reg.INK_TFLAG t) = true := by
  rw [reportReg_iff]; unfold Reg.INK_TFLAG; omega

theorem reportReg_tstat (t : Fin 512) : reportReg (Reg.INK_TSTAT t) = true := by
  rw [reportReg_iff]; unfold Reg.INK_TSTAT; omega

theorem reportReg_cls {c : Nat} (h : c < 64) : reportReg (Reg.MGN_CLS c) = true := by
  rw [reportReg_iff]; unfold Reg.MGN_CLS; omega

theorem reportReg_pend {c : Nat} (h : c < 64) : reportReg (Reg.MGN_PEND (c / 32)) = true := by
  rw [reportReg_iff]; unfold Reg.MGN_PEND; omega

theorem reportReg_act {n : Nat} (h : n < 512) : reportReg (Reg.MGN_ACT (n / 32)) = true := by
  rw [reportReg_iff]; unfold Reg.MGN_ACT; omega

theorem reportReg_src {n : Nat} (h : n < 512) : reportReg (Reg.MGN_SRC (n / 32)) = true := by
  rw [reportReg_iff]; unfold Reg.MGN_SRC; omega

/-- `t` differs from `s` by reports alone: in the registers of `reportReg`, the trace memory and the ledger, and the
records of Inkwell's tasks, Margin, Folio and the host interrupts. -/
structure Reported (s t : State) : Prop where
  pending : t.pending = s.pending
  tick : t.tick = s.tick
  base : t.base = s.base
  eng : t.eng = s.eng
  axcfg : t.axcfg = s.axcfg
  ax : t.ax = s.ax
  grp : t.grp = s.grp
  wave : t.wave = s.wave
  drafts : t.drafts = s.drafts
  loads : t.loads = s.loads
  pins : t.pins = s.pins
  dct : t.dct = s.dct
  lf : t.lf = s.lf
  cap : t.cap = s.cap
  tp : t.tp = s.tp
  sb : t.sb = s.sb
  pln : t.pln = s.pln
  isl : t.isl = s.isl
  pwr : t.pwr = s.pwr
  stw : t.stw = s.stw
  srcMap : t.mgn.srcMap = s.mgn.srcMap
  queue : t.hst.queue = s.hst.queue
  mb : t.hst.mb = s.hst.mb
  resp : t.hst.resp = s.hst.resp
  core : t.ink.core = s.ink.core
  lig : t.ink.lig = s.ink.lig
  mem : ∀ a, a < 0x05000000 → t.mem.read a = s.mem.read a
  wmem : ∀ a, a < 0x304000 → t.wmem.read a = s.wmem.read a
  regs : ∀ a, reportReg a = false → rd t a = rd s a

theorem Reported.refl (s : State) : Reported s s := by
  constructor <;> first | rfl | exact fun _ _ => rfl

theorem rd_wr (s : State) (a b : Nat) (v : Word) : rd (wr s a v) b = if b = a then v else rd s b :=
  smGet_smSet resetOf s.regs a b v

@[simp] theorem rd_wr_self (s : State) (a : Nat) (v : Word) : rd (wr s a v) a = v := by rw [rd_wr, if_pos rfl]

theorem rd_wr_ne (s : State) {a b : Nat} (v : Word) (h : b ≠ a) : rd (wr s a v) b = rd s b := by rw [rd_wr, if_neg h]

theorem Reported.wr {s t : State} (h : Reported s t) {a : Nat} {v : Word} (ha : reportReg a = true) : Reported s (wr t a v) :=
  { h with
    regs := fun b hb => by
      rw [rd_wr_ne _ _ (fun e => by rw [e, ha] at hb; exact Bool.noConfusion hb)]
      exact h.regs b hb }

theorem wrf_reported {s t : State} {a lo n v : Nat} (h : Reported s t) (ha : reportReg a = true) :
    Reported s (wrf t a lo n v) := h.wr ha

theorem wrb_reported {s t : State} {a i : Nat} {b : Bool} (h : Reported s t) (ha : reportReg a = true) :
    Reported s (wrb t a i b) := h.wr ha

theorem wr_reported {s t : State} {a : Nat} {v : Word} (h : Reported s t) (ha : reportReg a = true) :
    Reported s (wr t a v) := h.wr ha

theorem incf_reported {s t : State} {a lo n : Nat} (h : Reported s t) (ha : reportReg a = true) :
    Reported s (incf t a lo n) := h.wr ha

theorem orReg_reported {s t : State} {a : Nat} {m : Word} (h : Reported s t) (ha : reportReg a = true) :
    Reported s (orReg t a m) := h.wr ha

theorem forAll_reported {α : Type} {l : List α} {s t : State} {f : State → α → State} (h : Reported s t)
    (hf : ∀ u x, Reported s u → Reported s (f u x)) : Reported s (forAll l t f) := by
  unfold forAll
  induction l generalizing t with
  | nil => exact h
  | cons x r ih => exact ih (hf t x h)

theorem when_reported {c : Bool} {s t : State} {f : State → State} (h : Reported s t)
    (hf : ∀ u, Reported s u → Reported s (f u)) : Reported s (when c t f) := by
  unfold when
  split
  · exact hf t h
  · exact h

theorem ite_reported {c : Prop} [Decidable c] {s t u : State} (ht : Reported s t) (hu : Reported s u) :
    Reported s (if c then t else u) := by
  split
  · exact ht
  · exact hu

theorem updFol_reported {s t : State} {f : Fol → Fol} (h : Reported s t) : Reported s (updFol t f) := { h with }

theorem updMgn_reported {s t : State} {f : Mgn → Mgn} (h : Reported s t) (hf : ∀ m, (f m).srcMap = m.srcMap) :
    Reported s (updMgn t f) := { h with srcMap := (hf t.mgn).trans h.srcMap }

theorem updHst_reported {s t : State} {f : Hst → Hst} (h : Reported s t) (hq : ∀ x, (f x).queue = x.queue)
    (hm : ∀ x, (f x).mb = x.mb) (hr : ∀ x, (f x).resp = x.resp) : Reported s (updHst t f) :=
  { h with queue := (hq t.hst).trans h.queue, mb := (hm t.hst).trans h.mb, resp := (hr t.hst).trans h.resp }

theorem updTask_reported {s t : State} {n : Fin 512} {f : Task → Task} (h : Reported s t) : Reported s (updTask t n f) :=
  { h with }

theorem updReady_reported {s t : State} {n : Fin 4} {f : List (Fin 512) → List (Fin 512)} (h : Reported s t) :
    Reported s (updReady t n f) := { h with }

theorem takeNat_reported {s t : State} (h : Reported s t) : Reported s (takeNat t).2 := { h with }

theorem read_writeWords_ne (l : List Word) : ∀ (m : Memory) (a b : Nat), b < a → (m.writeWords a l).read b = m.read b := by
  induction l with
  | nil => exact fun _ _ _ _ => rfl
  | cons w r ih =>
    intro m a b h
    refine (ih (m.write32 a w) (a + 4) b (by omega)).trans (Memory.read_write32_ne m a b w (Or.inl h))

theorem mwrWords_reported {s t : State} {a : Nat} {l : List Word} (h : Reported s t) (ha : 0x05000000 ≤ a) :
    Reported s (mwrWords t a l) :=
  { h with
    mem := fun b hb => (read_writeWords_ne l t.mem a b (Nat.lt_of_lt_of_le hb ha)).trans (h.mem b hb) }

theorem mwr32_reported {s t : State} {a : Nat} {v : Word} (h : Reported s t) (ha : 0x05000000 ≤ a) :
    Reported s (mwr32 t a v) :=
  { h with
    mem := fun b hb => (Memory.read_write32_ne t.mem a b v (Or.inl (Nat.lt_of_lt_of_le hb ha))).trans (h.mem b hb) }

end Sys2Proof.Machine
end

