-- ==== Sys2Proof/Laws/Reports.lean ====
section
/-! SUPPORT. Each report of the block changes what a report may change alone (`Reported`). -/

namespace Sys2Proof.Machine
theorem scIrq_reported {c : Fin 16} {b : Nat} {s t : State} (h : Reported s t) : Reported s (scIrq t c b) :=
  when_reported h (fun _ hu => wrb_reported hu (reportReg_irqPend c))

theorem scIrqAll_reported {b : Nat} {s t : State} (h : Reported s t) : Reported s (scIrqAll t b) := by
  unfold scIrqAll
  repeat' first
    | with_reducible assumption
    | intro _
    | with_reducible apply forAll_reported
    | with_reducible apply scIrq_reported
    | with_reducible apply ite_reported
    | rfl
    | split
    | dsimp only
  all_goals (first | exact fun _ => rfl | rfl | (simp [reportReg, folBase, Reg.SC_IRQ_PEND, Reg.INK_TFLAG, Reg.INK_TSTAT, Reg.MGN_CLS, Reg.MGN_PEND, Reg.MGN_ACT, Reg.MGN_SRC]; omega))

theorem setTaskState_reported {tk : Fin 512} {v : Nat} {s t : State} (h : Reported s t) :
    Reported s (setTaskState t tk v) := wrf_reported h (reportReg_tstat tk)

theorem nextReady_reported {n : Nat} {s t : State} (h : Reported s t) :
    Reported s { t with ink := { t.ink with nextReady := n } } := { h with }

theorem newInstant_reported {s t : State} (h : Reported s t) : Reported s (newInstant t) := nextReady_reported h

theorem enterReady_reported {tk : Fin 512} {s t : State} (h : Reported s t) : Reported s (enterReady t tk) :=
  updReady_reported h

theorem leaveReady_reported {tk : Fin 512} {s t : State} (h : Reported s t) : Reported s (leaveReady t tk) :=
  forAll_reported h (fun _ _ hu => updReady_reported hu)

theorem testReady_reported {tk : Fin 512} {s t : State} (h : Reported s t) : Reported s (testReady t tk) := by
  unfold testReady
  exact ite_reported (enterReady_reported (updTask_reported (setTaskState_reported h))) h

theorem toWaiting_reported {tk : Fin 512} {s t : State} (h : Reported s t) : Reported s (toWaiting t tk) := by
  unfold toWaiting
  repeat' first
    | with_reducible assumption
    | intro _
    | with_reducible apply testReady_reported
    | with_reducible apply setTaskState_reported
    | with_reducible apply ite_reported
    | rfl
    | split
    | dsimp only
  all_goals (first | exact fun _ => rfl | rfl | (simp [reportReg, folBase, Reg.SC_IRQ_PEND, Reg.INK_TFLAG, Reg.INK_TSTAT, Reg.MGN_CLS, Reg.MGN_PEND, Reg.MGN_ACT, Reg.MGN_SRC]; omega))

theorem orFlags_reported {tk : Fin 512} {m : Word} {s t : State} (h : Reported s t) : Reported s (orFlags t tk m) :=
  when_reported h (fun _ hu => orReg_reported hu (reportReg_tflag tk))

theorem setFlags_reported {tk : Fin 512} {m : Word} {s t : State} (h : Reported s t) : Reported s (setFlags t tk m) :=
  testReady_reported (orFlags_reported (newInstant_reported h))

theorem raiseEvent_reported {code : Nat} {s t : State} (h : Reported s t) : Reported s (raiseEvent t code) := by
  unfold raiseEvent
  repeat' first
    | with_reducible assumption
    | intro _
    | with_reducible apply forAll_reported
    | with_reducible apply testReady_reported
    | with_reducible apply orFlags_reported
    | with_reducible apply ite_reported
    | rfl
    | split
    | dsimp only
  all_goals (first | exact fun _ => rfl | rfl | (simp [reportReg, folBase, Reg.SC_IRQ_PEND, Reg.INK_TFLAG, Reg.INK_TSTAT, Reg.MGN_CLS, Reg.MGN_PEND, Reg.MGN_ACT, Reg.MGN_SRC]; omega))

theorem setFolState_reported {v : Nat} {s t : State} (h : Reported s t) : Reported s (setFolState t v) :=
  wrf_reported h rfl

theorem folStore_reported {kind ch : Nat} {tag : Word × Word × Word} {v : Word} {s t : State} (h : Reported s t) :
    Reported s (folStore t kind ch tag v) := by
  unfold folStore
  refine when_reported (when_reported (updFol_reported (wrf_reported (mwrWords_reported h ?_) rfl))
    (fun _ hu => wrf_reported hu rfl)) (fun _ hu => setFolState_reported hu)
  unfold folBase
  omega

theorem folSnapshot_reported {tm : BTime} {val : State → Fin 32 → Word} {s t : State} (h : Reported s t) :
    Reported s (folSnapshot t tm val) :=
  forAll_reported h (fun _ _ hu => updFol_reported (folStore_reported hu))

theorem folStoreNext_reported {s t : State} (h : Reported s t) : Reported s (folStoreNext t) := by
  unfold folStoreNext
  split
  · exact h
  · exact ite_reported (folStore_reported (updFol_reported h))
      (updFol_reported (wrf_reported (folStore_reported (folStore_reported (updFol_reported h))) rfl))

theorem folFlush_reported {s t : State} (h : Reported s t) : Reported s (folFlush t) :=
  forAll_reported h (fun _ _ hu => folStoreNext_reported hu)

theorem folTrigger_reported {tm : BTime} {s t : State} (h : Reported s t) : Reported s (folTrigger t tm) := by
  unfold folTrigger
  repeat' first
    | with_reducible assumption
    | intro _
    | with_reducible apply wrf_reported
    | with_reducible apply folStore_reported
    | with_reducible apply incf_reported
    | with_reducible apply setFolState_reported
    | with_reducible apply folSnapshot_reported
    | with_reducible apply folFlush_reported
    | with_reducible apply updFol_reported
    | with_reducible apply takeNat_reported
    | with_reducible apply ite_reported
    | rfl
    | split
    | dsimp only
  all_goals (first | exact fun _ => rfl | rfl | (simp [reportReg, folBase, Reg.SC_IRQ_PEND, Reg.INK_TFLAG, Reg.INK_TSTAT, Reg.MGN_CLS, Reg.MGN_PEND, Reg.MGN_ACT, Reg.MGN_SRC]; omega))

theorem folEvent_reported {src : Nat} {hit : State → Bool} {s t : State} (h : Reported s t) : Reported s (folEvent t src hit) := by
  unfold folEvent
  repeat' first
    | with_reducible assumption
    | intro _
    | with_reducible apply when_reported
    | with_reducible apply folTrigger_reported
    | with_reducible apply ite_reported
    | rfl
    | split
    | dsimp only
  all_goals (first | exact fun _ => rfl | rfl | (simp [reportReg, folBase, Reg.SC_IRQ_PEND, Reg.INK_TFLAG, Reg.INK_TSTAT, Reg.MGN_CLS, Reg.MGN_PEND, Reg.MGN_ACT, Reg.MGN_SRC]; omega))

theorem folChange_reported {c : Fin 32} {tm : BTime} {s t : State} (h : Reported s t) : Reported s (folChange t c tm) := by
  unfold folChange
  repeat' first
    | with_reducible assumption
    | intro _
    | with_reducible apply updFol_reported
    | with_reducible apply ite_reported
    | rfl
    | split
    | dsimp only
  all_goals (first | exact fun _ => rfl | rfl | (simp [reportReg, folBase, Reg.SC_IRQ_PEND, Reg.INK_TFLAG, Reg.INK_TSTAT, Reg.MGN_CLS, Reg.MGN_PEND, Reg.MGN_ACT, Reg.MGN_SRC]; omega))

theorem folSample_reported {src : Nat} {tm : BTime} {s t : State} (h : Reported s t) : Reported s (folSample t src tm) := by
  unfold folSample
  exact ite_reported (when_reported (when_reported h (fun _ hu => folTrigger_reported hu))
    (fun _ hu => forAll_reported hu (fun _ _ hv => folChange_reported hv))) h

theorem sendVector_reported {v : Fin 64} {s t : State} (h : Reported s t) : Reported s (sendVector t v) := by
  unfold sendVector
  repeat' first
    | with_reducible assumption
    | intro _
    | with_reducible apply updHst_reported
    | with_reducible apply ite_reported
    | rfl
    | split
    | dsimp only
  all_goals (first | exact fun _ => rfl | rfl | (simp [reportReg, folBase, Reg.SC_IRQ_PEND, Reg.INK_TFLAG, Reg.INK_TSTAT, Reg.MGN_CLS, Reg.MGN_PEND, Reg.MGN_ACT, Reg.MGN_SRC]; omega))

theorem hstIrq_reported {b : Nat} {s t : State} (h : Reported s t) : Reported s (hstIrq t b) := by
  unfold hstIrq
  repeat' first
    | with_reducible assumption
    | intro _
    | with_reducible apply sendVector_reported
    | with_reducible apply when_reported
    | with_reducible apply wrb_reported
    | with_reducible apply ite_reported
    | rfl
    | split
    | dsimp only
  all_goals (first | exact fun _ => rfl | rfl | (simp [reportReg, folBase, Reg.SC_IRQ_PEND, Reg.INK_TFLAG, Reg.INK_TSTAT, Reg.MGN_CLS, Reg.MGN_PEND, Reg.MGN_ACT, Reg.MGN_SRC]; omega))

theorem setClsState_reported {c v : Nat} {s t : State} (h : Reported s t) (hc : c < 64) :
    Reported s (setClsState t c v) := wrb_reported (wrf_reported h (reportReg_cls hc)) (reportReg_pend hc)

theorem histStore_reported {e : HistEntry} {s t : State} (h : Reported s t) : Reported s (histStore t e) := by
  unfold histStore
  exact updMgn_reported (t := { t with wmem := t.wmem.writeWords (0x304000 + (e.getD 6 0).toNat % 512 * 32) e }) { h with
    wmem := fun b hb => (read_writeWords_ne e t.wmem _ b (Nat.lt_of_lt_of_le hb (Nat.le_add_right _ _))).trans (h.wmem b hb) }
    (fun _ => rfl)

theorem history_reported {kind cls src : Nat} {detail : Word} {level : Nat} {s t : State} (h : Reported s t) :
    Reported s (history t kind cls src detail level) := by
  unfold history
  dsimp only
  repeat' split
  · exact wrb_reported h rfl
  · exact wrf_reported (updMgn_reported h (fun _ => rfl)) rfl
  · exact histStore_reported (updMgn_reported h (fun _ => rfl))

theorem historyDrain_reported {s t : State} (h : Reported s t) : Reported s (historyDrain t) :=
  wrf_reported (updMgn_reported (forAll_reported h (fun _ _ hu => histStore_reported hu)) (fun _ => rfl)) rfl

theorem stwRaise_reported {s t : State} (h : Reported s t) : Reported s (stwRaise t) := by
  unfold stwRaise
  exact updMgn_reported h (fun _ => rfl)

theorem showLevels_reported {s t : State} (h : Reported s t) : Reported s (showLevels t) := by
  unfold showLevels
  exact stwRaise_reported (wrb_reported (wr_reported (wr_reported h rfl) rfl) rfl)

theorem mgnRecord_reported {n : Nat} {s t : State} (h : Reported s t) (hn : n < 512) : Reported s (mgnRecord t n) := by
  unfold mgnRecord
  exact updMgn_reported (wrb_reported h (reportReg_src hn)) (fun _ => rfl)

theorem mgnFirst_reported {n : Nat} {s t : State} (h : Reported s t) : Reported s (mgnFirst t n) :=
  ite_reported h (updMgn_reported (wr_reported h rfl) (fun _ => rfl))

theorem enterGrace_reported {c : Fin 64} {s t : State} (h : Reported s t) : Reported s (enterGrace t c) := by
  unfold enterGrace
  exact hstIrq_reported (folEvent_reported (when_reported (raiseEvent_reported (incf_reported
    (setClsState_reported h c.isLt) (reportReg_cls c.isLt))) (fun _ hu => scIrq_reported hu)))

theorem raiseClass_reported {n : Nat} {s t : State} (h : Reported s t) : Reported s (raiseClass t n) := by
  unfold raiseClass
  dsimp only
  split
  · rename_i hk
    refine ite_reported ?_ h
    have h1 : Reported s (updMgn (wrf t (Reg.MGN_CLS (classOf t n)) 16 9 n) (fun m => { m with
        scope := m.scope.upd ⟨classOf t n, hk⟩ (· ||| (ownGroups t n ||| rd t (Reg.MGN_CLSCFG1 (classOf t n)))) })) :=
      updMgn_reported (wrf_reported h (reportReg_cls hk)) (fun _ => rfl)
    exact ite_reported (enterGrace_reported h1) (showLevels_reported h1)
  · exact h

theorem mgnSampled_reported  {s t : State} (h : Reported s t) : Reported s (mgnSampled t) := by
  unfold mgnSampled
  repeat' first
    | with_reducible assumption
    | intro _
    | with_reducible apply folSample_reported
    | with_reducible apply ite_reported
    | rfl
    | split
    | dsimp only
  all_goals (first | exact fun _ => rfl | rfl | (simp [reportReg, folBase, Reg.SC_IRQ_PEND, Reg.INK_TFLAG, Reg.INK_TSTAT, Reg.MGN_CLS, Reg.MGN_PEND, Reg.MGN_ACT, Reg.MGN_SRC]; omega))

theorem mgnAssert_reported {n : Nat} {detail : Word} {s t : State} (h : Reported s t) (hn : n < 512) :
    Reported s (mgnAssert t n detail) := by
  unfold mgnAssert
  exact raiseClass_reported (when_reported (when_reported (mgnFirst_reported (mgnRecord_reported h hn))
    (fun _ hu => history_reported hu)) (fun _ hu => stwRaise_reported (updMgn_reported hu (fun _ => rfl))))

theorem railPulse_reported {n : Nat} {f : State → State} {s t : State} (h : Reported s t) (hn : n < 512)
    (hf : ∀ u, Reported s u → Reported s (f u)) : Reported s (railPulse t n f) := by
  unfold railPulse
  exact ite_reported (hf t h) (mgnSampled_reported (wrb_reported (hf _ (mgnSampled_reported
    (wrb_reported h (reportReg_act hn)))) (reportReg_act hn)))

theorem assertEvent_reported {n : Nat} {detail : Word} {s t : State} (h : Reported s t) (hn : n < 512) :
    Reported s (assertEvent t n detail) := railPulse_reported h hn (fun _ hu => mgnAssert_reported hu hn)

theorem assertCond_reported {n : Nat} {detail : Word} {s t : State} (h : Reported s t) (hn : n < 512) :
    Reported s (assertCond t n detail) :=
  ite_reported h (mgnAssert_reported (mgnSampled_reported (wrb_reported h (reportReg_act hn))) hn)

theorem pairIdle_reported {n : Nat} {s t : State} (h : Reported s t) (hn : n < 512) : Reported s (pairIdle t n) :=
  when_reported h (fun _ hu => mgnSampled_reported (wrb_reported hu (reportReg_act hn)))

theorem setUnder_reported {n : Nat} {b : Bool} {s t : State} (h : Reported s t) : Reported s (setUnder t n b) :=
  updMgn_reported h (fun _ => rfl)

/-- A source that is not reserved has a number below 512. -/
theorem srcKind_bound {n : Nat} (h : srcKind n ≠ .reserved) : n < 512 := by
  refine Nat.lt_of_not_le (fun hn => h ?_)
  have low : ∀ k, k ≤ 0x110 → ¬ n < k := fun k hk => by omega
  have top : n ≠ 0x1FF := by omega
  have past : srcKinds110.length ≤ n - 0x110 := by
    have : srcKinds110.length = 37 := rfl
    omega
  simp [srcKind, low, top, List.getElem?_eq_none past]

theorem pairReport_reported {n : Nat} {detail : Word} {s t : State} (h : Reported s t) :
    Reported s (pairReport t n detail) := by
  unfold pairReport
  split
  · exact h
  all_goals
    rename_i hk
    have hn : n < 512 := srcKind_bound (by rw [hk]; exact SrcKind.noConfusion)
  · exact railPulse_reported h hn (fun _ hu => mgnRecord_reported hu hn)
  · exact assertEvent_reported h hn
  · exact assertCond_reported h hn

theorem assertSource_reported {n : Nat} {detail : Word} {s t : State} (h : Reported s t) :
    Reported s (assertSource t n detail) := by
  unfold assertSource
  exact ite_reported h (ite_reported (pairReport_reported h) (when_reported h (fun _ hu => setUnder_reported hu)))

theorem endCond_reported {n : Nat} {s t : State} (h : Reported s t) (hn : n < 512) : Reported s (endCond t n) :=
  ite_reported (pairIdle_reported h hn) (setUnder_reported h)

theorem setCond_reported {n : Nat} {on : Bool} {detail : Word} {s t : State} (h : Reported s t) (hn : n < 512) :
    Reported s (setCond t n on detail) := ite_reported (assertSource_reported h) (endCond_reported h hn)

theorem wireFound_reported {p : Nat} {s t : State} (h : Reported s t) (hp : p < 512) : Reported s (wireFound t p) := by
  have own : Reported s (match srcKind p with
    | .reserved => t
    | .transient => railPulse t p (fun s => mgnRecord s p)
    | _ => if p = 0x1FF then t else railPulse t p (fun s => mgnAssert s p (BitVec.ofNat 32 p))) := by
    split
    · exact h
    · exact railPulse_reported h hp (fun _ hu => mgnRecord_reported hu hp)
    · exact ite_reported h (railPulse_reported h hp (fun _ hu => mgnAssert_reported hu hp))
  unfold wireFound
  exact history_reported (when_reported (assertEvent_reported own (by omega)) (fun _ hu => wr_reported hu rfl))

theorem wiringFault_reported {p : Nat} {s t : State} (h : Reported s t) (hp : p < 512) : Reported s (wiringFault t p) :=
  when_reported h (fun _ hu => wireFound_reported hu hp)

theorem forcePair_reported {n mode : Nat} {s t : State} (h : Reported s t) (hn : n < 512) :
    Reported s (forcePair t n mode) := by
  have kept : Reported s (if forcedMode t n = 0 then setUnder t n (srcActive t n) else t) :=
    ite_reported (setUnder_reported h) h
  have h1 : Reported s (updMgn (if forcedMode t n = 0 then setUnder t n (srcActive t n) else t) (fun m => { m with
      forced := smSet (fun _ => 0) m.forced n mode })) := updMgn_reported kept (fun _ => rfl)
  exact ite_reported h1 (ite_reported (pairReport_reported h1) (wireFound_reported h1 hn))

theorem releasePair_reported {n : Nat} {s t : State} (h : Reported s t) (hn : n < 512) : Reported s (releasePair t n) := by
  have h1 : Reported s (setUnder (updMgn t (fun m => { m with forced := smSet (fun _ => 0) m.forced n 0 })) n false) :=
    setUnder_reported (updMgn_reported h (fun _ => rfl))
  exact ite_reported (pairReport_reported h1) (pairIdle_reported h1 hn)

theorem takeLevel_reported {c : Fin 64} {st lvl : Nat} {s t : State} (h : Reported s t) :
    Reported s (takeLevel t c st lvl) := by
  unfold takeLevel
  exact hstIrq_reported (when_reported (showLevels_reported (wrf_reported (setClsState_reported h c.isLt)
    (reportReg_cls c.isLt))) (fun _ hu => history_reported hu))

theorem graceEnd_reported {c : Fin 64} {s t : State} (h : Reported s t) : Reported s (graceEnd t c) := by
  unfold graceEnd
  repeat' first
    | with_reducible assumption
    | intro _
    | with_reducible apply takeLevel_reported
    | with_reducible apply ite_reported
    | rfl
    | split
    | dsimp only
  all_goals (first | exact fun _ => rfl | rfl | (simp [reportReg, folBase, Reg.SC_IRQ_PEND, Reg.INK_TFLAG, Reg.INK_TSTAT, Reg.MGN_CLS, Reg.MGN_PEND, Reg.MGN_ACT, Reg.MGN_SRC]; omega))

theorem escalate_reported {c : Fin 64} {s t : State} (h : Reported s t) : Reported s (escalate t c) := by
  unfold escalate
  repeat' first
    | with_reducible assumption
    | intro _
    | with_reducible apply takeLevel_reported
    | with_reducible apply ite_reported
    | rfl
    | split
    | dsimp only
  all_goals (first | exact fun _ => rfl | rfl | (simp [reportReg, folBase, Reg.SC_IRQ_PEND, Reg.INK_TFLAG, Reg.INK_TSTAT, Reg.MGN_CLS, Reg.MGN_PEND, Reg.MGN_ACT, Reg.MGN_SRC]; omega))

theorem ackClass_reported {c : Fin 64} {s t : State} (h : Reported s t) : Reported s (ackClass t c) :=
  ite_reported (setClsState_reported h c.isLt) (ite_reported (setClsState_reported h c.isLt) h)

theorem clearClass_reported {c : Fin 64} {s t : State} (h : Reported s t) : Reported s (clearClass t c) := by
  unfold clearClass
  refine ite_reported h (ite_reported (wrb_reported h rfl) ?_)
  exact history_reported (showLevels_reported (updMgn_reported (wrf_reported (setClsState_reported h c.isLt)
    (reportReg_cls c.isLt)) (fun _ => rfl)))

theorem accRecord_reported {m : Master} {write : Bool} {reason : Nat} {a : Nat} {s t : State} (h : Reported s t) : Reported s (accRecord t m write reason a) := by
  unfold accRecord
  repeat' first
    | with_reducible assumption
    | intro _
    | with_reducible apply hstIrq_reported
    | with_reducible apply wr_reported
    | with_reducible apply ite_reported
    | rfl
    | split
    | dsimp only
  all_goals (first | exact fun _ => rfl | rfl | (simp [reportReg, folBase, Reg.SC_IRQ_PEND, Reg.INK_TFLAG, Reg.INK_TSTAT, Reg.MGN_CLS, Reg.MGN_PEND, Reg.MGN_ACT, Reg.MGN_SRC]; omega))

end Sys2Proof.Machine
end

