-- ==== Sys2Proof/Laws/State.lean ====
section
/-! SUPPORT. Each field of the state after each named update, so that no proof unfolds one. -/

namespace Sys2Proof.Machine

/-! ### wr -/

@[simp] theorem wr_pending (s : State) (a : Nat) (v : Word) : (wr s a v).pending = s.pending := (rfl)
@[simp] theorem wr_tick (s : State) (a : Nat) (v : Word) : (wr s a v).tick = s.tick := (rfl)
@[simp] theorem wr_free (s : State) (a : Nat) (v : Word) : (wr s a v).free = s.free := (rfl)
@[simp] theorem wr_regs (s : State) (a : Nat) (v : Word) : (wr s a v).regs = smSet resetOf s.regs a v := (rfl)
@[simp] theorem wr_mem (s : State) (a : Nat) (v : Word) : (wr s a v).mem = s.mem := (rfl)
@[simp] theorem wr_wmem (s : State) (a : Nat) (v : Word) : (wr s a v).wmem = s.wmem := (rfl)
@[simp] theorem wr_base (s : State) (a : Nat) (v : Word) : (wr s a v).base = s.base := (rfl)
@[simp] theorem wr_eng (s : State) (a : Nat) (v : Word) : (wr s a v).eng = s.eng := (rfl)
@[simp] theorem wr_ink (s : State) (a : Nat) (v : Word) : (wr s a v).ink = s.ink := (rfl)
@[simp] theorem wr_axcfg (s : State) (a : Nat) (v : Word) : (wr s a v).axcfg = s.axcfg := (rfl)
@[simp] theorem wr_ax (s : State) (a : Nat) (v : Word) : (wr s a v).ax = s.ax := (rfl)
@[simp] theorem wr_grp (s : State) (a : Nat) (v : Word) : (wr s a v).grp = s.grp := (rfl)
@[simp] theorem wr_wave (s : State) (a : Nat) (v : Word) : (wr s a v).wave = s.wave := (rfl)
@[simp] theorem wr_drafts (s : State) (a : Nat) (v : Word) : (wr s a v).drafts = s.drafts := (rfl)
@[simp] theorem wr_loads (s : State) (a : Nat) (v : Word) : (wr s a v).loads = s.loads := (rfl)
@[simp] theorem wr_pins (s : State) (a : Nat) (v : Word) : (wr s a v).pins = s.pins := (rfl)
@[simp] theorem wr_dct (s : State) (a : Nat) (v : Word) : (wr s a v).dct = s.dct := (rfl)
@[simp] theorem wr_lf (s : State) (a : Nat) (v : Word) : (wr s a v).lf = s.lf := (rfl)
@[simp] theorem wr_cap (s : State) (a : Nat) (v : Word) : (wr s a v).cap = s.cap := (rfl)
@[simp] theorem wr_tp (s : State) (a : Nat) (v : Word) : (wr s a v).tp = s.tp := (rfl)
@[simp] theorem wr_sb (s : State) (a : Nat) (v : Word) : (wr s a v).sb = s.sb := (rfl)
@[simp] theorem wr_pln (s : State) (a : Nat) (v : Word) : (wr s a v).pln = s.pln := (rfl)
@[simp] theorem wr_isl (s : State) (a : Nat) (v : Word) : (wr s a v).isl = s.isl := (rfl)
@[simp] theorem wr_pwr (s : State) (a : Nat) (v : Word) : (wr s a v).pwr = s.pwr := (rfl)
@[simp] theorem wr_stw (s : State) (a : Nat) (v : Word) : (wr s a v).stw = s.stw := (rfl)
@[simp] theorem wr_mgn (s : State) (a : Nat) (v : Word) : (wr s a v).mgn = s.mgn := (rfl)
@[simp] theorem wr_fol (s : State) (a : Nat) (v : Word) : (wr s a v).fol = s.fol := (rfl)
@[simp] theorem wr_hst (s : State) (a : Nat) (v : Word) : (wr s a v).hst = s.hst := (rfl)

/-! ### dropRegs -/

@[simp] theorem dropRegs_pending (s : State) (p : Nat → Bool) : (dropRegs s p).pending = s.pending := (rfl)
@[simp] theorem dropRegs_tick (s : State) (p : Nat → Bool) : (dropRegs s p).tick = s.tick := (rfl)
@[simp] theorem dropRegs_free (s : State) (p : Nat → Bool) : (dropRegs s p).free = s.free := (rfl)
@[simp] theorem dropRegs_regs (s : State) (p : Nat → Bool) : (dropRegs s p).regs = smDrop p s.regs := (rfl)
@[simp] theorem dropRegs_mem (s : State) (p : Nat → Bool) : (dropRegs s p).mem = s.mem := (rfl)
@[simp] theorem dropRegs_wmem (s : State) (p : Nat → Bool) : (dropRegs s p).wmem = s.wmem := (rfl)
@[simp] theorem dropRegs_base (s : State) (p : Nat → Bool) : (dropRegs s p).base = s.base := (rfl)
@[simp] theorem dropRegs_eng (s : State) (p : Nat → Bool) : (dropRegs s p).eng = s.eng := (rfl)
@[simp] theorem dropRegs_ink (s : State) (p : Nat → Bool) : (dropRegs s p).ink = s.ink := (rfl)
@[simp] theorem dropRegs_axcfg (s : State) (p : Nat → Bool) : (dropRegs s p).axcfg = s.axcfg := (rfl)
@[simp] theorem dropRegs_ax (s : State) (p : Nat → Bool) : (dropRegs s p).ax = s.ax := (rfl)
@[simp] theorem dropRegs_grp (s : State) (p : Nat → Bool) : (dropRegs s p).grp = s.grp := (rfl)
@[simp] theorem dropRegs_wave (s : State) (p : Nat → Bool) : (dropRegs s p).wave = s.wave := (rfl)
@[simp] theorem dropRegs_drafts (s : State) (p : Nat → Bool) : (dropRegs s p).drafts = s.drafts := (rfl)
@[simp] theorem dropRegs_loads (s : State) (p : Nat → Bool) : (dropRegs s p).loads = s.loads := (rfl)
@[simp] theorem dropRegs_pins (s : State) (p : Nat → Bool) : (dropRegs s p).pins = s.pins := (rfl)
@[simp] theorem dropRegs_dct (s : State) (p : Nat → Bool) : (dropRegs s p).dct = s.dct := (rfl)
@[simp] theorem dropRegs_lf (s : State) (p : Nat → Bool) : (dropRegs s p).lf = s.lf := (rfl)
@[simp] theorem dropRegs_cap (s : State) (p : Nat → Bool) : (dropRegs s p).cap = s.cap := (rfl)
@[simp] theorem dropRegs_tp (s : State) (p : Nat → Bool) : (dropRegs s p).tp = s.tp := (rfl)
@[simp] theorem dropRegs_sb (s : State) (p : Nat → Bool) : (dropRegs s p).sb = s.sb := (rfl)
@[simp] theorem dropRegs_pln (s : State) (p : Nat → Bool) : (dropRegs s p).pln = s.pln := (rfl)
@[simp] theorem dropRegs_isl (s : State) (p : Nat → Bool) : (dropRegs s p).isl = s.isl := (rfl)
@[simp] theorem dropRegs_pwr (s : State) (p : Nat → Bool) : (dropRegs s p).pwr = s.pwr := (rfl)
@[simp] theorem dropRegs_stw (s : State) (p : Nat → Bool) : (dropRegs s p).stw = s.stw := (rfl)
@[simp] theorem dropRegs_mgn (s : State) (p : Nat → Bool) : (dropRegs s p).mgn = s.mgn := (rfl)
@[simp] theorem dropRegs_fol (s : State) (p : Nat → Bool) : (dropRegs s p).fol = s.fol := (rfl)
@[simp] theorem dropRegs_hst (s : State) (p : Nat → Bool) : (dropRegs s p).hst = s.hst := (rfl)

/-! ### mwr32 -/

@[simp] theorem mwr32_pending (s : State) (a : Nat) (v : Word) : (mwr32 s a v).pending = s.pending := (rfl)
@[simp] theorem mwr32_tick (s : State) (a : Nat) (v : Word) : (mwr32 s a v).tick = s.tick := (rfl)
@[simp] theorem mwr32_free (s : State) (a : Nat) (v : Word) : (mwr32 s a v).free = s.free := (rfl)
@[simp] theorem mwr32_regs (s : State) (a : Nat) (v : Word) : (mwr32 s a v).regs = s.regs := (rfl)
@[simp] theorem mwr32_mem (s : State) (a : Nat) (v : Word) : (mwr32 s a v).mem = s.mem.write32 a v := (rfl)
@[simp] theorem mwr32_wmem (s : State) (a : Nat) (v : Word) : (mwr32 s a v).wmem = s.wmem := (rfl)
@[simp] theorem mwr32_base (s : State) (a : Nat) (v : Word) : (mwr32 s a v).base = s.base := (rfl)
@[simp] theorem mwr32_eng (s : State) (a : Nat) (v : Word) : (mwr32 s a v).eng = s.eng := (rfl)
@[simp] theorem mwr32_ink (s : State) (a : Nat) (v : Word) : (mwr32 s a v).ink = s.ink := (rfl)
@[simp] theorem mwr32_axcfg (s : State) (a : Nat) (v : Word) : (mwr32 s a v).axcfg = s.axcfg := (rfl)
@[simp] theorem mwr32_ax (s : State) (a : Nat) (v : Word) : (mwr32 s a v).ax = s.ax := (rfl)
@[simp] theorem mwr32_grp (s : State) (a : Nat) (v : Word) : (mwr32 s a v).grp = s.grp := (rfl)
@[simp] theorem mwr32_wave (s : State) (a : Nat) (v : Word) : (mwr32 s a v).wave = s.wave := (rfl)
@[simp] theorem mwr32_drafts (s : State) (a : Nat) (v : Word) : (mwr32 s a v).drafts = s.drafts := (rfl)
@[simp] theorem mwr32_loads (s : State) (a : Nat) (v : Word) : (mwr32 s a v).loads = s.loads := (rfl)
@[simp] theorem mwr32_pins (s : State) (a : Nat) (v : Word) : (mwr32 s a v).pins = s.pins := (rfl)
@[simp] theorem mwr32_dct (s : State) (a : Nat) (v : Word) : (mwr32 s a v).dct = s.dct := (rfl)
@[simp] theorem mwr32_lf (s : State) (a : Nat) (v : Word) : (mwr32 s a v).lf = s.lf := (rfl)
@[simp] theorem mwr32_cap (s : State) (a : Nat) (v : Word) : (mwr32 s a v).cap = s.cap := (rfl)
@[simp] theorem mwr32_tp (s : State) (a : Nat) (v : Word) : (mwr32 s a v).tp = s.tp := (rfl)
@[simp] theorem mwr32_sb (s : State) (a : Nat) (v : Word) : (mwr32 s a v).sb = s.sb := (rfl)
@[simp] theorem mwr32_pln (s : State) (a : Nat) (v : Word) : (mwr32 s a v).pln = s.pln := (rfl)
@[simp] theorem mwr32_isl (s : State) (a : Nat) (v : Word) : (mwr32 s a v).isl = s.isl := (rfl)
@[simp] theorem mwr32_pwr (s : State) (a : Nat) (v : Word) : (mwr32 s a v).pwr = s.pwr := (rfl)
@[simp] theorem mwr32_stw (s : State) (a : Nat) (v : Word) : (mwr32 s a v).stw = s.stw := (rfl)
@[simp] theorem mwr32_mgn (s : State) (a : Nat) (v : Word) : (mwr32 s a v).mgn = s.mgn := (rfl)
@[simp] theorem mwr32_fol (s : State) (a : Nat) (v : Word) : (mwr32 s a v).fol = s.fol := (rfl)
@[simp] theorem mwr32_hst (s : State) (a : Nat) (v : Word) : (mwr32 s a v).hst = s.hst := (rfl)

/-! ### mwr16 -/

@[simp] theorem mwr16_pending (s : State) (a : Nat) (v : Half) : (mwr16 s a v).pending = s.pending := (rfl)
@[simp] theorem mwr16_tick (s : State) (a : Nat) (v : Half) : (mwr16 s a v).tick = s.tick := (rfl)
@[simp] theorem mwr16_free (s : State) (a : Nat) (v : Half) : (mwr16 s a v).free = s.free := (rfl)
@[simp] theorem mwr16_regs (s : State) (a : Nat) (v : Half) : (mwr16 s a v).regs = s.regs := (rfl)
@[simp] theorem mwr16_mem (s : State) (a : Nat) (v : Half) : (mwr16 s a v).mem = s.mem.write16 a v := (rfl)
@[simp] theorem mwr16_wmem (s : State) (a : Nat) (v : Half) : (mwr16 s a v).wmem = s.wmem := (rfl)
@[simp] theorem mwr16_base (s : State) (a : Nat) (v : Half) : (mwr16 s a v).base = s.base := (rfl)
@[simp] theorem mwr16_eng (s : State) (a : Nat) (v : Half) : (mwr16 s a v).eng = s.eng := (rfl)
@[simp] theorem mwr16_ink (s : State) (a : Nat) (v : Half) : (mwr16 s a v).ink = s.ink := (rfl)
@[simp] theorem mwr16_axcfg (s : State) (a : Nat) (v : Half) : (mwr16 s a v).axcfg = s.axcfg := (rfl)
@[simp] theorem mwr16_ax (s : State) (a : Nat) (v : Half) : (mwr16 s a v).ax = s.ax := (rfl)
@[simp] theorem mwr16_grp (s : State) (a : Nat) (v : Half) : (mwr16 s a v).grp = s.grp := (rfl)
@[simp] theorem mwr16_wave (s : State) (a : Nat) (v : Half) : (mwr16 s a v).wave = s.wave := (rfl)
@[simp] theorem mwr16_drafts (s : State) (a : Nat) (v : Half) : (mwr16 s a v).drafts = s.drafts := (rfl)
@[simp] theorem mwr16_loads (s : State) (a : Nat) (v : Half) : (mwr16 s a v).loads = s.loads := (rfl)
@[simp] theorem mwr16_pins (s : State) (a : Nat) (v : Half) : (mwr16 s a v).pins = s.pins := (rfl)
@[simp] theorem mwr16_dct (s : State) (a : Nat) (v : Half) : (mwr16 s a v).dct = s.dct := (rfl)
@[simp] theorem mwr16_lf (s : State) (a : Nat) (v : Half) : (mwr16 s a v).lf = s.lf := (rfl)
@[simp] theorem mwr16_cap (s : State) (a : Nat) (v : Half) : (mwr16 s a v).cap = s.cap := (rfl)
@[simp] theorem mwr16_tp (s : State) (a : Nat) (v : Half) : (mwr16 s a v).tp = s.tp := (rfl)
@[simp] theorem mwr16_sb (s : State) (a : Nat) (v : Half) : (mwr16 s a v).sb = s.sb := (rfl)
@[simp] theorem mwr16_pln (s : State) (a : Nat) (v : Half) : (mwr16 s a v).pln = s.pln := (rfl)
@[simp] theorem mwr16_isl (s : State) (a : Nat) (v : Half) : (mwr16 s a v).isl = s.isl := (rfl)
@[simp] theorem mwr16_pwr (s : State) (a : Nat) (v : Half) : (mwr16 s a v).pwr = s.pwr := (rfl)
@[simp] theorem mwr16_stw (s : State) (a : Nat) (v : Half) : (mwr16 s a v).stw = s.stw := (rfl)
@[simp] theorem mwr16_mgn (s : State) (a : Nat) (v : Half) : (mwr16 s a v).mgn = s.mgn := (rfl)
@[simp] theorem mwr16_fol (s : State) (a : Nat) (v : Half) : (mwr16 s a v).fol = s.fol := (rfl)
@[simp] theorem mwr16_hst (s : State) (a : Nat) (v : Half) : (mwr16 s a v).hst = s.hst := (rfl)

/-! ### mwr8 -/

@[simp] theorem mwr8_pending (s : State) (a : Nat) (v : Byte) : (mwr8 s a v).pending = s.pending := (rfl)
@[simp] theorem mwr8_tick (s : State) (a : Nat) (v : Byte) : (mwr8 s a v).tick = s.tick := (rfl)
@[simp] theorem mwr8_free (s : State) (a : Nat) (v : Byte) : (mwr8 s a v).free = s.free := (rfl)
@[simp] theorem mwr8_regs (s : State) (a : Nat) (v : Byte) : (mwr8 s a v).regs = s.regs := (rfl)
@[simp] theorem mwr8_mem (s : State) (a : Nat) (v : Byte) : (mwr8 s a v).mem = s.mem.write a v := (rfl)
@[simp] theorem mwr8_wmem (s : State) (a : Nat) (v : Byte) : (mwr8 s a v).wmem = s.wmem := (rfl)
@[simp] theorem mwr8_base (s : State) (a : Nat) (v : Byte) : (mwr8 s a v).base = s.base := (rfl)
@[simp] theorem mwr8_eng (s : State) (a : Nat) (v : Byte) : (mwr8 s a v).eng = s.eng := (rfl)
@[simp] theorem mwr8_ink (s : State) (a : Nat) (v : Byte) : (mwr8 s a v).ink = s.ink := (rfl)
@[simp] theorem mwr8_axcfg (s : State) (a : Nat) (v : Byte) : (mwr8 s a v).axcfg = s.axcfg := (rfl)
@[simp] theorem mwr8_ax (s : State) (a : Nat) (v : Byte) : (mwr8 s a v).ax = s.ax := (rfl)
@[simp] theorem mwr8_grp (s : State) (a : Nat) (v : Byte) : (mwr8 s a v).grp = s.grp := (rfl)
@[simp] theorem mwr8_wave (s : State) (a : Nat) (v : Byte) : (mwr8 s a v).wave = s.wave := (rfl)
@[simp] theorem mwr8_drafts (s : State) (a : Nat) (v : Byte) : (mwr8 s a v).drafts = s.drafts := (rfl)
@[simp] theorem mwr8_loads (s : State) (a : Nat) (v : Byte) : (mwr8 s a v).loads = s.loads := (rfl)
@[simp] theorem mwr8_pins (s : State) (a : Nat) (v : Byte) : (mwr8 s a v).pins = s.pins := (rfl)
@[simp] theorem mwr8_dct (s : State) (a : Nat) (v : Byte) : (mwr8 s a v).dct = s.dct := (rfl)
@[simp] theorem mwr8_lf (s : State) (a : Nat) (v : Byte) : (mwr8 s a v).lf = s.lf := (rfl)
@[simp] theorem mwr8_cap (s : State) (a : Nat) (v : Byte) : (mwr8 s a v).cap = s.cap := (rfl)
@[simp] theorem mwr8_tp (s : State) (a : Nat) (v : Byte) : (mwr8 s a v).tp = s.tp := (rfl)
@[simp] theorem mwr8_sb (s : State) (a : Nat) (v : Byte) : (mwr8 s a v).sb = s.sb := (rfl)
@[simp] theorem mwr8_pln (s : State) (a : Nat) (v : Byte) : (mwr8 s a v).pln = s.pln := (rfl)
@[simp] theorem mwr8_isl (s : State) (a : Nat) (v : Byte) : (mwr8 s a v).isl = s.isl := (rfl)
@[simp] theorem mwr8_pwr (s : State) (a : Nat) (v : Byte) : (mwr8 s a v).pwr = s.pwr := (rfl)
@[simp] theorem mwr8_stw (s : State) (a : Nat) (v : Byte) : (mwr8 s a v).stw = s.stw := (rfl)
@[simp] theorem mwr8_mgn (s : State) (a : Nat) (v : Byte) : (mwr8 s a v).mgn = s.mgn := (rfl)
@[simp] theorem mwr8_fol (s : State) (a : Nat) (v : Byte) : (mwr8 s a v).fol = s.fol := (rfl)
@[simp] theorem mwr8_hst (s : State) (a : Nat) (v : Byte) : (mwr8 s a v).hst = s.hst := (rfl)

/-! ### mwrWords -/

@[simp] theorem mwrWords_pending (s : State) (a : Nat) (l : List Word) : (mwrWords s a l).pending = s.pending := (rfl)
@[simp] theorem mwrWords_tick (s : State) (a : Nat) (l : List Word) : (mwrWords s a l).tick = s.tick := (rfl)
@[simp] theorem mwrWords_free (s : State) (a : Nat) (l : List Word) : (mwrWords s a l).free = s.free := (rfl)
@[simp] theorem mwrWords_regs (s : State) (a : Nat) (l : List Word) : (mwrWords s a l).regs = s.regs := (rfl)
@[simp] theorem mwrWords_mem (s : State) (a : Nat) (l : List Word) : (mwrWords s a l).mem = s.mem.writeWords a l := (rfl)
@[simp] theorem mwrWords_wmem (s : State) (a : Nat) (l : List Word) : (mwrWords s a l).wmem = s.wmem := (rfl)
@[simp] theorem mwrWords_base (s : State) (a : Nat) (l : List Word) : (mwrWords s a l).base = s.base := (rfl)
@[simp] theorem mwrWords_eng (s : State) (a : Nat) (l : List Word) : (mwrWords s a l).eng = s.eng := (rfl)
@[simp] theorem mwrWords_ink (s : State) (a : Nat) (l : List Word) : (mwrWords s a l).ink = s.ink := (rfl)
@[simp] theorem mwrWords_axcfg (s : State) (a : Nat) (l : List Word) : (mwrWords s a l).axcfg = s.axcfg := (rfl)
@[simp] theorem mwrWords_ax (s : State) (a : Nat) (l : List Word) : (mwrWords s a l).ax = s.ax := (rfl)
@[simp] theorem mwrWords_grp (s : State) (a : Nat) (l : List Word) : (mwrWords s a l).grp = s.grp := (rfl)
@[simp] theorem mwrWords_wave (s : State) (a : Nat) (l : List Word) : (mwrWords s a l).wave = s.wave := (rfl)
@[simp] theorem mwrWords_drafts (s : State) (a : Nat) (l : List Word) : (mwrWords s a l).drafts = s.drafts := (rfl)
@[simp] theorem mwrWords_loads (s : State) (a : Nat) (l : List Word) : (mwrWords s a l).loads = s.loads := (rfl)
@[simp] theorem mwrWords_pins (s : State) (a : Nat) (l : List Word) : (mwrWords s a l).pins = s.pins := (rfl)
@[simp] theorem mwrWords_dct (s : State) (a : Nat) (l : List Word) : (mwrWords s a l).dct = s.dct := (rfl)
@[simp] theorem mwrWords_lf (s : State) (a : Nat) (l : List Word) : (mwrWords s a l).lf = s.lf := (rfl)
@[simp] theorem mwrWords_cap (s : State) (a : Nat) (l : List Word) : (mwrWords s a l).cap = s.cap := (rfl)
@[simp] theorem mwrWords_tp (s : State) (a : Nat) (l : List Word) : (mwrWords s a l).tp = s.tp := (rfl)
@[simp] theorem mwrWords_sb (s : State) (a : Nat) (l : List Word) : (mwrWords s a l).sb = s.sb := (rfl)
@[simp] theorem mwrWords_pln (s : State) (a : Nat) (l : List Word) : (mwrWords s a l).pln = s.pln := (rfl)
@[simp] theorem mwrWords_isl (s : State) (a : Nat) (l : List Word) : (mwrWords s a l).isl = s.isl := (rfl)
@[simp] theorem mwrWords_pwr (s : State) (a : Nat) (l : List Word) : (mwrWords s a l).pwr = s.pwr := (rfl)
@[simp] theorem mwrWords_stw (s : State) (a : Nat) (l : List Word) : (mwrWords s a l).stw = s.stw := (rfl)
@[simp] theorem mwrWords_mgn (s : State) (a : Nat) (l : List Word) : (mwrWords s a l).mgn = s.mgn := (rfl)
@[simp] theorem mwrWords_fol (s : State) (a : Nat) (l : List Word) : (mwrWords s a l).fol = s.fol := (rfl)
@[simp] theorem mwrWords_hst (s : State) (a : Nat) (l : List Word) : (mwrWords s a l).hst = s.hst := (rfl)

/-! ### updEng -/

@[simp] theorem updEng_pending (s : State) (e : Fin 16) (f : QEng → QEng) : (updEng s e f).pending = s.pending := (rfl)
@[simp] theorem updEng_tick (s : State) (e : Fin 16) (f : QEng → QEng) : (updEng s e f).tick = s.tick := (rfl)
@[simp] theorem updEng_free (s : State) (e : Fin 16) (f : QEng → QEng) : (updEng s e f).free = s.free := (rfl)
@[simp] theorem updEng_regs (s : State) (e : Fin 16) (f : QEng → QEng) : (updEng s e f).regs = s.regs := (rfl)
@[simp] theorem updEng_mem (s : State) (e : Fin 16) (f : QEng → QEng) : (updEng s e f).mem = s.mem := (rfl)
@[simp] theorem updEng_wmem (s : State) (e : Fin 16) (f : QEng → QEng) : (updEng s e f).wmem = s.wmem := (rfl)
@[simp] theorem updEng_base (s : State) (e : Fin 16) (f : QEng → QEng) : (updEng s e f).base = s.base := (rfl)
@[simp] theorem updEng_eng (s : State) (e : Fin 16) (f : QEng → QEng) : (updEng s e f).eng = s.eng.upd e f := (rfl)
@[simp] theorem updEng_ink (s : State) (e : Fin 16) (f : QEng → QEng) : (updEng s e f).ink = s.ink := (rfl)
@[simp] theorem updEng_axcfg (s : State) (e : Fin 16) (f : QEng → QEng) : (updEng s e f).axcfg = s.axcfg := (rfl)
@[simp] theorem updEng_ax (s : State) (e : Fin 16) (f : QEng → QEng) : (updEng s e f).ax = s.ax := (rfl)
@[simp] theorem updEng_grp (s : State) (e : Fin 16) (f : QEng → QEng) : (updEng s e f).grp = s.grp := (rfl)
@[simp] theorem updEng_wave (s : State) (e : Fin 16) (f : QEng → QEng) : (updEng s e f).wave = s.wave := (rfl)
@[simp] theorem updEng_drafts (s : State) (e : Fin 16) (f : QEng → QEng) : (updEng s e f).drafts = s.drafts := (rfl)
@[simp] theorem updEng_loads (s : State) (e : Fin 16) (f : QEng → QEng) : (updEng s e f).loads = s.loads := (rfl)
@[simp] theorem updEng_pins (s : State) (e : Fin 16) (f : QEng → QEng) : (updEng s e f).pins = s.pins := (rfl)
@[simp] theorem updEng_dct (s : State) (e : Fin 16) (f : QEng → QEng) : (updEng s e f).dct = s.dct := (rfl)
@[simp] theorem updEng_lf (s : State) (e : Fin 16) (f : QEng → QEng) : (updEng s e f).lf = s.lf := (rfl)
@[simp] theorem updEng_cap (s : State) (e : Fin 16) (f : QEng → QEng) : (updEng s e f).cap = s.cap := (rfl)
@[simp] theorem updEng_tp (s : State) (e : Fin 16) (f : QEng → QEng) : (updEng s e f).tp = s.tp := (rfl)
@[simp] theorem updEng_sb (s : State) (e : Fin 16) (f : QEng → QEng) : (updEng s e f).sb = s.sb := (rfl)
@[simp] theorem updEng_pln (s : State) (e : Fin 16) (f : QEng → QEng) : (updEng s e f).pln = s.pln := (rfl)
@[simp] theorem updEng_isl (s : State) (e : Fin 16) (f : QEng → QEng) : (updEng s e f).isl = s.isl := (rfl)
@[simp] theorem updEng_pwr (s : State) (e : Fin 16) (f : QEng → QEng) : (updEng s e f).pwr = s.pwr := (rfl)
@[simp] theorem updEng_stw (s : State) (e : Fin 16) (f : QEng → QEng) : (updEng s e f).stw = s.stw := (rfl)
@[simp] theorem updEng_mgn (s : State) (e : Fin 16) (f : QEng → QEng) : (updEng s e f).mgn = s.mgn := (rfl)
@[simp] theorem updEng_fol (s : State) (e : Fin 16) (f : QEng → QEng) : (updEng s e f).fol = s.fol := (rfl)
@[simp] theorem updEng_hst (s : State) (e : Fin 16) (f : QEng → QEng) : (updEng s e f).hst = s.hst := (rfl)

/-! ### updTask -/

@[simp] theorem updTask_pending (s : State) (t : Fin 512) (f : Task → Task) : (updTask s t f).pending = s.pending := (rfl)
@[simp] theorem updTask_tick (s : State) (t : Fin 512) (f : Task → Task) : (updTask s t f).tick = s.tick := (rfl)
@[simp] theorem updTask_free (s : State) (t : Fin 512) (f : Task → Task) : (updTask s t f).free = s.free := (rfl)
@[simp] theorem updTask_regs (s : State) (t : Fin 512) (f : Task → Task) : (updTask s t f).regs = s.regs := (rfl)
@[simp] theorem updTask_mem (s : State) (t : Fin 512) (f : Task → Task) : (updTask s t f).mem = s.mem := (rfl)
@[simp] theorem updTask_wmem (s : State) (t : Fin 512) (f : Task → Task) : (updTask s t f).wmem = s.wmem := (rfl)
@[simp] theorem updTask_base (s : State) (t : Fin 512) (f : Task → Task) : (updTask s t f).base = s.base := (rfl)
@[simp] theorem updTask_eng (s : State) (t : Fin 512) (f : Task → Task) : (updTask s t f).eng = s.eng := (rfl)
@[simp] theorem updTask_ink (s : State) (t : Fin 512) (f : Task → Task) : (updTask s t f).ink = { s.ink with task := s.ink.task.upd t f } := (rfl)
@[simp] theorem updTask_axcfg (s : State) (t : Fin 512) (f : Task → Task) : (updTask s t f).axcfg = s.axcfg := (rfl)
@[simp] theorem updTask_ax (s : State) (t : Fin 512) (f : Task → Task) : (updTask s t f).ax = s.ax := (rfl)
@[simp] theorem updTask_grp (s : State) (t : Fin 512) (f : Task → Task) : (updTask s t f).grp = s.grp := (rfl)
@[simp] theorem updTask_wave (s : State) (t : Fin 512) (f : Task → Task) : (updTask s t f).wave = s.wave := (rfl)
@[simp] theorem updTask_drafts (s : State) (t : Fin 512) (f : Task → Task) : (updTask s t f).drafts = s.drafts := (rfl)
@[simp] theorem updTask_loads (s : State) (t : Fin 512) (f : Task → Task) : (updTask s t f).loads = s.loads := (rfl)
@[simp] theorem updTask_pins (s : State) (t : Fin 512) (f : Task → Task) : (updTask s t f).pins = s.pins := (rfl)
@[simp] theorem updTask_dct (s : State) (t : Fin 512) (f : Task → Task) : (updTask s t f).dct = s.dct := (rfl)
@[simp] theorem updTask_lf (s : State) (t : Fin 512) (f : Task → Task) : (updTask s t f).lf = s.lf := (rfl)
@[simp] theorem updTask_cap (s : State) (t : Fin 512) (f : Task → Task) : (updTask s t f).cap = s.cap := (rfl)
@[simp] theorem updTask_tp (s : State) (t : Fin 512) (f : Task → Task) : (updTask s t f).tp = s.tp := (rfl)
@[simp] theorem updTask_sb (s : State) (t : Fin 512) (f : Task → Task) : (updTask s t f).sb = s.sb := (rfl)
@[simp] theorem updTask_pln (s : State) (t : Fin 512) (f : Task → Task) : (updTask s t f).pln = s.pln := (rfl)
@[simp] theorem updTask_isl (s : State) (t : Fin 512) (f : Task → Task) : (updTask s t f).isl = s.isl := (rfl)
@[simp] theorem updTask_pwr (s : State) (t : Fin 512) (f : Task → Task) : (updTask s t f).pwr = s.pwr := (rfl)
@[simp] theorem updTask_stw (s : State) (t : Fin 512) (f : Task → Task) : (updTask s t f).stw = s.stw := (rfl)
@[simp] theorem updTask_mgn (s : State) (t : Fin 512) (f : Task → Task) : (updTask s t f).mgn = s.mgn := (rfl)
@[simp] theorem updTask_fol (s : State) (t : Fin 512) (f : Task → Task) : (updTask s t f).fol = s.fol := (rfl)
@[simp] theorem updTask_hst (s : State) (t : Fin 512) (f : Task → Task) : (updTask s t f).hst = s.hst := (rfl)

/-! ### updCore -/

@[simp] theorem updCore_pending (s : State) (c : Fin 16) (f : CoreSt → CoreSt) : (updCore s c f).pending = s.pending := (rfl)
@[simp] theorem updCore_tick (s : State) (c : Fin 16) (f : CoreSt → CoreSt) : (updCore s c f).tick = s.tick := (rfl)
@[simp] theorem updCore_free (s : State) (c : Fin 16) (f : CoreSt → CoreSt) : (updCore s c f).free = s.free := (rfl)
@[simp] theorem updCore_regs (s : State) (c : Fin 16) (f : CoreSt → CoreSt) : (updCore s c f).regs = s.regs := (rfl)
@[simp] theorem updCore_mem (s : State) (c : Fin 16) (f : CoreSt → CoreSt) : (updCore s c f).mem = s.mem := (rfl)
@[simp] theorem updCore_wmem (s : State) (c : Fin 16) (f : CoreSt → CoreSt) : (updCore s c f).wmem = s.wmem := (rfl)
@[simp] theorem updCore_base (s : State) (c : Fin 16) (f : CoreSt → CoreSt) : (updCore s c f).base = s.base := (rfl)
@[simp] theorem updCore_eng (s : State) (c : Fin 16) (f : CoreSt → CoreSt) : (updCore s c f).eng = s.eng := (rfl)
@[simp] theorem updCore_ink (s : State) (c : Fin 16) (f : CoreSt → CoreSt) : (updCore s c f).ink = { s.ink with core := s.ink.core.upd c f } := (rfl)
@[simp] theorem updCore_axcfg (s : State) (c : Fin 16) (f : CoreSt → CoreSt) : (updCore s c f).axcfg = s.axcfg := (rfl)
@[simp] theorem updCore_ax (s : State) (c : Fin 16) (f : CoreSt → CoreSt) : (updCore s c f).ax = s.ax := (rfl)
@[simp] theorem updCore_grp (s : State) (c : Fin 16) (f : CoreSt → CoreSt) : (updCore s c f).grp = s.grp := (rfl)
@[simp] theorem updCore_wave (s : State) (c : Fin 16) (f : CoreSt → CoreSt) : (updCore s c f).wave = s.wave := (rfl)
@[simp] theorem updCore_drafts (s : State) (c : Fin 16) (f : CoreSt → CoreSt) : (updCore s c f).drafts = s.drafts := (rfl)
@[simp] theorem updCore_loads (s : State) (c : Fin 16) (f : CoreSt → CoreSt) : (updCore s c f).loads = s.loads := (rfl)
@[simp] theorem updCore_pins (s : State) (c : Fin 16) (f : CoreSt → CoreSt) : (updCore s c f).pins = s.pins := (rfl)
@[simp] theorem updCore_dct (s : State) (c : Fin 16) (f : CoreSt → CoreSt) : (updCore s c f).dct = s.dct := (rfl)
@[simp] theorem updCore_lf (s : State) (c : Fin 16) (f : CoreSt → CoreSt) : (updCore s c f).lf = s.lf := (rfl)
@[simp] theorem updCore_cap (s : State) (c : Fin 16) (f : CoreSt → CoreSt) : (updCore s c f).cap = s.cap := (rfl)
@[simp] theorem updCore_tp (s : State) (c : Fin 16) (f : CoreSt → CoreSt) : (updCore s c f).tp = s.tp := (rfl)
@[simp] theorem updCore_sb (s : State) (c : Fin 16) (f : CoreSt → CoreSt) : (updCore s c f).sb = s.sb := (rfl)
@[simp] theorem updCore_pln (s : State) (c : Fin 16) (f : CoreSt → CoreSt) : (updCore s c f).pln = s.pln := (rfl)
@[simp] theorem updCore_isl (s : State) (c : Fin 16) (f : CoreSt → CoreSt) : (updCore s c f).isl = s.isl := (rfl)
@[simp] theorem updCore_pwr (s : State) (c : Fin 16) (f : CoreSt → CoreSt) : (updCore s c f).pwr = s.pwr := (rfl)
@[simp] theorem updCore_stw (s : State) (c : Fin 16) (f : CoreSt → CoreSt) : (updCore s c f).stw = s.stw := (rfl)
@[simp] theorem updCore_mgn (s : State) (c : Fin 16) (f : CoreSt → CoreSt) : (updCore s c f).mgn = s.mgn := (rfl)
@[simp] theorem updCore_fol (s : State) (c : Fin 16) (f : CoreSt → CoreSt) : (updCore s c f).fol = s.fol := (rfl)
@[simp] theorem updCore_hst (s : State) (c : Fin 16) (f : CoreSt → CoreSt) : (updCore s c f).hst = s.hst := (rfl)

/-! ### updHart -/

@[simp] theorem updHart_pending (s : State) (c : Fin 16) (f : Hart → Hart) : (updHart s c f).pending = s.pending := (rfl)
@[simp] theorem updHart_tick (s : State) (c : Fin 16) (f : Hart → Hart) : (updHart s c f).tick = s.tick := (rfl)
@[simp] theorem updHart_free (s : State) (c : Fin 16) (f : Hart → Hart) : (updHart s c f).free = s.free := (rfl)
@[simp] theorem updHart_regs (s : State) (c : Fin 16) (f : Hart → Hart) : (updHart s c f).regs = s.regs := (rfl)
@[simp] theorem updHart_mem (s : State) (c : Fin 16) (f : Hart → Hart) : (updHart s c f).mem = s.mem := (rfl)
@[simp] theorem updHart_wmem (s : State) (c : Fin 16) (f : Hart → Hart) : (updHart s c f).wmem = s.wmem := (rfl)
@[simp] theorem updHart_base (s : State) (c : Fin 16) (f : Hart → Hart) : (updHart s c f).base = s.base := (rfl)
@[simp] theorem updHart_eng (s : State) (c : Fin 16) (f : Hart → Hart) : (updHart s c f).eng = s.eng := (rfl)
@[simp] theorem updHart_ink (s : State) (c : Fin 16) (f : Hart → Hart) : (updHart s c f).ink = { s.ink with core := s.ink.core.upd c (fun k => { k with hart := f k.hart }) } := (rfl)
@[simp] theorem updHart_axcfg (s : State) (c : Fin 16) (f : Hart → Hart) : (updHart s c f).axcfg = s.axcfg := (rfl)
@[simp] theorem updHart_ax (s : State) (c : Fin 16) (f : Hart → Hart) : (updHart s c f).ax = s.ax := (rfl)
@[simp] theorem updHart_grp (s : State) (c : Fin 16) (f : Hart → Hart) : (updHart s c f).grp = s.grp := (rfl)
@[simp] theorem updHart_wave (s : State) (c : Fin 16) (f : Hart → Hart) : (updHart s c f).wave = s.wave := (rfl)
@[simp] theorem updHart_drafts (s : State) (c : Fin 16) (f : Hart → Hart) : (updHart s c f).drafts = s.drafts := (rfl)
@[simp] theorem updHart_loads (s : State) (c : Fin 16) (f : Hart → Hart) : (updHart s c f).loads = s.loads := (rfl)
@[simp] theorem updHart_pins (s : State) (c : Fin 16) (f : Hart → Hart) : (updHart s c f).pins = s.pins := (rfl)
@[simp] theorem updHart_dct (s : State) (c : Fin 16) (f : Hart → Hart) : (updHart s c f).dct = s.dct := (rfl)
@[simp] theorem updHart_lf (s : State) (c : Fin 16) (f : Hart → Hart) : (updHart s c f).lf = s.lf := (rfl)
@[simp] theorem updHart_cap (s : State) (c : Fin 16) (f : Hart → Hart) : (updHart s c f).cap = s.cap := (rfl)
@[simp] theorem updHart_tp (s : State) (c : Fin 16) (f : Hart → Hart) : (updHart s c f).tp = s.tp := (rfl)
@[simp] theorem updHart_sb (s : State) (c : Fin 16) (f : Hart → Hart) : (updHart s c f).sb = s.sb := (rfl)
@[simp] theorem updHart_pln (s : State) (c : Fin 16) (f : Hart → Hart) : (updHart s c f).pln = s.pln := (rfl)
@[simp] theorem updHart_isl (s : State) (c : Fin 16) (f : Hart → Hart) : (updHart s c f).isl = s.isl := (rfl)
@[simp] theorem updHart_pwr (s : State) (c : Fin 16) (f : Hart → Hart) : (updHart s c f).pwr = s.pwr := (rfl)
@[simp] theorem updHart_stw (s : State) (c : Fin 16) (f : Hart → Hart) : (updHart s c f).stw = s.stw := (rfl)
@[simp] theorem updHart_mgn (s : State) (c : Fin 16) (f : Hart → Hart) : (updHart s c f).mgn = s.mgn := (rfl)
@[simp] theorem updHart_fol (s : State) (c : Fin 16) (f : Hart → Hart) : (updHart s c f).fol = s.fol := (rfl)
@[simp] theorem updHart_hst (s : State) (c : Fin 16) (f : Hart → Hart) : (updHart s c f).hst = s.hst := (rfl)

/-! ### updReady -/

@[simp] theorem updReady_pending (s : State) (p : Fin 4) (f : List (Fin 512) → List (Fin 512)) : (updReady s p f).pending = s.pending := (rfl)
@[simp] theorem updReady_tick (s : State) (p : Fin 4) (f : List (Fin 512) → List (Fin 512)) : (updReady s p f).tick = s.tick := (rfl)
@[simp] theorem updReady_free (s : State) (p : Fin 4) (f : List (Fin 512) → List (Fin 512)) : (updReady s p f).free = s.free := (rfl)
@[simp] theorem updReady_regs (s : State) (p : Fin 4) (f : List (Fin 512) → List (Fin 512)) : (updReady s p f).regs = s.regs := (rfl)
@[simp] theorem updReady_mem (s : State) (p : Fin 4) (f : List (Fin 512) → List (Fin 512)) : (updReady s p f).mem = s.mem := (rfl)
@[simp] theorem updReady_wmem (s : State) (p : Fin 4) (f : List (Fin 512) → List (Fin 512)) : (updReady s p f).wmem = s.wmem := (rfl)
@[simp] theorem updReady_base (s : State) (p : Fin 4) (f : List (Fin 512) → List (Fin 512)) : (updReady s p f).base = s.base := (rfl)
@[simp] theorem updReady_eng (s : State) (p : Fin 4) (f : List (Fin 512) → List (Fin 512)) : (updReady s p f).eng = s.eng := (rfl)
@[simp] theorem updReady_ink (s : State) (p : Fin 4) (f : List (Fin 512) → List (Fin 512)) : (updReady s p f).ink = { s.ink with ready := s.ink.ready.upd p f } := (rfl)
@[simp] theorem updReady_axcfg (s : State) (p : Fin 4) (f : List (Fin 512) → List (Fin 512)) : (updReady s p f).axcfg = s.axcfg := (rfl)
@[simp] theorem updReady_ax (s : State) (p : Fin 4) (f : List (Fin 512) → List (Fin 512)) : (updReady s p f).ax = s.ax := (rfl)
@[simp] theorem updReady_grp (s : State) (p : Fin 4) (f : List (Fin 512) → List (Fin 512)) : (updReady s p f).grp = s.grp := (rfl)
@[simp] theorem updReady_wave (s : State) (p : Fin 4) (f : List (Fin 512) → List (Fin 512)) : (updReady s p f).wave = s.wave := (rfl)
@[simp] theorem updReady_drafts (s : State) (p : Fin 4) (f : List (Fin 512) → List (Fin 512)) : (updReady s p f).drafts = s.drafts := (rfl)
@[simp] theorem updReady_loads (s : State) (p : Fin 4) (f : List (Fin 512) → List (Fin 512)) : (updReady s p f).loads = s.loads := (rfl)
@[simp] theorem updReady_pins (s : State) (p : Fin 4) (f : List (Fin 512) → List (Fin 512)) : (updReady s p f).pins = s.pins := (rfl)
@[simp] theorem updReady_dct (s : State) (p : Fin 4) (f : List (Fin 512) → List (Fin 512)) : (updReady s p f).dct = s.dct := (rfl)
@[simp] theorem updReady_lf (s : State) (p : Fin 4) (f : List (Fin 512) → List (Fin 512)) : (updReady s p f).lf = s.lf := (rfl)
@[simp] theorem updReady_cap (s : State) (p : Fin 4) (f : List (Fin 512) → List (Fin 512)) : (updReady s p f).cap = s.cap := (rfl)
@[simp] theorem updReady_tp (s : State) (p : Fin 4) (f : List (Fin 512) → List (Fin 512)) : (updReady s p f).tp = s.tp := (rfl)
@[simp] theorem updReady_sb (s : State) (p : Fin 4) (f : List (Fin 512) → List (Fin 512)) : (updReady s p f).sb = s.sb := (rfl)
@[simp] theorem updReady_pln (s : State) (p : Fin 4) (f : List (Fin 512) → List (Fin 512)) : (updReady s p f).pln = s.pln := (rfl)
@[simp] theorem updReady_isl (s : State) (p : Fin 4) (f : List (Fin 512) → List (Fin 512)) : (updReady s p f).isl = s.isl := (rfl)
@[simp] theorem updReady_pwr (s : State) (p : Fin 4) (f : List (Fin 512) → List (Fin 512)) : (updReady s p f).pwr = s.pwr := (rfl)
@[simp] theorem updReady_stw (s : State) (p : Fin 4) (f : List (Fin 512) → List (Fin 512)) : (updReady s p f).stw = s.stw := (rfl)
@[simp] theorem updReady_mgn (s : State) (p : Fin 4) (f : List (Fin 512) → List (Fin 512)) : (updReady s p f).mgn = s.mgn := (rfl)
@[simp] theorem updReady_fol (s : State) (p : Fin 4) (f : List (Fin 512) → List (Fin 512)) : (updReady s p f).fol = s.fol := (rfl)
@[simp] theorem updReady_hst (s : State) (p : Fin 4) (f : List (Fin 512) → List (Fin 512)) : (updReady s p f).hst = s.hst := (rfl)

/-! ### updLig -/

@[simp] theorem updLig_pending (s : State) (l : Fin 64) (f : List LigEntry → List LigEntry) : (updLig s l f).pending = s.pending := (rfl)
@[simp] theorem updLig_tick (s : State) (l : Fin 64) (f : List LigEntry → List LigEntry) : (updLig s l f).tick = s.tick := (rfl)
@[simp] theorem updLig_free (s : State) (l : Fin 64) (f : List LigEntry → List LigEntry) : (updLig s l f).free = s.free := (rfl)
@[simp] theorem updLig_regs (s : State) (l : Fin 64) (f : List LigEntry → List LigEntry) : (updLig s l f).regs = s.regs := (rfl)
@[simp] theorem updLig_mem (s : State) (l : Fin 64) (f : List LigEntry → List LigEntry) : (updLig s l f).mem = s.mem := (rfl)
@[simp] theorem updLig_wmem (s : State) (l : Fin 64) (f : List LigEntry → List LigEntry) : (updLig s l f).wmem = s.wmem := (rfl)
@[simp] theorem updLig_base (s : State) (l : Fin 64) (f : List LigEntry → List LigEntry) : (updLig s l f).base = s.base := (rfl)
@[simp] theorem updLig_eng (s : State) (l : Fin 64) (f : List LigEntry → List LigEntry) : (updLig s l f).eng = s.eng := (rfl)
@[simp] theorem updLig_ink (s : State) (l : Fin 64) (f : List LigEntry → List LigEntry) : (updLig s l f).ink = { s.ink with lig := s.ink.lig.upd l f } := (rfl)
@[simp] theorem updLig_axcfg (s : State) (l : Fin 64) (f : List LigEntry → List LigEntry) : (updLig s l f).axcfg = s.axcfg := (rfl)
@[simp] theorem updLig_ax (s : State) (l : Fin 64) (f : List LigEntry → List LigEntry) : (updLig s l f).ax = s.ax := (rfl)
@[simp] theorem updLig_grp (s : State) (l : Fin 64) (f : List LigEntry → List LigEntry) : (updLig s l f).grp = s.grp := (rfl)
@[simp] theorem updLig_wave (s : State) (l : Fin 64) (f : List LigEntry → List LigEntry) : (updLig s l f).wave = s.wave := (rfl)
@[simp] theorem updLig_drafts (s : State) (l : Fin 64) (f : List LigEntry → List LigEntry) : (updLig s l f).drafts = s.drafts := (rfl)
@[simp] theorem updLig_loads (s : State) (l : Fin 64) (f : List LigEntry → List LigEntry) : (updLig s l f).loads = s.loads := (rfl)
@[simp] theorem updLig_pins (s : State) (l : Fin 64) (f : List LigEntry → List LigEntry) : (updLig s l f).pins = s.pins := (rfl)
@[simp] theorem updLig_dct (s : State) (l : Fin 64) (f : List LigEntry → List LigEntry) : (updLig s l f).dct = s.dct := (rfl)
@[simp] theorem updLig_lf (s : State) (l : Fin 64) (f : List LigEntry → List LigEntry) : (updLig s l f).lf = s.lf := (rfl)
@[simp] theorem updLig_cap (s : State) (l : Fin 64) (f : List LigEntry → List LigEntry) : (updLig s l f).cap = s.cap := (rfl)
@[simp] theorem updLig_tp (s : State) (l : Fin 64) (f : List LigEntry → List LigEntry) : (updLig s l f).tp = s.tp := (rfl)
@[simp] theorem updLig_sb (s : State) (l : Fin 64) (f : List LigEntry → List LigEntry) : (updLig s l f).sb = s.sb := (rfl)
@[simp] theorem updLig_pln (s : State) (l : Fin 64) (f : List LigEntry → List LigEntry) : (updLig s l f).pln = s.pln := (rfl)
@[simp] theorem updLig_isl (s : State) (l : Fin 64) (f : List LigEntry → List LigEntry) : (updLig s l f).isl = s.isl := (rfl)
@[simp] theorem updLig_pwr (s : State) (l : Fin 64) (f : List LigEntry → List LigEntry) : (updLig s l f).pwr = s.pwr := (rfl)
@[simp] theorem updLig_stw (s : State) (l : Fin 64) (f : List LigEntry → List LigEntry) : (updLig s l f).stw = s.stw := (rfl)
@[simp] theorem updLig_mgn (s : State) (l : Fin 64) (f : List LigEntry → List LigEntry) : (updLig s l f).mgn = s.mgn := (rfl)
@[simp] theorem updLig_fol (s : State) (l : Fin 64) (f : List LigEntry → List LigEntry) : (updLig s l f).fol = s.fol := (rfl)
@[simp] theorem updLig_hst (s : State) (l : Fin 64) (f : List LigEntry → List LigEntry) : (updLig s l f).hst = s.hst := (rfl)

/-! ### updAx -/

@[simp] theorem updAx_pending (s : State) (n : Fin 256) (f : AxisSt → AxisSt) : (updAx s n f).pending = s.pending := (rfl)
@[simp] theorem updAx_tick (s : State) (n : Fin 256) (f : AxisSt → AxisSt) : (updAx s n f).tick = s.tick := (rfl)
@[simp] theorem updAx_free (s : State) (n : Fin 256) (f : AxisSt → AxisSt) : (updAx s n f).free = s.free := (rfl)
@[simp] theorem updAx_regs (s : State) (n : Fin 256) (f : AxisSt → AxisSt) : (updAx s n f).regs = s.regs := (rfl)
@[simp] theorem updAx_mem (s : State) (n : Fin 256) (f : AxisSt → AxisSt) : (updAx s n f).mem = s.mem := (rfl)
@[simp] theorem updAx_wmem (s : State) (n : Fin 256) (f : AxisSt → AxisSt) : (updAx s n f).wmem = s.wmem := (rfl)
@[simp] theorem updAx_base (s : State) (n : Fin 256) (f : AxisSt → AxisSt) : (updAx s n f).base = s.base := (rfl)
@[simp] theorem updAx_eng (s : State) (n : Fin 256) (f : AxisSt → AxisSt) : (updAx s n f).eng = s.eng := (rfl)
@[simp] theorem updAx_ink (s : State) (n : Fin 256) (f : AxisSt → AxisSt) : (updAx s n f).ink = s.ink := (rfl)
@[simp] theorem updAx_axcfg (s : State) (n : Fin 256) (f : AxisSt → AxisSt) : (updAx s n f).axcfg = s.axcfg := (rfl)
@[simp] theorem updAx_ax (s : State) (n : Fin 256) (f : AxisSt → AxisSt) : (updAx s n f).ax = s.ax.upd n f := (rfl)
@[simp] theorem updAx_grp (s : State) (n : Fin 256) (f : AxisSt → AxisSt) : (updAx s n f).grp = s.grp := (rfl)
@[simp] theorem updAx_wave (s : State) (n : Fin 256) (f : AxisSt → AxisSt) : (updAx s n f).wave = s.wave := (rfl)
@[simp] theorem updAx_drafts (s : State) (n : Fin 256) (f : AxisSt → AxisSt) : (updAx s n f).drafts = s.drafts := (rfl)
@[simp] theorem updAx_loads (s : State) (n : Fin 256) (f : AxisSt → AxisSt) : (updAx s n f).loads = s.loads := (rfl)
@[simp] theorem updAx_pins (s : State) (n : Fin 256) (f : AxisSt → AxisSt) : (updAx s n f).pins = s.pins := (rfl)
@[simp] theorem updAx_dct (s : State) (n : Fin 256) (f : AxisSt → AxisSt) : (updAx s n f).dct = s.dct := (rfl)
@[simp] theorem updAx_lf (s : State) (n : Fin 256) (f : AxisSt → AxisSt) : (updAx s n f).lf = s.lf := (rfl)
@[simp] theorem updAx_cap (s : State) (n : Fin 256) (f : AxisSt → AxisSt) : (updAx s n f).cap = s.cap := (rfl)
@[simp] theorem updAx_tp (s : State) (n : Fin 256) (f : AxisSt → AxisSt) : (updAx s n f).tp = s.tp := (rfl)
@[simp] theorem updAx_sb (s : State) (n : Fin 256) (f : AxisSt → AxisSt) : (updAx s n f).sb = s.sb := (rfl)
@[simp] theorem updAx_pln (s : State) (n : Fin 256) (f : AxisSt → AxisSt) : (updAx s n f).pln = s.pln := (rfl)
@[simp] theorem updAx_isl (s : State) (n : Fin 256) (f : AxisSt → AxisSt) : (updAx s n f).isl = s.isl := (rfl)
@[simp] theorem updAx_pwr (s : State) (n : Fin 256) (f : AxisSt → AxisSt) : (updAx s n f).pwr = s.pwr := (rfl)
@[simp] theorem updAx_stw (s : State) (n : Fin 256) (f : AxisSt → AxisSt) : (updAx s n f).stw = s.stw := (rfl)
@[simp] theorem updAx_mgn (s : State) (n : Fin 256) (f : AxisSt → AxisSt) : (updAx s n f).mgn = s.mgn := (rfl)
@[simp] theorem updAx_fol (s : State) (n : Fin 256) (f : AxisSt → AxisSt) : (updAx s n f).fol = s.fol := (rfl)
@[simp] theorem updAx_hst (s : State) (n : Fin 256) (f : AxisSt → AxisSt) : (updAx s n f).hst = s.hst := (rfl)

/-! ### updGrp -/

@[simp] theorem updGrp_pending (s : State) (g : Fin 32) (f : GroupSt → GroupSt) : (updGrp s g f).pending = s.pending := (rfl)
@[simp] theorem updGrp_tick (s : State) (g : Fin 32) (f : GroupSt → GroupSt) : (updGrp s g f).tick = s.tick := (rfl)
@[simp] theorem updGrp_free (s : State) (g : Fin 32) (f : GroupSt → GroupSt) : (updGrp s g f).free = s.free := (rfl)
@[simp] theorem updGrp_regs (s : State) (g : Fin 32) (f : GroupSt → GroupSt) : (updGrp s g f).regs = s.regs := (rfl)
@[simp] theorem updGrp_mem (s : State) (g : Fin 32) (f : GroupSt → GroupSt) : (updGrp s g f).mem = s.mem := (rfl)
@[simp] theorem updGrp_wmem (s : State) (g : Fin 32) (f : GroupSt → GroupSt) : (updGrp s g f).wmem = s.wmem := (rfl)
@[simp] theorem updGrp_base (s : State) (g : Fin 32) (f : GroupSt → GroupSt) : (updGrp s g f).base = s.base := (rfl)
@[simp] theorem updGrp_eng (s : State) (g : Fin 32) (f : GroupSt → GroupSt) : (updGrp s g f).eng = s.eng := (rfl)
@[simp] theorem updGrp_ink (s : State) (g : Fin 32) (f : GroupSt → GroupSt) : (updGrp s g f).ink = s.ink := (rfl)
@[simp] theorem updGrp_axcfg (s : State) (g : Fin 32) (f : GroupSt → GroupSt) : (updGrp s g f).axcfg = s.axcfg := (rfl)
@[simp] theorem updGrp_ax (s : State) (g : Fin 32) (f : GroupSt → GroupSt) : (updGrp s g f).ax = s.ax := (rfl)
@[simp] theorem updGrp_grp (s : State) (g : Fin 32) (f : GroupSt → GroupSt) : (updGrp s g f).grp = s.grp.upd g f := (rfl)
@[simp] theorem updGrp_wave (s : State) (g : Fin 32) (f : GroupSt → GroupSt) : (updGrp s g f).wave = s.wave := (rfl)
@[simp] theorem updGrp_drafts (s : State) (g : Fin 32) (f : GroupSt → GroupSt) : (updGrp s g f).drafts = s.drafts := (rfl)
@[simp] theorem updGrp_loads (s : State) (g : Fin 32) (f : GroupSt → GroupSt) : (updGrp s g f).loads = s.loads := (rfl)
@[simp] theorem updGrp_pins (s : State) (g : Fin 32) (f : GroupSt → GroupSt) : (updGrp s g f).pins = s.pins := (rfl)
@[simp] theorem updGrp_dct (s : State) (g : Fin 32) (f : GroupSt → GroupSt) : (updGrp s g f).dct = s.dct := (rfl)
@[simp] theorem updGrp_lf (s : State) (g : Fin 32) (f : GroupSt → GroupSt) : (updGrp s g f).lf = s.lf := (rfl)
@[simp] theorem updGrp_cap (s : State) (g : Fin 32) (f : GroupSt → GroupSt) : (updGrp s g f).cap = s.cap := (rfl)
@[simp] theorem updGrp_tp (s : State) (g : Fin 32) (f : GroupSt → GroupSt) : (updGrp s g f).tp = s.tp := (rfl)
@[simp] theorem updGrp_sb (s : State) (g : Fin 32) (f : GroupSt → GroupSt) : (updGrp s g f).sb = s.sb := (rfl)
@[simp] theorem updGrp_pln (s : State) (g : Fin 32) (f : GroupSt → GroupSt) : (updGrp s g f).pln = s.pln := (rfl)
@[simp] theorem updGrp_isl (s : State) (g : Fin 32) (f : GroupSt → GroupSt) : (updGrp s g f).isl = s.isl := (rfl)
@[simp] theorem updGrp_pwr (s : State) (g : Fin 32) (f : GroupSt → GroupSt) : (updGrp s g f).pwr = s.pwr := (rfl)
@[simp] theorem updGrp_stw (s : State) (g : Fin 32) (f : GroupSt → GroupSt) : (updGrp s g f).stw = s.stw := (rfl)
@[simp] theorem updGrp_mgn (s : State) (g : Fin 32) (f : GroupSt → GroupSt) : (updGrp s g f).mgn = s.mgn := (rfl)
@[simp] theorem updGrp_fol (s : State) (g : Fin 32) (f : GroupSt → GroupSt) : (updGrp s g f).fol = s.fol := (rfl)
@[simp] theorem updGrp_hst (s : State) (g : Fin 32) (f : GroupSt → GroupSt) : (updGrp s g f).hst = s.hst := (rfl)

/-! ### updLoads -/

@[simp] theorem updLoads_pending (s : State) (f : List BankLoad → List BankLoad) : (updLoads s f).pending = s.pending := (rfl)
@[simp] theorem updLoads_tick (s : State) (f : List BankLoad → List BankLoad) : (updLoads s f).tick = s.tick := (rfl)
@[simp] theorem updLoads_free (s : State) (f : List BankLoad → List BankLoad) : (updLoads s f).free = s.free := (rfl)
@[simp] theorem updLoads_regs (s : State) (f : List BankLoad → List BankLoad) : (updLoads s f).regs = s.regs := (rfl)
@[simp] theorem updLoads_mem (s : State) (f : List BankLoad → List BankLoad) : (updLoads s f).mem = s.mem := (rfl)
@[simp] theorem updLoads_wmem (s : State) (f : List BankLoad → List BankLoad) : (updLoads s f).wmem = s.wmem := (rfl)
@[simp] theorem updLoads_base (s : State) (f : List BankLoad → List BankLoad) : (updLoads s f).base = s.base := (rfl)
@[simp] theorem updLoads_eng (s : State) (f : List BankLoad → List BankLoad) : (updLoads s f).eng = s.eng := (rfl)
@[simp] theorem updLoads_ink (s : State) (f : List BankLoad → List BankLoad) : (updLoads s f).ink = s.ink := (rfl)
@[simp] theorem updLoads_axcfg (s : State) (f : List BankLoad → List BankLoad) : (updLoads s f).axcfg = s.axcfg := (rfl)
@[simp] theorem updLoads_ax (s : State) (f : List BankLoad → List BankLoad) : (updLoads s f).ax = s.ax := (rfl)
@[simp] theorem updLoads_grp (s : State) (f : List BankLoad → List BankLoad) : (updLoads s f).grp = s.grp := (rfl)
@[simp] theorem updLoads_wave (s : State) (f : List BankLoad → List BankLoad) : (updLoads s f).wave = s.wave := (rfl)
@[simp] theorem updLoads_drafts (s : State) (f : List BankLoad → List BankLoad) : (updLoads s f).drafts = s.drafts := (rfl)
@[simp] theorem updLoads_loads (s : State) (f : List BankLoad → List BankLoad) : (updLoads s f).loads = f s.loads := (rfl)
@[simp] theorem updLoads_pins (s : State) (f : List BankLoad → List BankLoad) : (updLoads s f).pins = s.pins := (rfl)
@[simp] theorem updLoads_dct (s : State) (f : List BankLoad → List BankLoad) : (updLoads s f).dct = s.dct := (rfl)
@[simp] theorem updLoads_lf (s : State) (f : List BankLoad → List BankLoad) : (updLoads s f).lf = s.lf := (rfl)
@[simp] theorem updLoads_cap (s : State) (f : List BankLoad → List BankLoad) : (updLoads s f).cap = s.cap := (rfl)
@[simp] theorem updLoads_tp (s : State) (f : List BankLoad → List BankLoad) : (updLoads s f).tp = s.tp := (rfl)
@[simp] theorem updLoads_sb (s : State) (f : List BankLoad → List BankLoad) : (updLoads s f).sb = s.sb := (rfl)
@[simp] theorem updLoads_pln (s : State) (f : List BankLoad → List BankLoad) : (updLoads s f).pln = s.pln := (rfl)
@[simp] theorem updLoads_isl (s : State) (f : List BankLoad → List BankLoad) : (updLoads s f).isl = s.isl := (rfl)
@[simp] theorem updLoads_pwr (s : State) (f : List BankLoad → List BankLoad) : (updLoads s f).pwr = s.pwr := (rfl)
@[simp] theorem updLoads_stw (s : State) (f : List BankLoad → List BankLoad) : (updLoads s f).stw = s.stw := (rfl)
@[simp] theorem updLoads_mgn (s : State) (f : List BankLoad → List BankLoad) : (updLoads s f).mgn = s.mgn := (rfl)
@[simp] theorem updLoads_fol (s : State) (f : List BankLoad → List BankLoad) : (updLoads s f).fol = s.fol := (rfl)
@[simp] theorem updLoads_hst (s : State) (f : List BankLoad → List BankLoad) : (updLoads s f).hst = s.hst := (rfl)

/-! ### updDct -/

@[simp] theorem updDct_pending (s : State) (f : Dct → Dct) : (updDct s f).pending = s.pending := (rfl)
@[simp] theorem updDct_tick (s : State) (f : Dct → Dct) : (updDct s f).tick = s.tick := (rfl)
@[simp] theorem updDct_free (s : State) (f : Dct → Dct) : (updDct s f).free = s.free := (rfl)
@[simp] theorem updDct_regs (s : State) (f : Dct → Dct) : (updDct s f).regs = s.regs := (rfl)
@[simp] theorem updDct_mem (s : State) (f : Dct → Dct) : (updDct s f).mem = s.mem := (rfl)
@[simp] theorem updDct_wmem (s : State) (f : Dct → Dct) : (updDct s f).wmem = s.wmem := (rfl)
@[simp] theorem updDct_base (s : State) (f : Dct → Dct) : (updDct s f).base = s.base := (rfl)
@[simp] theorem updDct_eng (s : State) (f : Dct → Dct) : (updDct s f).eng = s.eng := (rfl)
@[simp] theorem updDct_ink (s : State) (f : Dct → Dct) : (updDct s f).ink = s.ink := (rfl)
@[simp] theorem updDct_axcfg (s : State) (f : Dct → Dct) : (updDct s f).axcfg = s.axcfg := (rfl)
@[simp] theorem updDct_ax (s : State) (f : Dct → Dct) : (updDct s f).ax = s.ax := (rfl)
@[simp] theorem updDct_grp (s : State) (f : Dct → Dct) : (updDct s f).grp = s.grp := (rfl)
@[simp] theorem updDct_wave (s : State) (f : Dct → Dct) : (updDct s f).wave = s.wave := (rfl)
@[simp] theorem updDct_drafts (s : State) (f : Dct → Dct) : (updDct s f).drafts = s.drafts := (rfl)
@[simp] theorem updDct_loads (s : State) (f : Dct → Dct) : (updDct s f).loads = s.loads := (rfl)
@[simp] theorem updDct_pins (s : State) (f : Dct → Dct) : (updDct s f).pins = s.pins := (rfl)
@[simp] theorem updDct_dct (s : State) (f : Dct → Dct) : (updDct s f).dct = f s.dct := (rfl)
@[simp] theorem updDct_lf (s : State) (f : Dct → Dct) : (updDct s f).lf = s.lf := (rfl)
@[simp] theorem updDct_cap (s : State) (f : Dct → Dct) : (updDct s f).cap = s.cap := (rfl)
@[simp] theorem updDct_tp (s : State) (f : Dct → Dct) : (updDct s f).tp = s.tp := (rfl)
@[simp] theorem updDct_sb (s : State) (f : Dct → Dct) : (updDct s f).sb = s.sb := (rfl)
@[simp] theorem updDct_pln (s : State) (f : Dct → Dct) : (updDct s f).pln = s.pln := (rfl)
@[simp] theorem updDct_isl (s : State) (f : Dct → Dct) : (updDct s f).isl = s.isl := (rfl)
@[simp] theorem updDct_pwr (s : State) (f : Dct → Dct) : (updDct s f).pwr = s.pwr := (rfl)
@[simp] theorem updDct_stw (s : State) (f : Dct → Dct) : (updDct s f).stw = s.stw := (rfl)
@[simp] theorem updDct_mgn (s : State) (f : Dct → Dct) : (updDct s f).mgn = s.mgn := (rfl)
@[simp] theorem updDct_fol (s : State) (f : Dct → Dct) : (updDct s f).fol = s.fol := (rfl)
@[simp] theorem updDct_hst (s : State) (f : Dct → Dct) : (updDct s f).hst = s.hst := (rfl)

/-! ### updSlot -/

@[simp] theorem updSlot_pending (s : State) (n : Fin 256) (f : Slot → Slot) : (updSlot s n f).pending = s.pending := (rfl)
@[simp] theorem updSlot_tick (s : State) (n : Fin 256) (f : Slot → Slot) : (updSlot s n f).tick = s.tick := (rfl)
@[simp] theorem updSlot_free (s : State) (n : Fin 256) (f : Slot → Slot) : (updSlot s n f).free = s.free := (rfl)
@[simp] theorem updSlot_regs (s : State) (n : Fin 256) (f : Slot → Slot) : (updSlot s n f).regs = s.regs := (rfl)
@[simp] theorem updSlot_mem (s : State) (n : Fin 256) (f : Slot → Slot) : (updSlot s n f).mem = s.mem := (rfl)
@[simp] theorem updSlot_wmem (s : State) (n : Fin 256) (f : Slot → Slot) : (updSlot s n f).wmem = s.wmem := (rfl)
@[simp] theorem updSlot_base (s : State) (n : Fin 256) (f : Slot → Slot) : (updSlot s n f).base = s.base := (rfl)
@[simp] theorem updSlot_eng (s : State) (n : Fin 256) (f : Slot → Slot) : (updSlot s n f).eng = s.eng := (rfl)
@[simp] theorem updSlot_ink (s : State) (n : Fin 256) (f : Slot → Slot) : (updSlot s n f).ink = s.ink := (rfl)
@[simp] theorem updSlot_axcfg (s : State) (n : Fin 256) (f : Slot → Slot) : (updSlot s n f).axcfg = s.axcfg := (rfl)
@[simp] theorem updSlot_ax (s : State) (n : Fin 256) (f : Slot → Slot) : (updSlot s n f).ax = s.ax := (rfl)
@[simp] theorem updSlot_grp (s : State) (n : Fin 256) (f : Slot → Slot) : (updSlot s n f).grp = s.grp := (rfl)
@[simp] theorem updSlot_wave (s : State) (n : Fin 256) (f : Slot → Slot) : (updSlot s n f).wave = s.wave := (rfl)
@[simp] theorem updSlot_drafts (s : State) (n : Fin 256) (f : Slot → Slot) : (updSlot s n f).drafts = s.drafts := (rfl)
@[simp] theorem updSlot_loads (s : State) (n : Fin 256) (f : Slot → Slot) : (updSlot s n f).loads = s.loads := (rfl)
@[simp] theorem updSlot_pins (s : State) (n : Fin 256) (f : Slot → Slot) : (updSlot s n f).pins = s.pins := (rfl)
@[simp] theorem updSlot_dct (s : State) (n : Fin 256) (f : Slot → Slot) : (updSlot s n f).dct = { s.dct with slot := s.dct.slot.upd n f } := (rfl)
@[simp] theorem updSlot_lf (s : State) (n : Fin 256) (f : Slot → Slot) : (updSlot s n f).lf = s.lf := (rfl)
@[simp] theorem updSlot_cap (s : State) (n : Fin 256) (f : Slot → Slot) : (updSlot s n f).cap = s.cap := (rfl)
@[simp] theorem updSlot_tp (s : State) (n : Fin 256) (f : Slot → Slot) : (updSlot s n f).tp = s.tp := (rfl)
@[simp] theorem updSlot_sb (s : State) (n : Fin 256) (f : Slot → Slot) : (updSlot s n f).sb = s.sb := (rfl)
@[simp] theorem updSlot_pln (s : State) (n : Fin 256) (f : Slot → Slot) : (updSlot s n f).pln = s.pln := (rfl)
@[simp] theorem updSlot_isl (s : State) (n : Fin 256) (f : Slot → Slot) : (updSlot s n f).isl = s.isl := (rfl)
@[simp] theorem updSlot_pwr (s : State) (n : Fin 256) (f : Slot → Slot) : (updSlot s n f).pwr = s.pwr := (rfl)
@[simp] theorem updSlot_stw (s : State) (n : Fin 256) (f : Slot → Slot) : (updSlot s n f).stw = s.stw := (rfl)
@[simp] theorem updSlot_mgn (s : State) (n : Fin 256) (f : Slot → Slot) : (updSlot s n f).mgn = s.mgn := (rfl)
@[simp] theorem updSlot_fol (s : State) (n : Fin 256) (f : Slot → Slot) : (updSlot s n f).fol = s.fol := (rfl)
@[simp] theorem updSlot_hst (s : State) (n : Fin 256) (f : Slot → Slot) : (updSlot s n f).hst = s.hst := (rfl)

/-! ### updLf -/

@[simp] theorem updLf_pending (s : State) (n : Fin 8) (f : LfCh → LfCh) : (updLf s n f).pending = s.pending := (rfl)
@[simp] theorem updLf_tick (s : State) (n : Fin 8) (f : LfCh → LfCh) : (updLf s n f).tick = s.tick := (rfl)
@[simp] theorem updLf_free (s : State) (n : Fin 8) (f : LfCh → LfCh) : (updLf s n f).free = s.free := (rfl)
@[simp] theorem updLf_regs (s : State) (n : Fin 8) (f : LfCh → LfCh) : (updLf s n f).regs = s.regs := (rfl)
@[simp] theorem updLf_mem (s : State) (n : Fin 8) (f : LfCh → LfCh) : (updLf s n f).mem = s.mem := (rfl)
@[simp] theorem updLf_wmem (s : State) (n : Fin 8) (f : LfCh → LfCh) : (updLf s n f).wmem = s.wmem := (rfl)
@[simp] theorem updLf_base (s : State) (n : Fin 8) (f : LfCh → LfCh) : (updLf s n f).base = s.base := (rfl)
@[simp] theorem updLf_eng (s : State) (n : Fin 8) (f : LfCh → LfCh) : (updLf s n f).eng = s.eng := (rfl)
@[simp] theorem updLf_ink (s : State) (n : Fin 8) (f : LfCh → LfCh) : (updLf s n f).ink = s.ink := (rfl)
@[simp] theorem updLf_axcfg (s : State) (n : Fin 8) (f : LfCh → LfCh) : (updLf s n f).axcfg = s.axcfg := (rfl)
@[simp] theorem updLf_ax (s : State) (n : Fin 8) (f : LfCh → LfCh) : (updLf s n f).ax = s.ax := (rfl)
@[simp] theorem updLf_grp (s : State) (n : Fin 8) (f : LfCh → LfCh) : (updLf s n f).grp = s.grp := (rfl)
@[simp] theorem updLf_wave (s : State) (n : Fin 8) (f : LfCh → LfCh) : (updLf s n f).wave = s.wave := (rfl)
@[simp] theorem updLf_drafts (s : State) (n : Fin 8) (f : LfCh → LfCh) : (updLf s n f).drafts = s.drafts := (rfl)
@[simp] theorem updLf_loads (s : State) (n : Fin 8) (f : LfCh → LfCh) : (updLf s n f).loads = s.loads := (rfl)
@[simp] theorem updLf_pins (s : State) (n : Fin 8) (f : LfCh → LfCh) : (updLf s n f).pins = s.pins := (rfl)
@[simp] theorem updLf_dct (s : State) (n : Fin 8) (f : LfCh → LfCh) : (updLf s n f).dct = s.dct := (rfl)
@[simp] theorem updLf_lf (s : State) (n : Fin 8) (f : LfCh → LfCh) : (updLf s n f).lf = s.lf.upd n f := (rfl)
@[simp] theorem updLf_cap (s : State) (n : Fin 8) (f : LfCh → LfCh) : (updLf s n f).cap = s.cap := (rfl)
@[simp] theorem updLf_tp (s : State) (n : Fin 8) (f : LfCh → LfCh) : (updLf s n f).tp = s.tp := (rfl)
@[simp] theorem updLf_sb (s : State) (n : Fin 8) (f : LfCh → LfCh) : (updLf s n f).sb = s.sb := (rfl)
@[simp] theorem updLf_pln (s : State) (n : Fin 8) (f : LfCh → LfCh) : (updLf s n f).pln = s.pln := (rfl)
@[simp] theorem updLf_isl (s : State) (n : Fin 8) (f : LfCh → LfCh) : (updLf s n f).isl = s.isl := (rfl)
@[simp] theorem updLf_pwr (s : State) (n : Fin 8) (f : LfCh → LfCh) : (updLf s n f).pwr = s.pwr := (rfl)
@[simp] theorem updLf_stw (s : State) (n : Fin 8) (f : LfCh → LfCh) : (updLf s n f).stw = s.stw := (rfl)
@[simp] theorem updLf_mgn (s : State) (n : Fin 8) (f : LfCh → LfCh) : (updLf s n f).mgn = s.mgn := (rfl)
@[simp] theorem updLf_fol (s : State) (n : Fin 8) (f : LfCh → LfCh) : (updLf s n f).fol = s.fol := (rfl)
@[simp] theorem updLf_hst (s : State) (n : Fin 8) (f : LfCh → LfCh) : (updLf s n f).hst = s.hst := (rfl)

/-! ### updCap -/

@[simp] theorem updCap_pending (s : State) (n : Fin 16) (f : CapSt → CapSt) : (updCap s n f).pending = s.pending := (rfl)
@[simp] theorem updCap_tick (s : State) (n : Fin 16) (f : CapSt → CapSt) : (updCap s n f).tick = s.tick := (rfl)
@[simp] theorem updCap_free (s : State) (n : Fin 16) (f : CapSt → CapSt) : (updCap s n f).free = s.free := (rfl)
@[simp] theorem updCap_regs (s : State) (n : Fin 16) (f : CapSt → CapSt) : (updCap s n f).regs = s.regs := (rfl)
@[simp] theorem updCap_mem (s : State) (n : Fin 16) (f : CapSt → CapSt) : (updCap s n f).mem = s.mem := (rfl)
@[simp] theorem updCap_wmem (s : State) (n : Fin 16) (f : CapSt → CapSt) : (updCap s n f).wmem = s.wmem := (rfl)
@[simp] theorem updCap_base (s : State) (n : Fin 16) (f : CapSt → CapSt) : (updCap s n f).base = s.base := (rfl)
@[simp] theorem updCap_eng (s : State) (n : Fin 16) (f : CapSt → CapSt) : (updCap s n f).eng = s.eng := (rfl)
@[simp] theorem updCap_ink (s : State) (n : Fin 16) (f : CapSt → CapSt) : (updCap s n f).ink = s.ink := (rfl)
@[simp] theorem updCap_axcfg (s : State) (n : Fin 16) (f : CapSt → CapSt) : (updCap s n f).axcfg = s.axcfg := (rfl)
@[simp] theorem updCap_ax (s : State) (n : Fin 16) (f : CapSt → CapSt) : (updCap s n f).ax = s.ax := (rfl)
@[simp] theorem updCap_grp (s : State) (n : Fin 16) (f : CapSt → CapSt) : (updCap s n f).grp = s.grp := (rfl)
@[simp] theorem updCap_wave (s : State) (n : Fin 16) (f : CapSt → CapSt) : (updCap s n f).wave = s.wave := (rfl)
@[simp] theorem updCap_drafts (s : State) (n : Fin 16) (f : CapSt → CapSt) : (updCap s n f).drafts = s.drafts := (rfl)
@[simp] theorem updCap_loads (s : State) (n : Fin 16) (f : CapSt → CapSt) : (updCap s n f).loads = s.loads := (rfl)
@[simp] theorem updCap_pins (s : State) (n : Fin 16) (f : CapSt → CapSt) : (updCap s n f).pins = s.pins := (rfl)
@[simp] theorem updCap_dct (s : State) (n : Fin 16) (f : CapSt → CapSt) : (updCap s n f).dct = s.dct := (rfl)
@[simp] theorem updCap_lf (s : State) (n : Fin 16) (f : CapSt → CapSt) : (updCap s n f).lf = s.lf := (rfl)
@[simp] theorem updCap_cap (s : State) (n : Fin 16) (f : CapSt → CapSt) : (updCap s n f).cap = s.cap.upd n f := (rfl)
@[simp] theorem updCap_tp (s : State) (n : Fin 16) (f : CapSt → CapSt) : (updCap s n f).tp = s.tp := (rfl)
@[simp] theorem updCap_sb (s : State) (n : Fin 16) (f : CapSt → CapSt) : (updCap s n f).sb = s.sb := (rfl)
@[simp] theorem updCap_pln (s : State) (n : Fin 16) (f : CapSt → CapSt) : (updCap s n f).pln = s.pln := (rfl)
@[simp] theorem updCap_isl (s : State) (n : Fin 16) (f : CapSt → CapSt) : (updCap s n f).isl = s.isl := (rfl)
@[simp] theorem updCap_pwr (s : State) (n : Fin 16) (f : CapSt → CapSt) : (updCap s n f).pwr = s.pwr := (rfl)
@[simp] theorem updCap_stw (s : State) (n : Fin 16) (f : CapSt → CapSt) : (updCap s n f).stw = s.stw := (rfl)
@[simp] theorem updCap_mgn (s : State) (n : Fin 16) (f : CapSt → CapSt) : (updCap s n f).mgn = s.mgn := (rfl)
@[simp] theorem updCap_fol (s : State) (n : Fin 16) (f : CapSt → CapSt) : (updCap s n f).fol = s.fol := (rfl)
@[simp] theorem updCap_hst (s : State) (n : Fin 16) (f : CapSt → CapSt) : (updCap s n f).hst = s.hst := (rfl)

/-! ### updTp -/

@[simp] theorem updTp_pending (s : State) (n : Fin 16) (f : TpSt → TpSt) : (updTp s n f).pending = s.pending := (rfl)
@[simp] theorem updTp_tick (s : State) (n : Fin 16) (f : TpSt → TpSt) : (updTp s n f).tick = s.tick := (rfl)
@[simp] theorem updTp_free (s : State) (n : Fin 16) (f : TpSt → TpSt) : (updTp s n f).free = s.free := (rfl)
@[simp] theorem updTp_regs (s : State) (n : Fin 16) (f : TpSt → TpSt) : (updTp s n f).regs = s.regs := (rfl)
@[simp] theorem updTp_mem (s : State) (n : Fin 16) (f : TpSt → TpSt) : (updTp s n f).mem = s.mem := (rfl)
@[simp] theorem updTp_wmem (s : State) (n : Fin 16) (f : TpSt → TpSt) : (updTp s n f).wmem = s.wmem := (rfl)
@[simp] theorem updTp_base (s : State) (n : Fin 16) (f : TpSt → TpSt) : (updTp s n f).base = s.base := (rfl)
@[simp] theorem updTp_eng (s : State) (n : Fin 16) (f : TpSt → TpSt) : (updTp s n f).eng = s.eng := (rfl)
@[simp] theorem updTp_ink (s : State) (n : Fin 16) (f : TpSt → TpSt) : (updTp s n f).ink = s.ink := (rfl)
@[simp] theorem updTp_axcfg (s : State) (n : Fin 16) (f : TpSt → TpSt) : (updTp s n f).axcfg = s.axcfg := (rfl)
@[simp] theorem updTp_ax (s : State) (n : Fin 16) (f : TpSt → TpSt) : (updTp s n f).ax = s.ax := (rfl)
@[simp] theorem updTp_grp (s : State) (n : Fin 16) (f : TpSt → TpSt) : (updTp s n f).grp = s.grp := (rfl)
@[simp] theorem updTp_wave (s : State) (n : Fin 16) (f : TpSt → TpSt) : (updTp s n f).wave = s.wave := (rfl)
@[simp] theorem updTp_drafts (s : State) (n : Fin 16) (f : TpSt → TpSt) : (updTp s n f).drafts = s.drafts := (rfl)
@[simp] theorem updTp_loads (s : State) (n : Fin 16) (f : TpSt → TpSt) : (updTp s n f).loads = s.loads := (rfl)
@[simp] theorem updTp_pins (s : State) (n : Fin 16) (f : TpSt → TpSt) : (updTp s n f).pins = s.pins := (rfl)
@[simp] theorem updTp_dct (s : State) (n : Fin 16) (f : TpSt → TpSt) : (updTp s n f).dct = s.dct := (rfl)
@[simp] theorem updTp_lf (s : State) (n : Fin 16) (f : TpSt → TpSt) : (updTp s n f).lf = s.lf := (rfl)
@[simp] theorem updTp_cap (s : State) (n : Fin 16) (f : TpSt → TpSt) : (updTp s n f).cap = s.cap := (rfl)
@[simp] theorem updTp_tp (s : State) (n : Fin 16) (f : TpSt → TpSt) : (updTp s n f).tp = s.tp.upd n f := (rfl)
@[simp] theorem updTp_sb (s : State) (n : Fin 16) (f : TpSt → TpSt) : (updTp s n f).sb = s.sb := (rfl)
@[simp] theorem updTp_pln (s : State) (n : Fin 16) (f : TpSt → TpSt) : (updTp s n f).pln = s.pln := (rfl)
@[simp] theorem updTp_isl (s : State) (n : Fin 16) (f : TpSt → TpSt) : (updTp s n f).isl = s.isl := (rfl)
@[simp] theorem updTp_pwr (s : State) (n : Fin 16) (f : TpSt → TpSt) : (updTp s n f).pwr = s.pwr := (rfl)
@[simp] theorem updTp_stw (s : State) (n : Fin 16) (f : TpSt → TpSt) : (updTp s n f).stw = s.stw := (rfl)
@[simp] theorem updTp_mgn (s : State) (n : Fin 16) (f : TpSt → TpSt) : (updTp s n f).mgn = s.mgn := (rfl)
@[simp] theorem updTp_fol (s : State) (n : Fin 16) (f : TpSt → TpSt) : (updTp s n f).fol = s.fol := (rfl)
@[simp] theorem updTp_hst (s : State) (n : Fin 16) (f : TpSt → TpSt) : (updTp s n f).hst = s.hst := (rfl)

/-! ### updSb -/

@[simp] theorem updSb_pending (s : State) (k : Fin 4) (f : SbCt → SbCt) : (updSb s k f).pending = s.pending := (rfl)
@[simp] theorem updSb_tick (s : State) (k : Fin 4) (f : SbCt → SbCt) : (updSb s k f).tick = s.tick := (rfl)
@[simp] theorem updSb_free (s : State) (k : Fin 4) (f : SbCt → SbCt) : (updSb s k f).free = s.free := (rfl)
@[simp] theorem updSb_regs (s : State) (k : Fin 4) (f : SbCt → SbCt) : (updSb s k f).regs = s.regs := (rfl)
@[simp] theorem updSb_mem (s : State) (k : Fin 4) (f : SbCt → SbCt) : (updSb s k f).mem = s.mem := (rfl)
@[simp] theorem updSb_wmem (s : State) (k : Fin 4) (f : SbCt → SbCt) : (updSb s k f).wmem = s.wmem := (rfl)
@[simp] theorem updSb_base (s : State) (k : Fin 4) (f : SbCt → SbCt) : (updSb s k f).base = s.base := (rfl)
@[simp] theorem updSb_eng (s : State) (k : Fin 4) (f : SbCt → SbCt) : (updSb s k f).eng = s.eng := (rfl)
@[simp] theorem updSb_ink (s : State) (k : Fin 4) (f : SbCt → SbCt) : (updSb s k f).ink = s.ink := (rfl)
@[simp] theorem updSb_axcfg (s : State) (k : Fin 4) (f : SbCt → SbCt) : (updSb s k f).axcfg = s.axcfg := (rfl)
@[simp] theorem updSb_ax (s : State) (k : Fin 4) (f : SbCt → SbCt) : (updSb s k f).ax = s.ax := (rfl)
@[simp] theorem updSb_grp (s : State) (k : Fin 4) (f : SbCt → SbCt) : (updSb s k f).grp = s.grp := (rfl)
@[simp] theorem updSb_wave (s : State) (k : Fin 4) (f : SbCt → SbCt) : (updSb s k f).wave = s.wave := (rfl)
@[simp] theorem updSb_drafts (s : State) (k : Fin 4) (f : SbCt → SbCt) : (updSb s k f).drafts = s.drafts := (rfl)
@[simp] theorem updSb_loads (s : State) (k : Fin 4) (f : SbCt → SbCt) : (updSb s k f).loads = s.loads := (rfl)
@[simp] theorem updSb_pins (s : State) (k : Fin 4) (f : SbCt → SbCt) : (updSb s k f).pins = s.pins := (rfl)
@[simp] theorem updSb_dct (s : State) (k : Fin 4) (f : SbCt → SbCt) : (updSb s k f).dct = s.dct := (rfl)
@[simp] theorem updSb_lf (s : State) (k : Fin 4) (f : SbCt → SbCt) : (updSb s k f).lf = s.lf := (rfl)
@[simp] theorem updSb_cap (s : State) (k : Fin 4) (f : SbCt → SbCt) : (updSb s k f).cap = s.cap := (rfl)
@[simp] theorem updSb_tp (s : State) (k : Fin 4) (f : SbCt → SbCt) : (updSb s k f).tp = s.tp := (rfl)
@[simp] theorem updSb_sb (s : State) (k : Fin 4) (f : SbCt → SbCt) : (updSb s k f).sb = s.sb.upd k f := (rfl)
@[simp] theorem updSb_pln (s : State) (k : Fin 4) (f : SbCt → SbCt) : (updSb s k f).pln = s.pln := (rfl)
@[simp] theorem updSb_isl (s : State) (k : Fin 4) (f : SbCt → SbCt) : (updSb s k f).isl = s.isl := (rfl)
@[simp] theorem updSb_pwr (s : State) (k : Fin 4) (f : SbCt → SbCt) : (updSb s k f).pwr = s.pwr := (rfl)
@[simp] theorem updSb_stw (s : State) (k : Fin 4) (f : SbCt → SbCt) : (updSb s k f).stw = s.stw := (rfl)
@[simp] theorem updSb_mgn (s : State) (k : Fin 4) (f : SbCt → SbCt) : (updSb s k f).mgn = s.mgn := (rfl)
@[simp] theorem updSb_fol (s : State) (k : Fin 4) (f : SbCt → SbCt) : (updSb s k f).fol = s.fol := (rfl)
@[simp] theorem updSb_hst (s : State) (k : Fin 4) (f : SbCt → SbCt) : (updSb s k f).hst = s.hst := (rfl)

/-! ### updPln -/

@[simp] theorem updPln_pending (s : State) (f : Pln → Pln) : (updPln s f).pending = s.pending := (rfl)
@[simp] theorem updPln_tick (s : State) (f : Pln → Pln) : (updPln s f).tick = s.tick := (rfl)
@[simp] theorem updPln_free (s : State) (f : Pln → Pln) : (updPln s f).free = s.free := (rfl)
@[simp] theorem updPln_regs (s : State) (f : Pln → Pln) : (updPln s f).regs = s.regs := (rfl)
@[simp] theorem updPln_mem (s : State) (f : Pln → Pln) : (updPln s f).mem = s.mem := (rfl)
@[simp] theorem updPln_wmem (s : State) (f : Pln → Pln) : (updPln s f).wmem = s.wmem := (rfl)
@[simp] theorem updPln_base (s : State) (f : Pln → Pln) : (updPln s f).base = s.base := (rfl)
@[simp] theorem updPln_eng (s : State) (f : Pln → Pln) : (updPln s f).eng = s.eng := (rfl)
@[simp] theorem updPln_ink (s : State) (f : Pln → Pln) : (updPln s f).ink = s.ink := (rfl)
@[simp] theorem updPln_axcfg (s : State) (f : Pln → Pln) : (updPln s f).axcfg = s.axcfg := (rfl)
@[simp] theorem updPln_ax (s : State) (f : Pln → Pln) : (updPln s f).ax = s.ax := (rfl)
@[simp] theorem updPln_grp (s : State) (f : Pln → Pln) : (updPln s f).grp = s.grp := (rfl)
@[simp] theorem updPln_wave (s : State) (f : Pln → Pln) : (updPln s f).wave = s.wave := (rfl)
@[simp] theorem updPln_drafts (s : State) (f : Pln → Pln) : (updPln s f).drafts = s.drafts := (rfl)
@[simp] theorem updPln_loads (s : State) (f : Pln → Pln) : (updPln s f).loads = s.loads := (rfl)
@[simp] theorem updPln_pins (s : State) (f : Pln → Pln) : (updPln s f).pins = s.pins := (rfl)
@[simp] theorem updPln_dct (s : State) (f : Pln → Pln) : (updPln s f).dct = s.dct := (rfl)
@[simp] theorem updPln_lf (s : State) (f : Pln → Pln) : (updPln s f).lf = s.lf := (rfl)
@[simp] theorem updPln_cap (s : State) (f : Pln → Pln) : (updPln s f).cap = s.cap := (rfl)
@[simp] theorem updPln_tp (s : State) (f : Pln → Pln) : (updPln s f).tp = s.tp := (rfl)
@[simp] theorem updPln_sb (s : State) (f : Pln → Pln) : (updPln s f).sb = s.sb := (rfl)
@[simp] theorem updPln_pln (s : State) (f : Pln → Pln) : (updPln s f).pln = f s.pln := (rfl)
@[simp] theorem updPln_isl (s : State) (f : Pln → Pln) : (updPln s f).isl = s.isl := (rfl)
@[simp] theorem updPln_pwr (s : State) (f : Pln → Pln) : (updPln s f).pwr = s.pwr := (rfl)
@[simp] theorem updPln_stw (s : State) (f : Pln → Pln) : (updPln s f).stw = s.stw := (rfl)
@[simp] theorem updPln_mgn (s : State) (f : Pln → Pln) : (updPln s f).mgn = s.mgn := (rfl)
@[simp] theorem updPln_fol (s : State) (f : Pln → Pln) : (updPln s f).fol = s.fol := (rfl)
@[simp] theorem updPln_hst (s : State) (f : Pln → Pln) : (updPln s f).hst = s.hst := (rfl)

/-! ### updNode -/

@[simp] theorem updNode_pending (s : State) (n : Fin 256) (f : NodeSt → NodeSt) : (updNode s n f).pending = s.pending := (rfl)
@[simp] theorem updNode_tick (s : State) (n : Fin 256) (f : NodeSt → NodeSt) : (updNode s n f).tick = s.tick := (rfl)
@[simp] theorem updNode_free (s : State) (n : Fin 256) (f : NodeSt → NodeSt) : (updNode s n f).free = s.free := (rfl)
@[simp] theorem updNode_regs (s : State) (n : Fin 256) (f : NodeSt → NodeSt) : (updNode s n f).regs = s.regs := (rfl)
@[simp] theorem updNode_mem (s : State) (n : Fin 256) (f : NodeSt → NodeSt) : (updNode s n f).mem = s.mem := (rfl)
@[simp] theorem updNode_wmem (s : State) (n : Fin 256) (f : NodeSt → NodeSt) : (updNode s n f).wmem = s.wmem := (rfl)
@[simp] theorem updNode_base (s : State) (n : Fin 256) (f : NodeSt → NodeSt) : (updNode s n f).base = s.base := (rfl)
@[simp] theorem updNode_eng (s : State) (n : Fin 256) (f : NodeSt → NodeSt) : (updNode s n f).eng = s.eng := (rfl)
@[simp] theorem updNode_ink (s : State) (n : Fin 256) (f : NodeSt → NodeSt) : (updNode s n f).ink = s.ink := (rfl)
@[simp] theorem updNode_axcfg (s : State) (n : Fin 256) (f : NodeSt → NodeSt) : (updNode s n f).axcfg = s.axcfg := (rfl)
@[simp] theorem updNode_ax (s : State) (n : Fin 256) (f : NodeSt → NodeSt) : (updNode s n f).ax = s.ax := (rfl)
@[simp] theorem updNode_grp (s : State) (n : Fin 256) (f : NodeSt → NodeSt) : (updNode s n f).grp = s.grp := (rfl)
@[simp] theorem updNode_wave (s : State) (n : Fin 256) (f : NodeSt → NodeSt) : (updNode s n f).wave = s.wave := (rfl)
@[simp] theorem updNode_drafts (s : State) (n : Fin 256) (f : NodeSt → NodeSt) : (updNode s n f).drafts = s.drafts := (rfl)
@[simp] theorem updNode_loads (s : State) (n : Fin 256) (f : NodeSt → NodeSt) : (updNode s n f).loads = s.loads := (rfl)
@[simp] theorem updNode_pins (s : State) (n : Fin 256) (f : NodeSt → NodeSt) : (updNode s n f).pins = s.pins := (rfl)
@[simp] theorem updNode_dct (s : State) (n : Fin 256) (f : NodeSt → NodeSt) : (updNode s n f).dct = s.dct := (rfl)
@[simp] theorem updNode_lf (s : State) (n : Fin 256) (f : NodeSt → NodeSt) : (updNode s n f).lf = s.lf := (rfl)
@[simp] theorem updNode_cap (s : State) (n : Fin 256) (f : NodeSt → NodeSt) : (updNode s n f).cap = s.cap := (rfl)
@[simp] theorem updNode_tp (s : State) (n : Fin 256) (f : NodeSt → NodeSt) : (updNode s n f).tp = s.tp := (rfl)
@[simp] theorem updNode_sb (s : State) (n : Fin 256) (f : NodeSt → NodeSt) : (updNode s n f).sb = s.sb := (rfl)
@[simp] theorem updNode_pln (s : State) (n : Fin 256) (f : NodeSt → NodeSt) : (updNode s n f).pln = { s.pln with node := s.pln.node.upd n f } := (rfl)
@[simp] theorem updNode_isl (s : State) (n : Fin 256) (f : NodeSt → NodeSt) : (updNode s n f).isl = s.isl := (rfl)
@[simp] theorem updNode_pwr (s : State) (n : Fin 256) (f : NodeSt → NodeSt) : (updNode s n f).pwr = s.pwr := (rfl)
@[simp] theorem updNode_stw (s : State) (n : Fin 256) (f : NodeSt → NodeSt) : (updNode s n f).stw = s.stw := (rfl)
@[simp] theorem updNode_mgn (s : State) (n : Fin 256) (f : NodeSt → NodeSt) : (updNode s n f).mgn = s.mgn := (rfl)
@[simp] theorem updNode_fol (s : State) (n : Fin 256) (f : NodeSt → NodeSt) : (updNode s n f).fol = s.fol := (rfl)
@[simp] theorem updNode_hst (s : State) (n : Fin 256) (f : NodeSt → NodeSt) : (updNode s n f).hst = s.hst := (rfl)

/-! ### updPort -/

@[simp] theorem updPort_pending (s : State) (p : Fin 4) (f : PortSt → PortSt) : (updPort s p f).pending = s.pending := (rfl)
@[simp] theorem updPort_tick (s : State) (p : Fin 4) (f : PortSt → PortSt) : (updPort s p f).tick = s.tick := (rfl)
@[simp] theorem updPort_free (s : State) (p : Fin 4) (f : PortSt → PortSt) : (updPort s p f).free = s.free := (rfl)
@[simp] theorem updPort_regs (s : State) (p : Fin 4) (f : PortSt → PortSt) : (updPort s p f).regs = s.regs := (rfl)
@[simp] theorem updPort_mem (s : State) (p : Fin 4) (f : PortSt → PortSt) : (updPort s p f).mem = s.mem := (rfl)
@[simp] theorem updPort_wmem (s : State) (p : Fin 4) (f : PortSt → PortSt) : (updPort s p f).wmem = s.wmem := (rfl)
@[simp] theorem updPort_base (s : State) (p : Fin 4) (f : PortSt → PortSt) : (updPort s p f).base = s.base := (rfl)
@[simp] theorem updPort_eng (s : State) (p : Fin 4) (f : PortSt → PortSt) : (updPort s p f).eng = s.eng := (rfl)
@[simp] theorem updPort_ink (s : State) (p : Fin 4) (f : PortSt → PortSt) : (updPort s p f).ink = s.ink := (rfl)
@[simp] theorem updPort_axcfg (s : State) (p : Fin 4) (f : PortSt → PortSt) : (updPort s p f).axcfg = s.axcfg := (rfl)
@[simp] theorem updPort_ax (s : State) (p : Fin 4) (f : PortSt → PortSt) : (updPort s p f).ax = s.ax := (rfl)
@[simp] theorem updPort_grp (s : State) (p : Fin 4) (f : PortSt → PortSt) : (updPort s p f).grp = s.grp := (rfl)
@[simp] theorem updPort_wave (s : State) (p : Fin 4) (f : PortSt → PortSt) : (updPort s p f).wave = s.wave := (rfl)
@[simp] theorem updPort_drafts (s : State) (p : Fin 4) (f : PortSt → PortSt) : (updPort s p f).drafts = s.drafts := (rfl)
@[simp] theorem updPort_loads (s : State) (p : Fin 4) (f : PortSt → PortSt) : (updPort s p f).loads = s.loads := (rfl)
@[simp] theorem updPort_pins (s : State) (p : Fin 4) (f : PortSt → PortSt) : (updPort s p f).pins = s.pins := (rfl)
@[simp] theorem updPort_dct (s : State) (p : Fin 4) (f : PortSt → PortSt) : (updPort s p f).dct = s.dct := (rfl)
@[simp] theorem updPort_lf (s : State) (p : Fin 4) (f : PortSt → PortSt) : (updPort s p f).lf = s.lf := (rfl)
@[simp] theorem updPort_cap (s : State) (p : Fin 4) (f : PortSt → PortSt) : (updPort s p f).cap = s.cap := (rfl)
@[simp] theorem updPort_tp (s : State) (p : Fin 4) (f : PortSt → PortSt) : (updPort s p f).tp = s.tp := (rfl)
@[simp] theorem updPort_sb (s : State) (p : Fin 4) (f : PortSt → PortSt) : (updPort s p f).sb = s.sb := (rfl)
@[simp] theorem updPort_pln (s : State) (p : Fin 4) (f : PortSt → PortSt) : (updPort s p f).pln = { s.pln with port := s.pln.port.upd p f } := (rfl)
@[simp] theorem updPort_isl (s : State) (p : Fin 4) (f : PortSt → PortSt) : (updPort s p f).isl = s.isl := (rfl)
@[simp] theorem updPort_pwr (s : State) (p : Fin 4) (f : PortSt → PortSt) : (updPort s p f).pwr = s.pwr := (rfl)
@[simp] theorem updPort_stw (s : State) (p : Fin 4) (f : PortSt → PortSt) : (updPort s p f).stw = s.stw := (rfl)
@[simp] theorem updPort_mgn (s : State) (p : Fin 4) (f : PortSt → PortSt) : (updPort s p f).mgn = s.mgn := (rfl)
@[simp] theorem updPort_fol (s : State) (p : Fin 4) (f : PortSt → PortSt) : (updPort s p f).fol = s.fol := (rfl)
@[simp] theorem updPort_hst (s : State) (p : Fin 4) (f : PortSt → PortSt) : (updPort s p f).hst = s.hst := (rfl)

/-! ### updCh -/

@[simp] theorem updCh_pending (s : State) (c : Bool) (f : ChSt → ChSt) : (updCh s c f).pending = s.pending := (rfl)
@[simp] theorem updCh_tick (s : State) (c : Bool) (f : ChSt → ChSt) : (updCh s c f).tick = s.tick := (rfl)
@[simp] theorem updCh_free (s : State) (c : Bool) (f : ChSt → ChSt) : (updCh s c f).free = s.free := (rfl)
@[simp] theorem updCh_regs (s : State) (c : Bool) (f : ChSt → ChSt) : (updCh s c f).regs = s.regs := (rfl)
@[simp] theorem updCh_mem (s : State) (c : Bool) (f : ChSt → ChSt) : (updCh s c f).mem = s.mem := (rfl)
@[simp] theorem updCh_wmem (s : State) (c : Bool) (f : ChSt → ChSt) : (updCh s c f).wmem = s.wmem := (rfl)
@[simp] theorem updCh_base (s : State) (c : Bool) (f : ChSt → ChSt) : (updCh s c f).base = s.base := (rfl)
@[simp] theorem updCh_eng (s : State) (c : Bool) (f : ChSt → ChSt) : (updCh s c f).eng = s.eng := (rfl)
@[simp] theorem updCh_ink (s : State) (c : Bool) (f : ChSt → ChSt) : (updCh s c f).ink = s.ink := (rfl)
@[simp] theorem updCh_axcfg (s : State) (c : Bool) (f : ChSt → ChSt) : (updCh s c f).axcfg = s.axcfg := (rfl)
@[simp] theorem updCh_ax (s : State) (c : Bool) (f : ChSt → ChSt) : (updCh s c f).ax = s.ax := (rfl)
@[simp] theorem updCh_grp (s : State) (c : Bool) (f : ChSt → ChSt) : (updCh s c f).grp = s.grp := (rfl)
@[simp] theorem updCh_wave (s : State) (c : Bool) (f : ChSt → ChSt) : (updCh s c f).wave = s.wave := (rfl)
@[simp] theorem updCh_drafts (s : State) (c : Bool) (f : ChSt → ChSt) : (updCh s c f).drafts = s.drafts := (rfl)
@[simp] theorem updCh_loads (s : State) (c : Bool) (f : ChSt → ChSt) : (updCh s c f).loads = s.loads := (rfl)
@[simp] theorem updCh_pins (s : State) (c : Bool) (f : ChSt → ChSt) : (updCh s c f).pins = s.pins := (rfl)
@[simp] theorem updCh_dct (s : State) (c : Bool) (f : ChSt → ChSt) : (updCh s c f).dct = s.dct := (rfl)
@[simp] theorem updCh_lf (s : State) (c : Bool) (f : ChSt → ChSt) : (updCh s c f).lf = s.lf := (rfl)
@[simp] theorem updCh_cap (s : State) (c : Bool) (f : ChSt → ChSt) : (updCh s c f).cap = s.cap := (rfl)
@[simp] theorem updCh_tp (s : State) (c : Bool) (f : ChSt → ChSt) : (updCh s c f).tp = s.tp := (rfl)
@[simp] theorem updCh_sb (s : State) (c : Bool) (f : ChSt → ChSt) : (updCh s c f).sb = s.sb := (rfl)
@[simp] theorem updCh_pln (s : State) (c : Bool) (f : ChSt → ChSt) : (updCh s c f).pln = { s.pln with ch := s.pln.ch.set c (f (s.pln.ch.get c)) } := (rfl)
@[simp] theorem updCh_isl (s : State) (c : Bool) (f : ChSt → ChSt) : (updCh s c f).isl = s.isl := (rfl)
@[simp] theorem updCh_pwr (s : State) (c : Bool) (f : ChSt → ChSt) : (updCh s c f).pwr = s.pwr := (rfl)
@[simp] theorem updCh_stw (s : State) (c : Bool) (f : ChSt → ChSt) : (updCh s c f).stw = s.stw := (rfl)
@[simp] theorem updCh_mgn (s : State) (c : Bool) (f : ChSt → ChSt) : (updCh s c f).mgn = s.mgn := (rfl)
@[simp] theorem updCh_fol (s : State) (c : Bool) (f : ChSt → ChSt) : (updCh s c f).fol = s.fol := (rfl)
@[simp] theorem updCh_hst (s : State) (c : Bool) (f : ChSt → ChSt) : (updCh s c f).hst = s.hst := (rfl)

/-! ### updIsl -/

@[simp] theorem updIsl_pending (s : State) (f : Isl → Isl) : (updIsl s f).pending = s.pending := (rfl)
@[simp] theorem updIsl_tick (s : State) (f : Isl → Isl) : (updIsl s f).tick = s.tick := (rfl)
@[simp] theorem updIsl_free (s : State) (f : Isl → Isl) : (updIsl s f).free = s.free := (rfl)
@[simp] theorem updIsl_regs (s : State) (f : Isl → Isl) : (updIsl s f).regs = s.regs := (rfl)
@[simp] theorem updIsl_mem (s : State) (f : Isl → Isl) : (updIsl s f).mem = s.mem := (rfl)
@[simp] theorem updIsl_wmem (s : State) (f : Isl → Isl) : (updIsl s f).wmem = s.wmem := (rfl)
@[simp] theorem updIsl_base (s : State) (f : Isl → Isl) : (updIsl s f).base = s.base := (rfl)
@[simp] theorem updIsl_eng (s : State) (f : Isl → Isl) : (updIsl s f).eng = s.eng := (rfl)
@[simp] theorem updIsl_ink (s : State) (f : Isl → Isl) : (updIsl s f).ink = s.ink := (rfl)
@[simp] theorem updIsl_axcfg (s : State) (f : Isl → Isl) : (updIsl s f).axcfg = s.axcfg := (rfl)
@[simp] theorem updIsl_ax (s : State) (f : Isl → Isl) : (updIsl s f).ax = s.ax := (rfl)
@[simp] theorem updIsl_grp (s : State) (f : Isl → Isl) : (updIsl s f).grp = s.grp := (rfl)
@[simp] theorem updIsl_wave (s : State) (f : Isl → Isl) : (updIsl s f).wave = s.wave := (rfl)
@[simp] theorem updIsl_drafts (s : State) (f : Isl → Isl) : (updIsl s f).drafts = s.drafts := (rfl)
@[simp] theorem updIsl_loads (s : State) (f : Isl → Isl) : (updIsl s f).loads = s.loads := (rfl)
@[simp] theorem updIsl_pins (s : State) (f : Isl → Isl) : (updIsl s f).pins = s.pins := (rfl)
@[simp] theorem updIsl_dct (s : State) (f : Isl → Isl) : (updIsl s f).dct = s.dct := (rfl)
@[simp] theorem updIsl_lf (s : State) (f : Isl → Isl) : (updIsl s f).lf = s.lf := (rfl)
@[simp] theorem updIsl_cap (s : State) (f : Isl → Isl) : (updIsl s f).cap = s.cap := (rfl)
@[simp] theorem updIsl_tp (s : State) (f : Isl → Isl) : (updIsl s f).tp = s.tp := (rfl)
@[simp] theorem updIsl_sb (s : State) (f : Isl → Isl) : (updIsl s f).sb = s.sb := (rfl)
@[simp] theorem updIsl_pln (s : State) (f : Isl → Isl) : (updIsl s f).pln = s.pln := (rfl)
@[simp] theorem updIsl_isl (s : State) (f : Isl → Isl) : (updIsl s f).isl = f s.isl := (rfl)
@[simp] theorem updIsl_pwr (s : State) (f : Isl → Isl) : (updIsl s f).pwr = s.pwr := (rfl)
@[simp] theorem updIsl_stw (s : State) (f : Isl → Isl) : (updIsl s f).stw = s.stw := (rfl)
@[simp] theorem updIsl_mgn (s : State) (f : Isl → Isl) : (updIsl s f).mgn = s.mgn := (rfl)
@[simp] theorem updIsl_fol (s : State) (f : Isl → Isl) : (updIsl s f).fol = s.fol := (rfl)
@[simp] theorem updIsl_hst (s : State) (f : Isl → Isl) : (updIsl s f).hst = s.hst := (rfl)

/-! ### updPwr -/

@[simp] theorem updPwr_pending (s : State) (f : Pwr → Pwr) : (updPwr s f).pending = s.pending := (rfl)
@[simp] theorem updPwr_tick (s : State) (f : Pwr → Pwr) : (updPwr s f).tick = s.tick := (rfl)
@[simp] theorem updPwr_free (s : State) (f : Pwr → Pwr) : (updPwr s f).free = s.free := (rfl)
@[simp] theorem updPwr_regs (s : State) (f : Pwr → Pwr) : (updPwr s f).regs = s.regs := (rfl)
@[simp] theorem updPwr_mem (s : State) (f : Pwr → Pwr) : (updPwr s f).mem = s.mem := (rfl)
@[simp] theorem updPwr_wmem (s : State) (f : Pwr → Pwr) : (updPwr s f).wmem = s.wmem := (rfl)
@[simp] theorem updPwr_base (s : State) (f : Pwr → Pwr) : (updPwr s f).base = s.base := (rfl)
@[simp] theorem updPwr_eng (s : State) (f : Pwr → Pwr) : (updPwr s f).eng = s.eng := (rfl)
@[simp] theorem updPwr_ink (s : State) (f : Pwr → Pwr) : (updPwr s f).ink = s.ink := (rfl)
@[simp] theorem updPwr_axcfg (s : State) (f : Pwr → Pwr) : (updPwr s f).axcfg = s.axcfg := (rfl)
@[simp] theorem updPwr_ax (s : State) (f : Pwr → Pwr) : (updPwr s f).ax = s.ax := (rfl)
@[simp] theorem updPwr_grp (s : State) (f : Pwr → Pwr) : (updPwr s f).grp = s.grp := (rfl)
@[simp] theorem updPwr_wave (s : State) (f : Pwr → Pwr) : (updPwr s f).wave = s.wave := (rfl)
@[simp] theorem updPwr_drafts (s : State) (f : Pwr → Pwr) : (updPwr s f).drafts = s.drafts := (rfl)
@[simp] theorem updPwr_loads (s : State) (f : Pwr → Pwr) : (updPwr s f).loads = s.loads := (rfl)
@[simp] theorem updPwr_pins (s : State) (f : Pwr → Pwr) : (updPwr s f).pins = s.pins := (rfl)
@[simp] theorem updPwr_dct (s : State) (f : Pwr → Pwr) : (updPwr s f).dct = s.dct := (rfl)
@[simp] theorem updPwr_lf (s : State) (f : Pwr → Pwr) : (updPwr s f).lf = s.lf := (rfl)
@[simp] theorem updPwr_cap (s : State) (f : Pwr → Pwr) : (updPwr s f).cap = s.cap := (rfl)
@[simp] theorem updPwr_tp (s : State) (f : Pwr → Pwr) : (updPwr s f).tp = s.tp := (rfl)
@[simp] theorem updPwr_sb (s : State) (f : Pwr → Pwr) : (updPwr s f).sb = s.sb := (rfl)
@[simp] theorem updPwr_pln (s : State) (f : Pwr → Pwr) : (updPwr s f).pln = s.pln := (rfl)
@[simp] theorem updPwr_isl (s : State) (f : Pwr → Pwr) : (updPwr s f).isl = s.isl := (rfl)
@[simp] theorem updPwr_pwr (s : State) (f : Pwr → Pwr) : (updPwr s f).pwr = f s.pwr := (rfl)
@[simp] theorem updPwr_stw (s : State) (f : Pwr → Pwr) : (updPwr s f).stw = s.stw := (rfl)
@[simp] theorem updPwr_mgn (s : State) (f : Pwr → Pwr) : (updPwr s f).mgn = s.mgn := (rfl)
@[simp] theorem updPwr_fol (s : State) (f : Pwr → Pwr) : (updPwr s f).fol = s.fol := (rfl)
@[simp] theorem updPwr_hst (s : State) (f : Pwr → Pwr) : (updPwr s f).hst = s.hst := (rfl)

/-! ### updStw -/

@[simp] theorem updStw_pending (s : State) (f : Stw → Stw) : (updStw s f).pending = s.pending := (rfl)
@[simp] theorem updStw_tick (s : State) (f : Stw → Stw) : (updStw s f).tick = s.tick := (rfl)
@[simp] theorem updStw_free (s : State) (f : Stw → Stw) : (updStw s f).free = s.free := (rfl)
@[simp] theorem updStw_regs (s : State) (f : Stw → Stw) : (updStw s f).regs = s.regs := (rfl)
@[simp] theorem updStw_mem (s : State) (f : Stw → Stw) : (updStw s f).mem = s.mem := (rfl)
@[simp] theorem updStw_wmem (s : State) (f : Stw → Stw) : (updStw s f).wmem = s.wmem := (rfl)
@[simp] theorem updStw_base (s : State) (f : Stw → Stw) : (updStw s f).base = s.base := (rfl)
@[simp] theorem updStw_eng (s : State) (f : Stw → Stw) : (updStw s f).eng = s.eng := (rfl)
@[simp] theorem updStw_ink (s : State) (f : Stw → Stw) : (updStw s f).ink = s.ink := (rfl)
@[simp] theorem updStw_axcfg (s : State) (f : Stw → Stw) : (updStw s f).axcfg = s.axcfg := (rfl)
@[simp] theorem updStw_ax (s : State) (f : Stw → Stw) : (updStw s f).ax = s.ax := (rfl)
@[simp] theorem updStw_grp (s : State) (f : Stw → Stw) : (updStw s f).grp = s.grp := (rfl)
@[simp] theorem updStw_wave (s : State) (f : Stw → Stw) : (updStw s f).wave = s.wave := (rfl)
@[simp] theorem updStw_drafts (s : State) (f : Stw → Stw) : (updStw s f).drafts = s.drafts := (rfl)
@[simp] theorem updStw_loads (s : State) (f : Stw → Stw) : (updStw s f).loads = s.loads := (rfl)
@[simp] theorem updStw_pins (s : State) (f : Stw → Stw) : (updStw s f).pins = s.pins := (rfl)
@[simp] theorem updStw_dct (s : State) (f : Stw → Stw) : (updStw s f).dct = s.dct := (rfl)
@[simp] theorem updStw_lf (s : State) (f : Stw → Stw) : (updStw s f).lf = s.lf := (rfl)
@[simp] theorem updStw_cap (s : State) (f : Stw → Stw) : (updStw s f).cap = s.cap := (rfl)
@[simp] theorem updStw_tp (s : State) (f : Stw → Stw) : (updStw s f).tp = s.tp := (rfl)
@[simp] theorem updStw_sb (s : State) (f : Stw → Stw) : (updStw s f).sb = s.sb := (rfl)
@[simp] theorem updStw_pln (s : State) (f : Stw → Stw) : (updStw s f).pln = s.pln := (rfl)
@[simp] theorem updStw_isl (s : State) (f : Stw → Stw) : (updStw s f).isl = s.isl := (rfl)
@[simp] theorem updStw_pwr (s : State) (f : Stw → Stw) : (updStw s f).pwr = s.pwr := (rfl)
@[simp] theorem updStw_stw (s : State) (f : Stw → Stw) : (updStw s f).stw = f s.stw := (rfl)
@[simp] theorem updStw_mgn (s : State) (f : Stw → Stw) : (updStw s f).mgn = s.mgn := (rfl)
@[simp] theorem updStw_fol (s : State) (f : Stw → Stw) : (updStw s f).fol = s.fol := (rfl)
@[simp] theorem updStw_hst (s : State) (f : Stw → Stw) : (updStw s f).hst = s.hst := (rfl)

/-! ### updMgn -/

@[simp] theorem updMgn_pending (s : State) (f : Mgn → Mgn) : (updMgn s f).pending = s.pending := (rfl)
@[simp] theorem updMgn_tick (s : State) (f : Mgn → Mgn) : (updMgn s f).tick = s.tick := (rfl)
@[simp] theorem updMgn_free (s : State) (f : Mgn → Mgn) : (updMgn s f).free = s.free := (rfl)
@[simp] theorem updMgn_regs (s : State) (f : Mgn → Mgn) : (updMgn s f).regs = s.regs := (rfl)
@[simp] theorem updMgn_mem (s : State) (f : Mgn → Mgn) : (updMgn s f).mem = s.mem := (rfl)
@[simp] theorem updMgn_wmem (s : State) (f : Mgn → Mgn) : (updMgn s f).wmem = s.wmem := (rfl)
@[simp] theorem updMgn_base (s : State) (f : Mgn → Mgn) : (updMgn s f).base = s.base := (rfl)
@[simp] theorem updMgn_eng (s : State) (f : Mgn → Mgn) : (updMgn s f).eng = s.eng := (rfl)
@[simp] theorem updMgn_ink (s : State) (f : Mgn → Mgn) : (updMgn s f).ink = s.ink := (rfl)
@[simp] theorem updMgn_axcfg (s : State) (f : Mgn → Mgn) : (updMgn s f).axcfg = s.axcfg := (rfl)
@[simp] theorem updMgn_ax (s : State) (f : Mgn → Mgn) : (updMgn s f).ax = s.ax := (rfl)
@[simp] theorem updMgn_grp (s : State) (f : Mgn → Mgn) : (updMgn s f).grp = s.grp := (rfl)
@[simp] theorem updMgn_wave (s : State) (f : Mgn → Mgn) : (updMgn s f).wave = s.wave := (rfl)
@[simp] theorem updMgn_drafts (s : State) (f : Mgn → Mgn) : (updMgn s f).drafts = s.drafts := (rfl)
@[simp] theorem updMgn_loads (s : State) (f : Mgn → Mgn) : (updMgn s f).loads = s.loads := (rfl)
@[simp] theorem updMgn_pins (s : State) (f : Mgn → Mgn) : (updMgn s f).pins = s.pins := (rfl)
@[simp] theorem updMgn_dct (s : State) (f : Mgn → Mgn) : (updMgn s f).dct = s.dct := (rfl)
@[simp] theorem updMgn_lf (s : State) (f : Mgn → Mgn) : (updMgn s f).lf = s.lf := (rfl)
@[simp] theorem updMgn_cap (s : State) (f : Mgn → Mgn) : (updMgn s f).cap = s.cap := (rfl)
@[simp] theorem updMgn_tp (s : State) (f : Mgn → Mgn) : (updMgn s f).tp = s.tp := (rfl)
@[simp] theorem updMgn_sb (s : State) (f : Mgn → Mgn) : (updMgn s f).sb = s.sb := (rfl)
@[simp] theorem updMgn_pln (s : State) (f : Mgn → Mgn) : (updMgn s f).pln = s.pln := (rfl)
@[simp] theorem updMgn_isl (s : State) (f : Mgn → Mgn) : (updMgn s f).isl = s.isl := (rfl)
@[simp] theorem updMgn_pwr (s : State) (f : Mgn → Mgn) : (updMgn s f).pwr = s.pwr := (rfl)
@[simp] theorem updMgn_stw (s : State) (f : Mgn → Mgn) : (updMgn s f).stw = s.stw := (rfl)
@[simp] theorem updMgn_mgn (s : State) (f : Mgn → Mgn) : (updMgn s f).mgn = f s.mgn := (rfl)
@[simp] theorem updMgn_fol (s : State) (f : Mgn → Mgn) : (updMgn s f).fol = s.fol := (rfl)
@[simp] theorem updMgn_hst (s : State) (f : Mgn → Mgn) : (updMgn s f).hst = s.hst := (rfl)

/-! ### updFol -/

@[simp] theorem updFol_pending (s : State) (f : Fol → Fol) : (updFol s f).pending = s.pending := (rfl)
@[simp] theorem updFol_tick (s : State) (f : Fol → Fol) : (updFol s f).tick = s.tick := (rfl)
@[simp] theorem updFol_free (s : State) (f : Fol → Fol) : (updFol s f).free = s.free := (rfl)
@[simp] theorem updFol_regs (s : State) (f : Fol → Fol) : (updFol s f).regs = s.regs := (rfl)
@[simp] theorem updFol_mem (s : State) (f : Fol → Fol) : (updFol s f).mem = s.mem := (rfl)
@[simp] theorem updFol_wmem (s : State) (f : Fol → Fol) : (updFol s f).wmem = s.wmem := (rfl)
@[simp] theorem updFol_base (s : State) (f : Fol → Fol) : (updFol s f).base = s.base := (rfl)
@[simp] theorem updFol_eng (s : State) (f : Fol → Fol) : (updFol s f).eng = s.eng := (rfl)
@[simp] theorem updFol_ink (s : State) (f : Fol → Fol) : (updFol s f).ink = s.ink := (rfl)
@[simp] theorem updFol_axcfg (s : State) (f : Fol → Fol) : (updFol s f).axcfg = s.axcfg := (rfl)
@[simp] theorem updFol_ax (s : State) (f : Fol → Fol) : (updFol s f).ax = s.ax := (rfl)
@[simp] theorem updFol_grp (s : State) (f : Fol → Fol) : (updFol s f).grp = s.grp := (rfl)
@[simp] theorem updFol_wave (s : State) (f : Fol → Fol) : (updFol s f).wave = s.wave := (rfl)
@[simp] theorem updFol_drafts (s : State) (f : Fol → Fol) : (updFol s f).drafts = s.drafts := (rfl)
@[simp] theorem updFol_loads (s : State) (f : Fol → Fol) : (updFol s f).loads = s.loads := (rfl)
@[simp] theorem updFol_pins (s : State) (f : Fol → Fol) : (updFol s f).pins = s.pins := (rfl)
@[simp] theorem updFol_dct (s : State) (f : Fol → Fol) : (updFol s f).dct = s.dct := (rfl)
@[simp] theorem updFol_lf (s : State) (f : Fol → Fol) : (updFol s f).lf = s.lf := (rfl)
@[simp] theorem updFol_cap (s : State) (f : Fol → Fol) : (updFol s f).cap = s.cap := (rfl)
@[simp] theorem updFol_tp (s : State) (f : Fol → Fol) : (updFol s f).tp = s.tp := (rfl)
@[simp] theorem updFol_sb (s : State) (f : Fol → Fol) : (updFol s f).sb = s.sb := (rfl)
@[simp] theorem updFol_pln (s : State) (f : Fol → Fol) : (updFol s f).pln = s.pln := (rfl)
@[simp] theorem updFol_isl (s : State) (f : Fol → Fol) : (updFol s f).isl = s.isl := (rfl)
@[simp] theorem updFol_pwr (s : State) (f : Fol → Fol) : (updFol s f).pwr = s.pwr := (rfl)
@[simp] theorem updFol_stw (s : State) (f : Fol → Fol) : (updFol s f).stw = s.stw := (rfl)
@[simp] theorem updFol_mgn (s : State) (f : Fol → Fol) : (updFol s f).mgn = s.mgn := (rfl)
@[simp] theorem updFol_fol (s : State) (f : Fol → Fol) : (updFol s f).fol = f s.fol := (rfl)
@[simp] theorem updFol_hst (s : State) (f : Fol → Fol) : (updFol s f).hst = s.hst := (rfl)

/-! ### updHst -/

@[simp] theorem updHst_pending (s : State) (f : Hst → Hst) : (updHst s f).pending = s.pending := (rfl)
@[simp] theorem updHst_tick (s : State) (f : Hst → Hst) : (updHst s f).tick = s.tick := (rfl)
@[simp] theorem updHst_free (s : State) (f : Hst → Hst) : (updHst s f).free = s.free := (rfl)
@[simp] theorem updHst_regs (s : State) (f : Hst → Hst) : (updHst s f).regs = s.regs := (rfl)
@[simp] theorem updHst_mem (s : State) (f : Hst → Hst) : (updHst s f).mem = s.mem := (rfl)
@[simp] theorem updHst_wmem (s : State) (f : Hst → Hst) : (updHst s f).wmem = s.wmem := (rfl)
@[simp] theorem updHst_base (s : State) (f : Hst → Hst) : (updHst s f).base = s.base := (rfl)
@[simp] theorem updHst_eng (s : State) (f : Hst → Hst) : (updHst s f).eng = s.eng := (rfl)
@[simp] theorem updHst_ink (s : State) (f : Hst → Hst) : (updHst s f).ink = s.ink := (rfl)
@[simp] theorem updHst_axcfg (s : State) (f : Hst → Hst) : (updHst s f).axcfg = s.axcfg := (rfl)
@[simp] theorem updHst_ax (s : State) (f : Hst → Hst) : (updHst s f).ax = s.ax := (rfl)
@[simp] theorem updHst_grp (s : State) (f : Hst → Hst) : (updHst s f).grp = s.grp := (rfl)
@[simp] theorem updHst_wave (s : State) (f : Hst → Hst) : (updHst s f).wave = s.wave := (rfl)
@[simp] theorem updHst_drafts (s : State) (f : Hst → Hst) : (updHst s f).drafts = s.drafts := (rfl)
@[simp] theorem updHst_loads (s : State) (f : Hst → Hst) : (updHst s f).loads = s.loads := (rfl)
@[simp] theorem updHst_pins (s : State) (f : Hst → Hst) : (updHst s f).pins = s.pins := (rfl)
@[simp] theorem updHst_dct (s : State) (f : Hst → Hst) : (updHst s f).dct = s.dct := (rfl)
@[simp] theorem updHst_lf (s : State) (f : Hst → Hst) : (updHst s f).lf = s.lf := (rfl)
@[simp] theorem updHst_cap (s : State) (f : Hst → Hst) : (updHst s f).cap = s.cap := (rfl)
@[simp] theorem updHst_tp (s : State) (f : Hst → Hst) : (updHst s f).tp = s.tp := (rfl)
@[simp] theorem updHst_sb (s : State) (f : Hst → Hst) : (updHst s f).sb = s.sb := (rfl)
@[simp] theorem updHst_pln (s : State) (f : Hst → Hst) : (updHst s f).pln = s.pln := (rfl)
@[simp] theorem updHst_isl (s : State) (f : Hst → Hst) : (updHst s f).isl = s.isl := (rfl)
@[simp] theorem updHst_pwr (s : State) (f : Hst → Hst) : (updHst s f).pwr = s.pwr := (rfl)
@[simp] theorem updHst_stw (s : State) (f : Hst → Hst) : (updHst s f).stw = s.stw := (rfl)
@[simp] theorem updHst_mgn (s : State) (f : Hst → Hst) : (updHst s f).mgn = s.mgn := (rfl)
@[simp] theorem updHst_fol (s : State) (f : Hst → Hst) : (updHst s f).fol = s.fol := (rfl)
@[simp] theorem updHst_hst (s : State) (f : Hst → Hst) : (updHst s f).hst = f s.hst := (rfl)

/-! ### updQueue -/

@[simp] theorem updQueue_pending (s : State) (q : Fin 8) (f : HQueue → HQueue) : (updQueue s q f).pending = s.pending := (rfl)
@[simp] theorem updQueue_tick (s : State) (q : Fin 8) (f : HQueue → HQueue) : (updQueue s q f).tick = s.tick := (rfl)
@[simp] theorem updQueue_free (s : State) (q : Fin 8) (f : HQueue → HQueue) : (updQueue s q f).free = s.free := (rfl)
@[simp] theorem updQueue_regs (s : State) (q : Fin 8) (f : HQueue → HQueue) : (updQueue s q f).regs = s.regs := (rfl)
@[simp] theorem updQueue_mem (s : State) (q : Fin 8) (f : HQueue → HQueue) : (updQueue s q f).mem = s.mem := (rfl)
@[simp] theorem updQueue_wmem (s : State) (q : Fin 8) (f : HQueue → HQueue) : (updQueue s q f).wmem = s.wmem := (rfl)
@[simp] theorem updQueue_base (s : State) (q : Fin 8) (f : HQueue → HQueue) : (updQueue s q f).base = s.base := (rfl)
@[simp] theorem updQueue_eng (s : State) (q : Fin 8) (f : HQueue → HQueue) : (updQueue s q f).eng = s.eng := (rfl)
@[simp] theorem updQueue_ink (s : State) (q : Fin 8) (f : HQueue → HQueue) : (updQueue s q f).ink = s.ink := (rfl)
@[simp] theorem updQueue_axcfg (s : State) (q : Fin 8) (f : HQueue → HQueue) : (updQueue s q f).axcfg = s.axcfg := (rfl)
@[simp] theorem updQueue_ax (s : State) (q : Fin 8) (f : HQueue → HQueue) : (updQueue s q f).ax = s.ax := (rfl)
@[simp] theorem updQueue_grp (s : State) (q : Fin 8) (f : HQueue → HQueue) : (updQueue s q f).grp = s.grp := (rfl)
@[simp] theorem updQueue_wave (s : State) (q : Fin 8) (f : HQueue → HQueue) : (updQueue s q f).wave = s.wave := (rfl)
@[simp] theorem updQueue_drafts (s : State) (q : Fin 8) (f : HQueue → HQueue) : (updQueue s q f).drafts = s.drafts := (rfl)
@[simp] theorem updQueue_loads (s : State) (q : Fin 8) (f : HQueue → HQueue) : (updQueue s q f).loads = s.loads := (rfl)
@[simp] theorem updQueue_pins (s : State) (q : Fin 8) (f : HQueue → HQueue) : (updQueue s q f).pins = s.pins := (rfl)
@[simp] theorem updQueue_dct (s : State) (q : Fin 8) (f : HQueue → HQueue) : (updQueue s q f).dct = s.dct := (rfl)
@[simp] theorem updQueue_lf (s : State) (q : Fin 8) (f : HQueue → HQueue) : (updQueue s q f).lf = s.lf := (rfl)
@[simp] theorem updQueue_cap (s : State) (q : Fin 8) (f : HQueue → HQueue) : (updQueue s q f).cap = s.cap := (rfl)
@[simp] theorem updQueue_tp (s : State) (q : Fin 8) (f : HQueue → HQueue) : (updQueue s q f).tp = s.tp := (rfl)
@[simp] theorem updQueue_sb (s : State) (q : Fin 8) (f : HQueue → HQueue) : (updQueue s q f).sb = s.sb := (rfl)
@[simp] theorem updQueue_pln (s : State) (q : Fin 8) (f : HQueue → HQueue) : (updQueue s q f).pln = s.pln := (rfl)
@[simp] theorem updQueue_isl (s : State) (q : Fin 8) (f : HQueue → HQueue) : (updQueue s q f).isl = s.isl := (rfl)
@[simp] theorem updQueue_pwr (s : State) (q : Fin 8) (f : HQueue → HQueue) : (updQueue s q f).pwr = s.pwr := (rfl)
@[simp] theorem updQueue_stw (s : State) (q : Fin 8) (f : HQueue → HQueue) : (updQueue s q f).stw = s.stw := (rfl)
@[simp] theorem updQueue_mgn (s : State) (q : Fin 8) (f : HQueue → HQueue) : (updQueue s q f).mgn = s.mgn := (rfl)
@[simp] theorem updQueue_fol (s : State) (q : Fin 8) (f : HQueue → HQueue) : (updQueue s q f).fol = s.fol := (rfl)
@[simp] theorem updQueue_hst (s : State) (q : Fin 8) (f : HQueue → HQueue) : (updQueue s q f).hst = { s.hst with queue := s.hst.queue.upd q f } := (rfl)

/-! ### updBase -/

@[simp] theorem updBase_pending (s : State) (f : Base → Base) : (updBase s f).pending = s.pending := (rfl)
@[simp] theorem updBase_tick (s : State) (f : Base → Base) : (updBase s f).tick = s.tick := (rfl)
@[simp] theorem updBase_free (s : State) (f : Base → Base) : (updBase s f).free = s.free := (rfl)
@[simp] theorem updBase_regs (s : State) (f : Base → Base) : (updBase s f).regs = s.regs := (rfl)
@[simp] theorem updBase_mem (s : State) (f : Base → Base) : (updBase s f).mem = s.mem := (rfl)
@[simp] theorem updBase_wmem (s : State) (f : Base → Base) : (updBase s f).wmem = s.wmem := (rfl)
@[simp] theorem updBase_base (s : State) (f : Base → Base) : (updBase s f).base = f s.base := (rfl)
@[simp] theorem updBase_eng (s : State) (f : Base → Base) : (updBase s f).eng = s.eng := (rfl)
@[simp] theorem updBase_ink (s : State) (f : Base → Base) : (updBase s f).ink = s.ink := (rfl)
@[simp] theorem updBase_axcfg (s : State) (f : Base → Base) : (updBase s f).axcfg = s.axcfg := (rfl)
@[simp] theorem updBase_ax (s : State) (f : Base → Base) : (updBase s f).ax = s.ax := (rfl)
@[simp] theorem updBase_grp (s : State) (f : Base → Base) : (updBase s f).grp = s.grp := (rfl)
@[simp] theorem updBase_wave (s : State) (f : Base → Base) : (updBase s f).wave = s.wave := (rfl)
@[simp] theorem updBase_drafts (s : State) (f : Base → Base) : (updBase s f).drafts = s.drafts := (rfl)
@[simp] theorem updBase_loads (s : State) (f : Base → Base) : (updBase s f).loads = s.loads := (rfl)
@[simp] theorem updBase_pins (s : State) (f : Base → Base) : (updBase s f).pins = s.pins := (rfl)
@[simp] theorem updBase_dct (s : State) (f : Base → Base) : (updBase s f).dct = s.dct := (rfl)
@[simp] theorem updBase_lf (s : State) (f : Base → Base) : (updBase s f).lf = s.lf := (rfl)
@[simp] theorem updBase_cap (s : State) (f : Base → Base) : (updBase s f).cap = s.cap := (rfl)
@[simp] theorem updBase_tp (s : State) (f : Base → Base) : (updBase s f).tp = s.tp := (rfl)
@[simp] theorem updBase_sb (s : State) (f : Base → Base) : (updBase s f).sb = s.sb := (rfl)
@[simp] theorem updBase_pln (s : State) (f : Base → Base) : (updBase s f).pln = s.pln := (rfl)
@[simp] theorem updBase_isl (s : State) (f : Base → Base) : (updBase s f).isl = s.isl := (rfl)
@[simp] theorem updBase_pwr (s : State) (f : Base → Base) : (updBase s f).pwr = s.pwr := (rfl)
@[simp] theorem updBase_stw (s : State) (f : Base → Base) : (updBase s f).stw = s.stw := (rfl)
@[simp] theorem updBase_mgn (s : State) (f : Base → Base) : (updBase s f).mgn = s.mgn := (rfl)
@[simp] theorem updBase_fol (s : State) (f : Base → Base) : (updBase s f).fol = s.fol := (rfl)
@[simp] theorem updBase_hst (s : State) (f : Base → Base) : (updBase s f).hst = s.hst := (rfl)

/-! ### An entry of a table after an update -/

@[simp] theorem Tab.upd_self {n : Nat} {α : Type} (t : Tab n α) (i : Fin n) (f : α → α) : (t.upd i f)[i] = f t[i] := by
  simp [Tab.upd]

theorem Tab.upd_ne {n : Nat} {α : Type} (t : Tab n α) {i j : Fin n} (f : α → α) (h : j ≠ i) : (t.upd i f)[j] = t[j] := by
  have : i.val ≠ j.val := fun e => h (Fin.ext e.symm)
  simp [Tab.upd, this]

@[simp] theorem Tab.put_self {n : Nat} {α : Type} (t : Tab n α) (i : Fin n) (x : α) : (t.put i x)[i] = x := by
  simp [Tab.put]

theorem Tab.put_ne {n : Nat} {α : Type} (t : Tab n α) {i j : Fin n} (x : α) (h : j ≠ i) : (t.put i x)[j] = t[j] := by
  have : i.val ≠ j.val := fun e => h (Fin.ext e.symm)
  simp [Tab.put, this]

/-! ### Fields of a register -/

theorem rdf_def (s : State) (a lo n : Nat) : rdf s a lo n = fld (rd s a) lo n := rfl

theorem rd_congr {s t : State} (h : t.regs = s.regs) (a : Nat) : rd t a = rd s a := by unfold rd; rw [h]

theorem rdf_congr {s t : State} (h : t.regs = s.regs) (a lo n : Nat) : rdf t a lo n = rdf s a lo n := by
  unfold rdf; rw [rd_congr h]

theorem rdb_congr {s t : State} (h : t.regs = s.regs) (a i : Nat) : rdb t a i = rdb s a i := by
  unfold rdb; rw [rd_congr h]

/-! ### Engines -/

@[simp] theorem eng_updEng_self (s : State) (e : Fin 16) (f : QEng → QEng) : eng (updEng s e f) e = f (eng s e) :=
  Tab.upd_self s.eng e f

theorem eng_updEng_ne (s : State) {e k : Fin 16} (f : QEng → QEng) (h : k ≠ e) : eng (updEng s e f) k = eng s k :=
  Tab.upd_ne s.eng f h

theorem eng_congr {s t : State} (h : t.eng = s.eng) (e : Fin 16) : eng t e = eng s e := by unfold eng; rw [h]

end Sys2Proof.Machine
end

