-- ==== Sys2Proof/Laws/Bus.lean ====
section
/-! SUPPORT. Writes of registers: where a register stands, its row, and what its write does. -/

namespace Sys2Proof.Machine

theorem inBank_of {b s n a i : Nat} (ha : a = b + s * i) (hi : i < n) (hs : 0 < s) : inBank b s n a = true := by
  subst ha
  unfold inBank
  rw [Nat.add_sub_cancel_left, Nat.mul_div_cancel_left _ hs, Nat.mul_mod_right]
  simp [hi]

theorem inBank_lt {b s n a : Nat} (h : a < b) : ¬ inBank b s n a = true := by
  unfold inBank
  simp only [Bool.and_eq_true, decide_eq_true_eq]
  omega

theorem inBank_ge {b s n a : Nat} (hs : 0 < s) (h : b + n * s ≤ a) : ¬ inBank b s n a = true := by
  unfold inBank
  simp only [Bool.and_eq_true, decide_eq_true_eq]
  intro hh
  have := (Nat.div_lt_iff_lt_mul hs).1 hh.1.2
  omega

theorem inBank_mod {b s n a : Nat} (h : (a - b) % s ≠ 0) : ¬ inBank b s n a = true := by
  unfold inBank
  simp only [Bool.and_eq_true, decide_eq_true_eq, beq_iff_eq]
  exact fun hh => h hh.2

theorem inBank_out {b s n a : Nat} (h : a < b ∨ (a - b) % s ≠ 0) : ¬ inBank b s n a = true :=
  h.elim inBank_lt inBank_mod

theorem or_neg {a b : Bool} (ha : ¬ a = true) (hb : ¬ b = true) : ¬ (a || b) = true := by
  cases a <;> cases b <;> simp_all

theorem bankIdx_of {b s a i : Nat} (ha : a = b + s * i) (hs : 0 < s) : bankIdx b s a = i := by
  subst ha; unfold bankIdx; rw [Nat.add_sub_cancel_left, Nat.mul_div_cancel_left _ hs]

theorem bankIdx_in {b s a i : Nat} (hs : 0 < s) (h1 : b + i * s ≤ a) (h2 : a < b + i * s + s) : bankIdx b s a = i := by
  unfold bankIdx
  rw [Nat.div_eq_iff hs]
  omega

theorem fin_ofNat_val {n : Nat} [NeZero n] (i : Fin n) : Fin.ofNat n i.val = i := Fin.ext (Nat.mod_eq_of_lt i.isLt)

theorem and_allOnes (v : Word) : v &&& 0xFFFFFFFF#32 = v := by
  have : (0xFFFFFFFF#32 : Word) = BitVec.allOnes 32 := by decide
  rw [this, BitVec.and_allOnes]

theorem full_word (cur v : Word) : (cur &&& ~~~0xFFFFFFFF#32) ||| (v &&& 0xFFFFFFFF#32) = v := by
  have : (~~~(0xFFFFFFFF#32) : Word) = 0#32 := by decide
  rw [this, and_allOnes]; simp

theorem siteOf_low {m : Master} {a : Nat} (h : a < 0x10000000) :
    siteOf m a = (mapSite a).map (fun x => (some x.1, x.2)) := by
  unfold siteOf; rw [if_pos h]

theorem mapSite_block {a : Nat} (h : 0x04000000 ≤ a ∧ a < 0x04C00000) : mapSite a = some (3 + (a - 0x04000000) / 0x100000, .reg a) := by
  unfold mapSite
  dsimp only
  rw [if_neg (by omega), if_neg (by omega), if_neg (by omega), if_pos h]

theorem mapSite_eng {a : Nat} (h : 0x01000000 ≤ a ∧ a < 0x02000000) (ho : 0xF0000 ≤ a % 0x100000) : mapSite a = some (1, .reg a) := by
  unfold mapSite
  dsimp only
  rw [if_neg (by omega), if_pos h, if_neg (by omega), if_neg (by omega), if_pos ho]

theorem mapSite_core {a : Nat} (h : 0x02000000 ≤ a ∧ a < 0x03000000) (ho : 0xF0000 ≤ a % 0x100000) : mapSite a = some (2, .reg a) := by
  unfold mapSite
  dsimp only
  rw [if_neg (by omega), if_neg (by omega), if_pos h, if_neg (by omega), if_pos ho]

/-- A register with no reserved field of a pulse program: a full write of it tells nothing of one (R393, R400). -/
def NoTpReserved (a : Nat) : Prop :=
  a < 0x04403000 ∨ 0x04403200 ≤ a ∨ tpReserved ((a - 0x04403000) % 0x20) = 0

theorem tpFullWrite_none {a : Nat} (h : NoTpReserved a) (s : State) (v sel : Word) : tpFullWrite s a v sel = s := by
  unfold tpFullWrite
  refine if_neg (fun hc => ?_)
  rcases h with h | h | h
  · omega
  · omega
  · exact hc.2.2.1 h

theorem noTpReserved_TP_CTL (n : Fin 16) : NoTpReserved (Reg.TP_CTL n) := by
  refine Or.inr (Or.inr ?_)
  rw [show (Reg.TP_CTL n - 0x04403000) % 0x20 = 0x1C by unfold Reg.TP_CTL; omega]
  rfl

/-- An access of a master with nothing outstanding takes effect at once (R530). -/
theorem access_free {s : State} {m : Master} {c : BusAcc} (h : MasterFree s m) : access s m c = accessNow s m c := by
  have hd : drain s m = s := by
    unfold drain
    rw [h.2]
  unfold access
  rw [hd]
  dsimp only
  rw [h.1]
  rfl

theorem access_write {s : State} {m : Master} {a : Nat} {l : Lanes} {v : Word} (h : MasterFree s m) :
    access s m (.write a l v .clean) = busWrite s m a l v := access_free h

theorem access_read {s : State} {m : Master} {a : Nat} {l : Lanes} (h : MasterFree s m) :
    access s m (.read a l .clean) = busRead s m a l := access_free h

theorem busWrite_reg {s : State} {m : Master} {a : Nat} {v : Word} {r : RegRow} {t : Nat}
    (h : Accepted s m a) (hp : NoTpReserved a) (hs : mapSite a = some (t, .reg a)) (ha : a < 0x10000000) (hi : a ≠ Reg.HST_IND_DATA)
    (hr : regRow a = some r) (hl : rowLocked s r (regKey m a) = false) :
    busWrite s m a .all v = respond (regAct (regStore s m a r v) m a false (rd s (regKey m a)) v (v &&& r.w1p)) m .done := by
  unfold busWrite
  rw [h.1, Bool.false_and, if_neg (by decide), h.2.1, siteOf_low ha, hs]
  simp only [Option.map_some, siteWrite]
  rw [if_neg hi]
  unfold regWrite
  rw [hr]
  dsimp only
  rw [tpFullWrite_none hp, full_word, hl, and_allOnes]

theorem regKey_plain {m : Master} {a : Nat} (h : a < 0x04800100 ∨ 0x0480014C ≤ a) : regKey m a = a := by
  unfold regKey isBanked
  rw [if_neg (by simp; omega)]

/-- A row of a register that no master holds a copy of, from its place, its row and its action. -/
theorem act_of {s : State} {c : Instr} {m : Master} {a : Nat} {v : Word} {act : State → State} (r : RegRow) (t : Nat)
    (hr : regRow a = some r) (hp : NoTpReserved a) (hs : mapSite a = some (t, .reg a)) (ha : a < 0x04800100 ∨ (0x0480014C ≤ a ∧ a < 0x10000000))
    (hx : exec c s = .next (access s m (.write a .all v .clean)))
    (hact : ∀ (u : State) (cur : Word), regAct u m a false cur v (v &&& r.w1p) = act u)
    (h : Accepted s m a) :
    ∃ r, regRow a = some r ∧
      (rowLocked s r a = false → exec c s = .next (respond (act (regStore s m a r v)) m .done)) := by
  refine ⟨r, hr, fun hl => ?_⟩
  have hk : regKey m a = a := regKey_plain (by omega)
  rw [hx, access_write h.2.2, busWrite_reg h hp hs (by omega) (by unfold Reg.HST_IND_DATA; omega) hr (by rw [hk]; exact hl), hact]

theorem regRow_SC_CTL : ∀ c : Fin 16, regRow (Reg.SC_CTL c) =
    some { base := 0x20f0000, stride := 1048576, count := 16, rw := 0x00000001#32 } := by
  decide

theorem regRow_INK_TSET : ∀ t : Fin 512, regRow (Reg.INK_TSET t) =
    some { base := 0x4002800, stride := 4, count := 512, w1p := 0xffffffff#32 } := by
  decide +kernel

theorem regRow_INK_DONE : ∀ c : Fin 16, regRow (Reg.INK_DONE c) =
    some { base := 0x4004008, stride := 32, count := 16, w1p := 0x00000003#32 } := by
  decide

theorem regRow_INK_LIG_RING : ∀ l : Fin 64, regRow (Reg.INK_LIG_RING l) =
    some { base := 0x4005008, stride := 16, count := 64, rw := 0x000003ff#32, rc := 0x80000000#32 } := by
  decide

theorem regRow_INK_SLACK_CTL : regRow Reg.INK_SLACK_CTL =
    some { base := 0x4006000, stride := 4, count := 1, rw := 0x00000001#32, w1p := 0x00000002#32 } := by
  decide

theorem regRow_INK_BANK : ∀ g : Fin 32, regRow (Reg.INK_BANK g) =
    some { base := 0x4007000, stride := 4, count := 32, rw := 0x00000030#32, w1p := 0x00000001#32 } := by
  decide

theorem regRow_DCT_PORTW : ∀ c : Fin 16, regRow (Reg.DCT_PORTW c 7) =
    some { base := 0x4102000, stride := 4, count := 128, rw := 0xffffffff#32 } := by
  decide

theorem regRow_DCT_CAM : ∀ t : Fin 64, regRow (Reg.DCT_CAM t) =
    some { base := 0x4102400, stride := 4, count := 64, rwl := 0xffff0000#32, w1p := 0x0000c000#32, lockReg := 68157440, lockBit := 8 } := by
  decide

theorem regRow_PLN_SW_CTL : regRow Reg.PLN_SW_CTL =
    some { base := 0x4200204, stride := 4, count := 1, rw := 0x00000007#32, w1p := 0x00000100#32 } := by
  decide

theorem regRow_PLN_ACQ_WR : ∀ q : Fin 4, regRow (Reg.PLN_ACQ_WR q) =
    some { base := 0x4200244, stride := 16, count := 4, rw := 0x000003ff#32 } := by
  decide

theorem regRow_PLN_CH_CTL : regRow Reg.PLN_CH_CTL =
    some { base := 0x4200300, stride := 4, count := 1, rc := 0x80000000#32, w1p := 0x00000303#32 } := by
  decide

theorem regRow_BSL_SET : regRow Reg.BSL_SET =
    some { base := 0x4300030, stride := 4, count := 1, rw := 0x00000010#32, w1p := 0x00000001#32 } := by
  decide

theorem regRow_LF_CTL : regRow Reg.LF_CTL =
    some { base := 0x4400400, stride := 4, count := 1, lk := 0x00010000#32, w1p := 0x0000ff00#32 } := by
  decide

theorem regRow_TP_CTL : ∀ n : Fin 16, regRow (Reg.TP_CTL n) =
    some { base := 0x440301c, stride := 32, count := 16, w1p := 0x00000005#32 } := by
  decide

theorem regRow_FOL_CTL : regRow Reg.FOL_CTL =
    some { base := 0x4500000, stride := 4, count := 1, w1p := 0x00000007#32 } := by
  decide

theorem regRow_SB_CTL : ∀ k : Fin 4, regRow (Reg.SB_CTL k) =
    some { base := 0x4600000, stride := 256, count := 4, rw := 0x000001f7#32, w1p := 0x00000200#32 } := by
  decide

theorem regRow_SB_TXC : ∀ k : Fin 4, regRow (Reg.SB_TXC k) =
    some { base := 0x4600014, stride := 256, count := 4, w1p := 0x0000001f#32 } := by
  decide

theorem regRow_SB_RXACQ : ∀ k : Fin 4, regRow (Reg.SB_RXACQ k) =
    some { base := 0x4600020, stride := 256, count := 4, rw := 0x0000000f#32 } := by
  decide

theorem regRow_SB_RXREL : ∀ k : Fin 4, regRow (Reg.SB_RXREL k) =
    some { base := 0x4600024, stride := 256, count := 4, w1p := 0x00000001#32 } := by
  decide

theorem regRow_MGN_FIRST : regRow Reg.MGN_FIRST =
    some { base := 0x4700004, stride := 4, count := 1, w1p := 0x00010000#32 } := by
  decide

theorem regRow_MGN_INJ : regRow Reg.MGN_INJ =
    some { base := 0x4700300, stride := 4, count := 1, rw := 0x000301ff#32, w1p := 0x00001000#32 } := by
  decide

theorem regRow_HST_DOORBELL : regRow Reg.HST_DOORBELL =
    some { base := 0x4800020, stride := 4, count := 1, w1p := 0x0000ffff#32 } := by
  decide

theorem regRow_HST_HDB : regRow Reg.HST_HDB =
    some { base := 0x4800024, stride := 4, count := 1, w1p := 0x0000ffff#32 } := by
  decide

theorem regRow_HST_MB_SEL : regRow Reg.HST_MB_SEL =
    some { base := 0x4800100, stride := 4, count := 1, rw := 0x0000ffff#32 } := by
  decide

theorem regRow_HST_Q_WR : ∀ q : Fin 8, regRow (Reg.HST_Q_WR q) =
    some { base := 0x4800204, stride := 16, count := 8, rw := 0x000000ff#32 } := by
  decide

theorem regRow_HST_Q_CTL : ∀ q : Fin 8, regRow (Reg.HST_Q_CTL q) =
    some { base := 0x480020c, stride := 16, count := 8, rw := 0x00000001#32, w1p := 0x00000002#32 } := by
  decide

theorem regRow_PWR_PD_REQ : regRow Reg.PWR_PD_REQ =
    some { base := 0x4900008, stride := 4, count := 1, rw := 0xff0f0003#32, w1p := 0x00000100#32 } := by
  decide

theorem regRow_PWR_CTL : regRow Reg.PWR_CTL =
    some { base := 0x490001c, stride := 4, count := 1, w1p := 0x00000003#32 } := by
  decide

theorem regRow_PLN_NODE_CTL : regRow Reg.PLN_NODE_CTL =
    some { base := 0x4200218, stride := 4, count := 1, rw := 0x000000ff#32, rc := 0x80000000#32, w1p := 0x00000300#32 } := by
  decide

theorem regRow_MGN_ACK : ∀ hi : Bool, regRow (Reg.MGN_ACK hi.toNat) =
    some { base := 0x4700010, stride := 4, count := 2, w1p := 0xffffffff#32 } := by
  decide

theorem regRow_MGN_CLR : ∀ hi : Bool, regRow (Reg.MGN_CLR hi.toNat) =
    some { base := 0x4700018, stride := 4, count := 2, w1p := 0xffffffff#32 } := by
  decide

theorem regRow_BSL_INC : ∀ hi : Bool, regRow (Reg.BSL_INC (domIdx hi)) =
    some { base := 0x4300010, stride := 4, count := 2, rw := 0xffffffff#32 } := by
  decide

theorem regRow_QE_CTL : ∀ e : Fin 16, regRow (Reg.QE_CTL e) =
    some { base := 0x10f0000, stride := 1048576, count := 16, rwl := 0x00000003#32, lk := 0x00000100#32, w1p := 0x00000010#32, lockBit := 8 } := by
  decide

theorem regAct_SC_CTL (c : Fin 16) (u : State) (m : Master) (cur w p : Word) : regAct u m (Reg.SC_CTL c) false cur w p = coreRun u c (bit w 0) := by
  have h := c.isLt
  unfold regAct
  repeat (first
    | rw [if_neg (by unfold Reg.SC_CTL; omega)]
    | rw [if_pos (by unfold Reg.SC_CTL; omega)])
  unfold actEngine
  repeat (first
    | rw [if_neg (inBank_lt (by unfold Reg.SC_CTL; omega))]
    | rw [if_neg (inBank_ge (by decide) (by unfold Reg.SC_CTL; omega))]
    | rw [if_neg (inBank_out (by unfold Reg.SC_CTL; omega))]
    | rw [if_neg (or_neg (inBank_out (by unfold Reg.SC_CTL; omega)) (inBank_out (by unfold Reg.SC_CTL; omega)))]
    | rw [if_pos (inBank_of (i := c.val) (by unfold Reg.SC_CTL; omega) (by omega) (by decide))]
)
  try rw [bankIdx_in (i := c.val) (by decide) (by unfold Reg.SC_CTL; omega) (by unfold Reg.SC_CTL; omega)]
  try simp only [fin_ofNat_val]
  try rfl

theorem regAct_INK_DONE (c : Fin 16) (u : State) (m : Master) (cur w p : Word) : regAct u m (Reg.INK_DONE c) false cur w p = coreDone u c p := by
  have h := c.isLt
  unfold regAct
  repeat (first
    | rw [if_neg (by unfold Reg.INK_DONE; omega)]
    | rw [if_pos (by unfold Reg.INK_DONE; omega)])
  unfold actInkwell
  repeat (first
    | rw [if_neg (inBank_lt (by unfold Reg.INK_DONE; omega))]
    | rw [if_neg (inBank_ge (by decide) (by unfold Reg.INK_DONE; omega))]
    | rw [if_neg (inBank_out (by unfold Reg.INK_DONE; omega))]
    | rw [if_neg (or_neg (inBank_out (by unfold Reg.INK_DONE; omega)) (inBank_out (by unfold Reg.INK_DONE; omega)))]
    | rw [if_pos (inBank_of (i := c.val) (by unfold Reg.INK_DONE; omega) (by omega) (by decide))]
    | rw [if_neg (show ¬ (Reg.INK_DONE c = Reg.INK_SLACK_CTL) by unfold Reg.INK_DONE Reg.INK_SLACK_CTL; omega)])
  try rw [bankIdx_in (i := c.val) (by decide) (by unfold Reg.INK_DONE; omega) (by unfold Reg.INK_DONE; omega)]
  try simp only [fin_ofNat_val]
  try rfl

theorem regAct_INK_SLACK_CTL (u : State) (m : Master) (cur w p : Word) : regAct u m Reg.INK_SLACK_CTL false cur w p = when (bit p 1) u slackClear := by
  unfold regAct
  repeat (first | rw [if_neg (by decide)] | rw [if_pos (by decide)])
  unfold actInkwell
  try repeat (first | rw [if_neg (by decide)] | rw [if_pos (by decide)])
  try rfl

theorem regAct_INK_BANK (g : Fin 32) (u : State) (m : Master) (cur w p : Word) : regAct u m (Reg.INK_BANK g) false cur w p = when (bit p 0) u (fun s => bankRequest s g (rdb s (Reg.INK_BANK g) 4) (rdb s (Reg.INK_BANK g) 5) .software) := by
  have h := g.isLt
  unfold regAct
  repeat (first
    | rw [if_neg (by unfold Reg.INK_BANK; omega)]
    | rw [if_pos (by unfold Reg.INK_BANK; omega)])
  unfold actInkwell
  repeat (first
    | rw [if_neg (inBank_lt (by unfold Reg.INK_BANK; omega))]
    | rw [if_neg (inBank_ge (by decide) (by unfold Reg.INK_BANK; omega))]
    | rw [if_neg (inBank_out (by unfold Reg.INK_BANK; omega))]
    | rw [if_neg (or_neg (inBank_out (by unfold Reg.INK_BANK; omega)) (inBank_out (by unfold Reg.INK_BANK; omega)))]
    | rw [if_pos (inBank_of (i := g.val) (by unfold Reg.INK_BANK; omega) (by omega) (by decide))]
    | rw [if_neg (show ¬ (Reg.INK_BANK g = Reg.INK_SLACK_CTL) by unfold Reg.INK_BANK Reg.INK_SLACK_CTL; omega)])
  try rw [bankIdx_in (i := g.val) (by decide) (by unfold Reg.INK_BANK; omega) (by unfold Reg.INK_BANK; omega)]
  try simp only [fin_ofNat_val]
  try rfl

theorem regAct_DCT_PORTW (c : Fin 16) (u : State) (m : Master) (cur w p : Word) : regAct u m (Reg.DCT_PORTW c 7) false cur w p = portWrite7 u c w := by
  have h := c.isLt
  unfold regAct
  repeat (first
    | rw [if_neg (by unfold Reg.DCT_PORTW; omega)]
    | rw [if_pos (by unfold Reg.DCT_PORTW; omega)])
  unfold actDuctus
  repeat (first
    | rw [if_neg (inBank_lt (by unfold Reg.DCT_PORTW; omega))]
    | rw [if_neg (inBank_ge (by decide) (by unfold Reg.DCT_PORTW; omega))]
    | rw [if_neg (inBank_out (by unfold Reg.DCT_PORTW; omega))]
    | rw [if_neg (or_neg (inBank_out (by unfold Reg.DCT_PORTW; omega)) (inBank_out (by unfold Reg.DCT_PORTW; omega)))]
    | rw [if_pos (inBank_of (i := c.val) (by unfold Reg.DCT_PORTW; omega) (by omega) (by decide))]
)
  try rw [bankIdx_in (i := c.val) (by decide) (by unfold Reg.DCT_PORTW; omega) (by unfold Reg.DCT_PORTW; omega)]
  try simp only [fin_ofNat_val]
  try rfl

theorem regAct_DCT_CAM (t : Fin 64) (u : State) (m : Master) (cur w p : Word) : regAct u m (Reg.DCT_CAM t) false cur w p = when (bit p 14) (when (bit p 15) u (fun s => camArm s t)) (fun s => camDisarm s t) := by
  have h := t.isLt
  unfold regAct
  repeat (first
    | rw [if_neg (by unfold Reg.DCT_CAM; omega)]
    | rw [if_pos (by unfold Reg.DCT_CAM; omega)])
  unfold actDuctus
  repeat (first
    | rw [if_neg (inBank_lt (by unfold Reg.DCT_CAM; omega))]
    | rw [if_neg (inBank_ge (by decide) (by unfold Reg.DCT_CAM; omega))]
    | rw [if_neg (inBank_out (by unfold Reg.DCT_CAM; omega))]
    | rw [if_neg (or_neg (inBank_out (by unfold Reg.DCT_CAM; omega)) (inBank_out (by unfold Reg.DCT_CAM; omega)))]
    | rw [if_pos (inBank_of (i := t.val) (by unfold Reg.DCT_CAM; omega) (by omega) (by decide))]
)
  try rw [bankIdx_in (i := t.val) (by decide) (by unfold Reg.DCT_CAM; omega) (by unfold Reg.DCT_CAM; omega)]
  try simp only [fin_ofNat_val]
  try rfl

theorem regAct_PLN_SW_CTL (u : State) (m : Master) (cur w p : Word) : regAct u m Reg.PLN_SW_CTL false cur w p = when (bit p 8) u (fun s => switchRequest s (Fin.ofNat 8 (rdf s Reg.PLN_SW_CTL 0 3)) .software) := by
  unfold regAct
  repeat (first | rw [if_neg (by decide)] | rw [if_pos (by decide)])
  unfold actPlenil
  try repeat (first | rw [if_neg (by decide)] | rw [if_pos (by decide)])
  try rfl

theorem regAct_PLN_ACQ_WR (q : Fin 4) (u : State) (m : Master) (cur w p : Word) : regAct u m (Reg.PLN_ACQ_WR q) false cur w p = ringsTake u := by
  have h := q.isLt
  unfold regAct
  repeat (first
    | rw [if_neg (by unfold Reg.PLN_ACQ_WR; omega)]
    | rw [if_pos (by unfold Reg.PLN_ACQ_WR; omega)])
  unfold actPlenil
  repeat (first
    | rw [if_neg (inBank_lt (by unfold Reg.PLN_ACQ_WR; omega))]
    | rw [if_neg (inBank_ge (by decide) (by unfold Reg.PLN_ACQ_WR; omega))]
    | rw [if_neg (inBank_out (by unfold Reg.PLN_ACQ_WR; omega))]
    | rw [if_neg (or_neg (inBank_out (by unfold Reg.PLN_ACQ_WR; omega)) (inBank_out (by unfold Reg.PLN_ACQ_WR; omega)))]
    | rw [if_pos (inBank_of (i := q.val) (by unfold Reg.PLN_ACQ_WR; omega) (by omega) (by decide))]
    | rw [if_neg (show ¬ (Reg.PLN_ACQ_WR q = Reg.PLN_SW_CTL) by unfold Reg.PLN_ACQ_WR Reg.PLN_SW_CTL; omega)]
    | rw [if_neg (show ¬ (Reg.PLN_ACQ_WR q = Reg.PLN_NODE_CTL) by unfold Reg.PLN_ACQ_WR Reg.PLN_NODE_CTL; omega)]
    | rw [if_neg (show ¬ (Reg.PLN_ACQ_WR q = Reg.PLN_CH_CTL) by unfold Reg.PLN_ACQ_WR Reg.PLN_CH_CTL; omega)])
  try rw [bankIdx_in (i := q.val) (by decide) (by unfold Reg.PLN_ACQ_WR; omega) (by unfold Reg.PLN_ACQ_WR; omega)]
  try simp only [fin_ofNat_val]
  try rfl

theorem regAct_PLN_CH_CTL (u : State) (m : Master) (cur w p : Word) : regAct u m Reg.PLN_CH_CTL false cur w p = chCtlWrite u p := by
  unfold regAct
  repeat (first | rw [if_neg (by decide)] | rw [if_pos (by decide)])
  unfold actPlenil
  try repeat (first | rw [if_neg (by decide)] | rw [if_pos (by decide)])
  try rfl

theorem regAct_BSL_SET (u : State) (m : Master) (cur w p : Word) : regAct u m Reg.BSL_SET false cur w p = when (bit p 0) u bslSet := by
  unfold regAct
  repeat (first | rw [if_neg (by decide)] | rw [if_pos (by decide)])
  unfold actField
  try repeat (first | rw [if_neg (by decide)] | rw [if_pos (by decide)])
  try rfl

theorem regAct_LF_CTL (u : State) (m : Master) (cur w p : Word) : regAct u m Reg.LF_CTL false cur w p = lfClear u p := by
  unfold regAct
  repeat (first | rw [if_neg (by decide)] | rw [if_pos (by decide)])
  unfold actField
  try repeat (first | rw [if_neg (by decide)] | rw [if_pos (by decide)])
  try rfl

theorem regAct_TP_CTL (n : Fin 16) (u : State) (m : Master) (cur w p : Word) : regAct u m (Reg.TP_CTL n) false cur w p = when (bit p 0) (when (bit p 2) u (fun s => tpStop s n)) (fun s => tpGo s n) := by
  have h := n.isLt
  unfold regAct
  repeat (first
    | rw [if_neg (by unfold Reg.TP_CTL; omega)]
    | rw [if_pos (by unfold Reg.TP_CTL; omega)])
  unfold actField
  repeat (first
    | rw [if_neg (inBank_lt (by unfold Reg.TP_CTL; omega))]
    | rw [if_neg (inBank_ge (by decide) (by unfold Reg.TP_CTL; omega))]
    | rw [if_neg (inBank_out (by unfold Reg.TP_CTL; omega))]
    | rw [if_neg (or_neg (inBank_out (by unfold Reg.TP_CTL; omega)) (inBank_out (by unfold Reg.TP_CTL; omega)))]
    | rw [if_pos (inBank_of (i := n.val) (by unfold Reg.TP_CTL; omega) (by omega) (by decide))]
    | rw [if_neg (show ¬ (Reg.TP_CTL n = Reg.BSL_SET) by unfold Reg.TP_CTL Reg.BSL_SET; omega)]
    | rw [if_neg (show ¬ (Reg.TP_CTL n = Reg.BSL_STROKE_CFG) by unfold Reg.TP_CTL Reg.BSL_STROKE_CFG; omega)]
    | rw [if_neg (show ¬ (Reg.TP_CTL n = Reg.LF_CTL) by unfold Reg.TP_CTL Reg.LF_CTL; omega)])
  try rw [bankIdx_in (i := n.val) (by decide) (by unfold Reg.TP_CTL; omega) (by unfold Reg.TP_CTL; omega)]
  try simp only [fin_ofNat_val]
  try rfl

theorem regAct_FOL_CTL (u : State) (m : Master) (cur w p : Word) : regAct u m Reg.FOL_CTL false cur w p = when (bit p 2) (when (bit p 0) (when (bit p 1) u folStop) folArm) folForce := by
  unfold regAct
  repeat (first | rw [if_neg (by decide)] | rw [if_pos (by decide)])
  unfold actFolio
  try repeat (first | rw [if_neg (by decide)] | rw [if_pos (by decide)])
  try rfl

theorem regAct_SB_CTL (k : Fin 4) (u : State) (m : Master) (cur w p : Word) : regAct u m (Reg.SB_CTL k) false cur w p = sbCtlWrite u k (w ||| p) := by
  have h := k.isLt
  unfold regAct
  repeat (first
    | rw [if_neg (by unfold Reg.SB_CTL; omega)]
    | rw [if_pos (by unfold Reg.SB_CTL; omega)])
  unfold actServiceBus
  repeat (first
    | rw [if_neg (inBank_lt (by unfold Reg.SB_CTL; omega))]
    | rw [if_neg (inBank_ge (by decide) (by unfold Reg.SB_CTL; omega))]
    | rw [if_neg (inBank_out (by unfold Reg.SB_CTL; omega))]
    | rw [if_neg (or_neg (inBank_out (by unfold Reg.SB_CTL; omega)) (inBank_out (by unfold Reg.SB_CTL; omega)))]
    | rw [if_pos (inBank_of (i := k.val) (by unfold Reg.SB_CTL; omega) (by omega) (by decide))]
)
  try rw [bankIdx_in (i := k.val) (by decide) (by unfold Reg.SB_CTL; omega) (by unfold Reg.SB_CTL; omega)]
  try simp only [fin_ofNat_val]
  try rfl

theorem regAct_SB_TXC (k : Fin 4) (u : State) (m : Master) (cur w p : Word) : regAct u m (Reg.SB_TXC k) false cur w p = sbTxcWrite u k p := by
  have h := k.isLt
  unfold regAct
  repeat (first
    | rw [if_neg (by unfold Reg.SB_TXC; omega)]
    | rw [if_pos (by unfold Reg.SB_TXC; omega)])
  unfold actServiceBus
  repeat (first
    | rw [if_neg (inBank_lt (by unfold Reg.SB_TXC; omega))]
    | rw [if_neg (inBank_ge (by decide) (by unfold Reg.SB_TXC; omega))]
    | rw [if_neg (inBank_out (by unfold Reg.SB_TXC; omega))]
    | rw [if_neg (or_neg (inBank_out (by unfold Reg.SB_TXC; omega)) (inBank_out (by unfold Reg.SB_TXC; omega)))]
    | rw [if_pos (inBank_of (i := k.val) (by unfold Reg.SB_TXC; omega) (by omega) (by decide))]
)
  try rw [bankIdx_in (i := k.val) (by decide) (by unfold Reg.SB_TXC; omega) (by unfold Reg.SB_TXC; omega)]
  try simp only [fin_ofNat_val]
  try rfl

theorem regAct_SB_RXACQ (k : Fin 4) (u : State) (m : Master) (cur w p : Word) : regAct u m (Reg.SB_RXACQ k) false cur w p = sbAcquire u k w := by
  have h := k.isLt
  unfold regAct
  repeat (first
    | rw [if_neg (by unfold Reg.SB_RXACQ; omega)]
    | rw [if_pos (by unfold Reg.SB_RXACQ; omega)])
  unfold actServiceBus
  repeat (first
    | rw [if_neg (inBank_lt (by unfold Reg.SB_RXACQ; omega))]
    | rw [if_neg (inBank_ge (by decide) (by unfold Reg.SB_RXACQ; omega))]
    | rw [if_neg (inBank_out (by unfold Reg.SB_RXACQ; omega))]
    | rw [if_neg (or_neg (inBank_out (by unfold Reg.SB_RXACQ; omega)) (inBank_out (by unfold Reg.SB_RXACQ; omega)))]
    | rw [if_pos (inBank_of (i := k.val) (by unfold Reg.SB_RXACQ; omega) (by omega) (by decide))]
)
  try rw [bankIdx_in (i := k.val) (by decide) (by unfold Reg.SB_RXACQ; omega) (by unfold Reg.SB_RXACQ; omega)]
  try simp only [fin_ofNat_val]
  try rfl

theorem regAct_SB_RXREL (k : Fin 4) (u : State) (m : Master) (cur w p : Word) : regAct u m (Reg.SB_RXREL k) false cur w p = when (bit p 0) u (fun s => sbRelease s k) := by
  have h := k.isLt
  unfold regAct
  repeat (first
    | rw [if_neg (by unfold Reg.SB_RXREL; omega)]
    | rw [if_pos (by unfold Reg.SB_RXREL; omega)])
  unfold actServiceBus
  repeat (first
    | rw [if_neg (inBank_lt (by unfold Reg.SB_RXREL; omega))]
    | rw [if_neg (inBank_ge (by decide) (by unfold Reg.SB_RXREL; omega))]
    | rw [if_neg (inBank_out (by unfold Reg.SB_RXREL; omega))]
    | rw [if_neg (or_neg (inBank_out (by unfold Reg.SB_RXREL; omega)) (inBank_out (by unfold Reg.SB_RXREL; omega)))]
    | rw [if_pos (inBank_of (i := k.val) (by unfold Reg.SB_RXREL; omega) (by omega) (by decide))]
)
  try rw [bankIdx_in (i := k.val) (by decide) (by unfold Reg.SB_RXREL; omega) (by unfold Reg.SB_RXREL; omega)]
  try simp only [fin_ofNat_val]
  try rfl

theorem regAct_MGN_FIRST (u : State) (m : Master) (cur w p : Word) : regAct u m Reg.MGN_FIRST false cur w p = when (bit p 16) u (fun s => wrb s Reg.MGN_FIRST 31 false) := by
  unfold regAct
  repeat (first | rw [if_neg (by decide)] | rw [if_pos (by decide)])
  unfold actMargin
  try repeat (first | rw [if_neg (by decide)] | rw [if_pos (by decide)])
  try rfl

theorem regAct_MGN_INJ (u : State) (m : Master) (cur w p : Word) : regAct u m Reg.MGN_INJ false cur w p = when (bit p 12) u mgnInject := by
  unfold regAct
  repeat (first | rw [if_neg (by decide)] | rw [if_pos (by decide)])
  unfold actMargin
  try repeat (first | rw [if_neg (by decide)] | rw [if_pos (by decide)])
  try rfl

theorem regAct_HST_DOORBELL (u : State) (m : Master) (cur w p : Word) : regAct u m Reg.HST_DOORBELL false cur w p = ringCores u p := by
  unfold regAct
  repeat (first | rw [if_neg (by decide)] | rw [if_pos (by decide)])
  unfold actHost
  try repeat (first | rw [if_neg (by decide)] | rw [if_pos (by decide)])
  try rfl

theorem regAct_HST_HDB (u : State) (m : Master) (cur w p : Word) : regAct u m Reg.HST_HDB false cur w p = when (decide (2 ≤ m.val) && bit p (m.val - 2)) u (fun s => hstIrq s (16 + (m.val - 2))) := by
  unfold regAct
  repeat (first | rw [if_neg (by decide)] | rw [if_pos (by decide)])
  unfold actHost
  try repeat (first | rw [if_neg (by decide)] | rw [if_pos (by decide)])
  try rfl

theorem regAct_HST_MB_SEL (u : State) (m : Master) (cur w p : Word) : regAct u m Reg.HST_MB_SEL false cur w p = mbSelect u m (fld w 0 16) := by
  unfold regAct
  repeat (first | rw [if_neg (by decide)] | rw [if_pos (by decide)])
  unfold actHost
  try repeat (first | rw [if_neg (by decide)] | rw [if_pos (by decide)])
  try rfl

theorem regAct_HST_Q_WR (q : Fin 8) (u : State) (m : Master) (cur w p : Word) : regAct u m (Reg.HST_Q_WR q) false cur w p = u := by
  have h := q.isLt
  unfold regAct
  repeat (first
    | rw [if_neg (by unfold Reg.HST_Q_WR; omega)]
    | rw [if_pos (by unfold Reg.HST_Q_WR; omega)])
  unfold actHost
  repeat (first
    | rw [if_neg (inBank_lt (by unfold Reg.HST_Q_WR; omega))]
    | rw [if_neg (inBank_ge (by decide) (by unfold Reg.HST_Q_WR; omega))]
    | rw [if_neg (inBank_out (by unfold Reg.HST_Q_WR; omega))]
    | rw [if_neg (or_neg (inBank_out (by unfold Reg.HST_Q_WR; omega)) (inBank_out (by unfold Reg.HST_Q_WR; omega)))]
    | rw [if_pos (inBank_of (i := q.val) (by unfold Reg.HST_Q_WR; omega) (by omega) (by decide))]
    | rw [if_neg (show ¬ (Reg.HST_Q_WR q = Reg.HST_DOORBELL) by unfold Reg.HST_Q_WR Reg.HST_DOORBELL; omega)]
    | rw [if_neg (show ¬ (Reg.HST_Q_WR q = Reg.HST_HDB) by unfold Reg.HST_Q_WR Reg.HST_HDB; omega)]
    | rw [if_neg (show ¬ (Reg.HST_Q_WR q = Reg.HST_MB_SEL) by unfold Reg.HST_Q_WR Reg.HST_MB_SEL; omega)])
  try rw [bankIdx_in (i := q.val) (by decide) (by unfold Reg.HST_Q_WR; omega) (by unfold Reg.HST_Q_WR; omega)]
  try simp only [fin_ofNat_val]
  try rfl

theorem regAct_HST_Q_CTL (q : Fin 8) (u : State) (m : Master) (cur w p : Word) : regAct u m (Reg.HST_Q_CTL q) false cur w p = when (bit p 1) u (fun s => queueReset s q (bit cur 0)) := by
  have h := q.isLt
  unfold regAct
  repeat (first
    | rw [if_neg (by unfold Reg.HST_Q_CTL; omega)]
    | rw [if_pos (by unfold Reg.HST_Q_CTL; omega)])
  unfold actHost
  repeat (first
    | rw [if_neg (inBank_lt (by unfold Reg.HST_Q_CTL; omega))]
    | rw [if_neg (inBank_ge (by decide) (by unfold Reg.HST_Q_CTL; omega))]
    | rw [if_neg (inBank_out (by unfold Reg.HST_Q_CTL; omega))]
    | rw [if_neg (or_neg (inBank_out (by unfold Reg.HST_Q_CTL; omega)) (inBank_out (by unfold Reg.HST_Q_CTL; omega)))]
    | rw [if_pos (inBank_of (i := q.val) (by unfold Reg.HST_Q_CTL; omega) (by omega) (by decide))]
    | rw [if_neg (show ¬ (Reg.HST_Q_CTL q = Reg.HST_DOORBELL) by unfold Reg.HST_Q_CTL Reg.HST_DOORBELL; omega)]
    | rw [if_neg (show ¬ (Reg.HST_Q_CTL q = Reg.HST_HDB) by unfold Reg.HST_Q_CTL Reg.HST_HDB; omega)]
    | rw [if_neg (show ¬ (Reg.HST_Q_CTL q = Reg.HST_MB_SEL) by unfold Reg.HST_Q_CTL Reg.HST_MB_SEL; omega)])
  try rw [bankIdx_in (i := q.val) (by decide) (by unfold Reg.HST_Q_CTL; omega) (by unfold Reg.HST_Q_CTL; omega)]
  try simp only [fin_ofNat_val]
  try rfl

theorem regAct_PWR_PD_REQ (u : State) (m : Master) (cur w p : Word) : regAct u m Reg.PWR_PD_REQ false cur w p = when (bit p 8) u (fun s => pdRequest s w) := by
  unfold regAct
  repeat (first | rw [if_neg (by decide)] | rw [if_pos (by decide)])
  try repeat (first | rw [if_neg (by decide)] | rw [if_pos (by decide)])
  try rfl

theorem regAct_PWR_CTL (u : State) (m : Master) (cur w p : Word) : regAct u m Reg.PWR_CTL false cur w p = pwrCtl u p := by
  unfold regAct
  repeat (first | rw [if_neg (by decide)] | rw [if_pos (by decide)])
  try repeat (first | rw [if_neg (by decide)] | rw [if_pos (by decide)])
  try rfl

theorem regAct_PLN_NODE_CTL (u : State) (m : Master) (cur w p : Word) : regAct u m Reg.PLN_NODE_CTL false cur w p = when (bit p 8) (when (bit p 9) u (fun s => resumeNode s (Fin.ofNat 256 (rdf u Reg.PLN_NODE_CTL 0 8)))) (fun s => removeNode s (Fin.ofNat 256 (rdf u Reg.PLN_NODE_CTL 0 8))) := by
  unfold regAct
  repeat (first | rw [if_neg (by decide)] | rw [if_pos (by decide)])
  unfold actPlenil
  try repeat (first | rw [if_neg (by decide)] | rw [if_pos (by decide)])
  try rfl

theorem regAct_MGN_ACK (hi : Bool) (u : State) (m : Master) (cur w p : Word) : regAct u m (Reg.MGN_ACK hi.toNat) false cur w p = mgnAckWrite u hi p := by
  cases hi <;> rfl

theorem regAct_MGN_CLR (hi : Bool) (u : State) (m : Master) (cur w p : Word) : regAct u m (Reg.MGN_CLR hi.toNat) false cur w p = mgnClrWrite u hi p := by
  cases hi <;> rfl

theorem regAct_BSL_INC (hi : Bool) (u : State) (m : Master) (cur w p : Word) : regAct u m (Reg.BSL_INC (domIdx hi)) false cur w p = setInc u hi w.toNat := by
  cases hi <;> rfl

theorem regAct_INK_TSET (t : Fin 512) (u : State) (m : Master) (cur w p : Word) :
    regAct u m (Reg.INK_TSET t) false cur w p = when (decide (256 ≤ t.val)) u (fun s => setFlags s t p) := by
  have h := t.isLt
  unfold regAct
  rw [if_neg (by unfold Reg.INK_TSET; omega), if_pos (by unfold Reg.INK_TSET; omega)]
  unfold actInkwell
  rw [if_neg (inBank_ge (by decide) (by unfold Reg.INK_TSET; omega)),
    if_neg (inBank_ge (by decide) (by unfold Reg.INK_TSET; omega))]
  by_cases ht : 256 ≤ t.val
  · rw [if_pos (inBank_of (i := t.val - 256) (by unfold Reg.INK_TSET; omega) (by omega) (by decide)),
      bankIdx_in (i := t.val) (by decide) (by unfold Reg.INK_TSET; omega) (by unfold Reg.INK_TSET; omega), fin_ofNat_val,
      when, if_pos (decide_eq_true ht)]
  · rw [if_neg (inBank_lt (by unfold Reg.INK_TSET; omega)), if_neg (inBank_lt (by unfold Reg.INK_TSET; omega)),
      if_neg (inBank_lt (by unfold Reg.INK_TSET; omega)),
      if_neg (show ¬ (Reg.INK_TSET t = Reg.INK_SLACK_CTL) by unfold Reg.INK_TSET Reg.INK_SLACK_CTL; omega),
      if_neg (inBank_lt (by unfold Reg.INK_TSET; omega)), when, if_neg (by simpa using ht)]

theorem regAct_INK_LIG_RING (l : Fin 64) (u : State) (m : Master) (cur w p : Word) :
    regAct u m (Reg.INK_LIG_RING l) false cur w p = when (decide (32 ≤ l.val)) u (fun s => ligRun (newInstant s) l) := by
  have h := l.isLt
  unfold regAct
  rw [if_neg (by unfold Reg.INK_LIG_RING; omega), if_pos (by unfold Reg.INK_LIG_RING; omega)]
  unfold actInkwell
  rw [if_neg (inBank_ge (by decide) (by unfold Reg.INK_LIG_RING; omega)),
    if_neg (inBank_ge (by decide) (by unfold Reg.INK_LIG_RING; omega)),
    if_neg (inBank_ge (by decide) (by unfold Reg.INK_LIG_RING; omega)),
    if_neg (inBank_ge (by decide) (by unfold Reg.INK_LIG_RING; omega))]
  unfold when
  by_cases hl : 32 ≤ l.val
  · rw [if_pos (inBank_of (i := l.val - 32) (by unfold Reg.INK_LIG_RING; omega) (by omega) (by decide)),
      bankIdx_in (i := l.val) (by decide) (by unfold Reg.INK_LIG_RING; omega) (by unfold Reg.INK_LIG_RING; omega),
      fin_ofNat_val, if_pos (decide_eq_true hl)]
  · rw [if_neg (inBank_lt (by unfold Reg.INK_LIG_RING; omega)),
      if_neg (show ¬ (Reg.INK_LIG_RING l = Reg.INK_SLACK_CTL) by unfold Reg.INK_LIG_RING Reg.INK_SLACK_CTL; omega),
      if_neg (inBank_lt (by unfold Reg.INK_LIG_RING; omega)), if_neg (by simpa using hl)]

theorem regAct_QE_CTL (e : Fin 16) (u : State) (m : Master) (cur w p : Word) :
    regAct u m (Reg.QE_CTL e) false cur w p =
      when (bit p 4) (modeWrite u e (BitVec.ofNat 2 (fld w 0 2))) (fun s => debugStep s e) := by
  have h := e.isLt
  unfold regAct
  rw [if_pos (by unfold Reg.QE_CTL; omega)]
  unfold actEngine
  rw [if_pos (inBank_of (i := e.val) (by unfold Reg.QE_CTL; omega) (by omega) (by decide)),
    bankIdx_in (i := e.val) (by decide) (by unfold Reg.QE_CTL; omega) (by unfold Reg.QE_CTL; omega), fin_ofNat_val]
  rfl

end Sys2Proof.Machine
end

