-- ==== Sys2Proof/Laws/Fields.lean ====
section
/-! SUPPORT. What a field, a bit and a counter of a register read after another was set. -/

namespace Sys2Proof.Machine

theorem testBit_fld (w : Word) (lo n i : Nat) : (fld w lo n).testBit i = (decide (i < n) && bit w (lo + i)) := by
  unfold fld bit
  rw [Nat.testBit_mod_two_pow, Nat.testBit_shiftRight, BitVec.testBit_toNat]

theorem bit_maskOf (lo n : Nat) {i : Nat} (hi : i < 32) : bit (maskOf lo n) i = decide (lo ≤ i ∧ i < lo + n) := by
  unfold bit maskOf
  rw [BitVec.getLsbD_ofNat, Nat.testBit_shiftLeft, Nat.testBit_two_pow_sub_one]
  simp only [hi, decide_true, Bool.true_and]
  by_cases h : lo ≤ i
  · simp only [h, ge_iff_le, decide_true, Bool.true_and, true_and, decide_eq_decide]; omega
  · simp [h]

theorem bit_put (w : Word) (lo n v : Nat) {i : Nat} (hi : i < 32) :
    bit (put w lo n v) i = if lo ≤ i ∧ i < lo + n then v.testBit (i - lo) else bit w i := by
  have hm := bit_maskOf lo n hi
  unfold bit put at *
  rw [BitVec.getLsbD_or, BitVec.getLsbD_and, BitVec.getLsbD_not, hm, BitVec.getLsbD_ofNat, Nat.testBit_shiftLeft,
    Nat.testBit_mod_two_pow]
  simp only [hi, decide_true, Bool.true_and]
  by_cases h : lo ≤ i ∧ i < lo + n
  · simp [h, show i - lo < n by omega]
  · rw [if_neg h]
    by_cases h1 : lo ≤ i
    · simp [h1, show ¬ i < lo + n by omega, show ¬ i - lo < n by omega]
    · simp [h1]

theorem bit_high (w : Word) {i : Nat} (hi : 32 ≤ i) : bit w i = false := BitVec.getLsbD_of_ge w i hi

/-- A field that was set reads the low bits of its value. -/
theorem fld_put_self (w : Word) {lo n : Nat} (v : Nat) (h : lo + n ≤ 32) : fld (put w lo n v) lo n = v % 2 ^ n := by
  apply Nat.eq_of_testBit_eq
  intro i
  rw [testBit_fld, Nat.testBit_mod_two_pow]
  by_cases hi : i < n
  · rw [bit_put w lo n v (show lo + i < 32 by omega), if_pos (by omega), Nat.add_sub_cancel_left]
  · simp [hi]

/-- A field beside the one that was set keeps its value. -/
theorem fld_put_ne (w : Word) {lo n lo' n' : Nat} (v : Nat) (h : lo' + n' ≤ lo ∨ lo + n ≤ lo') :
    fld (put w lo n v) lo' n' = fld w lo' n' := by
  apply Nat.eq_of_testBit_eq
  intro i
  rw [testBit_fld, testBit_fld]
  by_cases hi : i < n'
  · by_cases h32 : lo' + i < 32
    · rw [bit_put w lo n v h32, if_neg (by omega)]
    · rw [bit_high _ (by omega), bit_high _ (by omega)]
  · simp [hi]

theorem bit_put_ne (w : Word) {lo n i : Nat} (v : Nat) (h : i < lo ∨ lo + n ≤ i) : bit (put w lo n v) i = bit w i := by
  by_cases hi : i < 32
  · rw [bit_put w lo n v hi, if_neg (by omega)]
  · rw [bit_high _ (by omega), bit_high _ (by omega)]

theorem bit_putBit (w : Word) {i j : Nat} (b : Bool) (hj : j < 32) :
    bit (putBit w i b) j = if j = i then b else bit w j := by
  unfold putBit
  rw [bit_put w i 1 _ hj]
  by_cases h : j = i
  · subst h
    cases b <;> simp
  · rw [if_neg (by omega), if_neg h]

theorem bit_putBit_self (w : Word) {i : Nat} (hi : i < 32) (b : Bool) : bit (putBit w i b) i = b := by
  rw [bit_putBit w b hi, if_pos rfl]

theorem bit_putBit_ne (w : Word) {i j : Nat} (b : Bool) (h : j ≠ i) : bit (putBit w i b) j = bit w j :=
  bit_put_ne w _ (by omega)

theorem fld_putBit_ne (w : Word) {i lo n : Nat} (b : Bool) (h : lo + n ≤ i ∨ i < lo) :
    fld (putBit w i b) lo n = fld w lo n := fld_put_ne w _ (by omega)

theorem fld_lt (w : Word) (lo n : Nat) : fld w lo n < 2 ^ n := Nat.mod_lt _ (Nat.two_pow_pos n)

theorem bit_orWord (v k : Word) (i : Nat) : bit (v ||| k) i = (bit v i || bit k i) := BitVec.getLsbD_or
theorem bit_andWord (v k : Word) (i : Nat) : bit (v &&& k) i = (bit v i && bit k i) := BitVec.getLsbD_and

theorem word_ext {v w : Word} (h : ∀ i, i < 32 → bit v i = bit w i) : v = w := by
  apply BitVec.eq_of_getLsbD_eq
  exact h

/-! The same over the register file. -/

theorem rdf_wrf_self (s : State) (a : Nat) {lo n : Nat} (v : Nat) (h : lo + n ≤ 32) :
    rdf (wrf s a lo n v) a lo n = v % 2 ^ n := by
  rw [rdf, wrf, rd_wr_self, fld_put_self _ _ h]

theorem rdf_wrf_ne (s : State) (a : Nat) {lo n lo' n' : Nat} (v : Nat) (h : lo' + n' ≤ lo ∨ lo + n ≤ lo') :
    rdf (wrf s a lo n v) a lo' n' = rdf s a lo' n' := by
  rw [rdf, wrf, rd_wr_self, fld_put_ne _ _ h, rdf]

theorem rdb_wrf_ne (s : State) (a : Nat) {lo n i : Nat} (v : Nat) (h : i < lo ∨ lo + n ≤ i) :
    rdb (wrf s a lo n v) a i = rdb s a i := by
  rw [rdb, wrf, rd_wr_self, bit_put_ne _ _ h, rdb]

theorem rdb_wrb_self (s : State) (a : Nat) {i : Nat} (hi : i < 32) (b : Bool) : rdb (wrb s a i b) a i = b := by
  rw [rdb, wrb, rd_wr_self, bit_putBit_self _ hi]

theorem rdb_wrb_ne (s : State) (a : Nat) {i j : Nat} (b : Bool) (h : j ≠ i) : rdb (wrb s a i b) a j = rdb s a j := by
  rw [rdb, wrb, rd_wr_self, bit_putBit_ne _ _ h, rdb]

theorem rdf_wrb_ne (s : State) (a : Nat) {i lo n : Nat} (b : Bool) (h : lo + n ≤ i ∨ i < lo) :
    rdf (wrb s a i b) a lo n = rdf s a lo n := by
  rw [rdf, wrb, rd_wr_self, fld_putBit_ne _ _ h, rdf]

theorem rd_wrf_ne (s : State) {a b : Nat} (lo n v : Nat) (h : b ≠ a) : rd (wrf s a lo n v) b = rd s b := rd_wr_ne s _ h
theorem rd_wrb_ne (s : State) {a b : Nat} (i : Nat) (v : Bool) (h : b ≠ a) : rd (wrb s a i v) b = rd s b := rd_wr_ne s _ h
theorem rd_incf_ne (s : State) {a b : Nat} (lo n : Nat) (h : b ≠ a) : rd (incf s a lo n) b = rd s b := rd_wr_ne s _ h
theorem rd_orReg_ne (s : State) {a b : Nat} (m : Word) (h : b ≠ a) : rd (orReg s a m) b = rd s b := rd_wr_ne s _ h

theorem satN_lt (n v : Nat) : satN n v < 2 ^ n := by
  have := Nat.two_pow_pos n
  unfold satN
  omega

/-- A counter field counts by one and stops at its largest value (R539). -/
theorem rdf_incf_self (s : State) (a : Nat) {lo n : Nat} (h : lo + n ≤ 32) :
    rdf (incf s a lo n) a lo n = satN n (rdf s a lo n + 1) := by
  rw [rdf, incf, rd_wr_self, incFld, fld_put_self _ _ h, Nat.mod_eq_of_lt (satN_lt n _), rdf]

theorem rdf_incf_ne (s : State) (a : Nat) {lo n lo' n' : Nat} (h : lo' + n' ≤ lo ∨ lo + n ≤ lo') :
    rdf (incf s a lo n) a lo' n' = rdf s a lo' n' := by
  rw [rdf, incf, rd_wr_self, incFld, fld_put_ne _ _ h, rdf]

theorem rdb_incf_ne (s : State) (a : Nat) {lo n i : Nat} (h : i < lo ∨ lo + n ≤ i) :
    rdb (incf s a lo n) a i = rdb s a i := by
  rw [rdb, incf, rd_wr_self, incFld, bit_put_ne _ _ h, rdb]

theorem satN_mod (n v : Nat) : satN n v % 2 ^ n = satN n v := Nat.mod_eq_of_lt (satN_lt n v)

end Sys2Proof.Machine
end

