-- ==== Sys2Proof/Laws/Kept.lean ====
section
/-! SUPPORT. What the shared operations keep: the waiting commands, the canonical forms and the bounds (`Kept`). -/

namespace Sys2Proof.Machine

/-- A change of fields that `Kept` does not speak of. -/
theorem Kept.mk_other {q : List Instr} {s : State} (h : Kept q s) {tick free : Nat} {base : Base} {ink : Ink}
    {axcfg : Tab 256 AxisCfg} {ax : Tab 256 AxisSt} {grp : Tab 32 GroupSt} {wave : Wave} {drafts : List DraftAxis}
    {loads : List BankLoad} {pins : Pins} {dct : Dct} {lf : Tab 8 LfCh} {tp : Tab 16 TpSt} {sb : Tab 4 SbCt} {pln : Pln}
    {isl : Isl} {pwr : Pwr} {stw : Stw} {mgn : Mgn} :
    Kept q { s with tick := tick, free := free, base := base, ink := ink, axcfg := axcfg, ax := ax, grp := grp,
                    wave := wave, drafts := drafts, loads := loads, pins := pins, dct := dct, lf := lf, tp := tp,
                    sb := sb, pln := pln, isl := isl, pwr := pwr, stw := stw, mgn := mgn } :=
  ⟨h.1, h.2, h.3, h.4, h.5, h.6, h.7, h.8, h.9⟩

theorem Kept.regs_mk {q : List Instr} {s : State} (h : Kept q s) {r : List (Nat × Word)} (hr : smWf resetOf r = true) :
    Kept q { s with regs := r } := ⟨h.1, hr, h.3, h.4, h.5, h.6, h.7, h.8, h.9⟩

theorem Kept.mem_mk {q : List Instr} {s : State} (h : Kept q s) {m : Memory} (hm : Memory.wf m = true) :
    Kept q { s with mem := m } := ⟨h.1, h.2, hm, h.4, h.5, h.6, h.7, h.8, h.9⟩

theorem Kept.wmem_mk {q : List Instr} {s : State} (h : Kept q s) {m : Memory} (hm : Memory.wf m = true) :
    Kept q { s with wmem := m } := ⟨h.1, h.2, h.3, hm, h.5, h.6, h.7, h.8, h.9⟩

/-- Bytes stored in the main map, with other fields changed beside. -/
theorem Kept.mem_bytes {q : List Instr} {s : State} (h : Kept q s) {a : Nat} {l : List Byte} :
    Kept q { s with mem := s.mem.writeBytes a l } := h.mem_mk (Memory.wf_writeBytes l s.mem a h.mem)

theorem Kept.wmem_bytes {q : List Instr} {s : State} (h : Kept q s) {a : Nat} {l : List Byte} :
    Kept q { s with wmem := s.wmem.writeBytes a l } := h.wmem_mk (Memory.wf_writeBytes l s.wmem a h.wmem)

theorem Kept.wmem_words {q : List Instr} {s : State} (h : Kept q s) {a : Nat} {l : List Word} :
    Kept q { s with wmem := s.wmem.writeWords a l } := h.wmem_mk (Memory.wf_writeWords l s.wmem a h.wmem)

theorem Kept.wmem_word {q : List Instr} {s : State} (h : Kept q s) {a : Nat} {v : Word} :
    Kept q { s with wmem := s.wmem.write32 a v } := h.wmem_mk (Memory.wf_write32 s.wmem a v h.wmem)

/-- Both branches keep it. -/
theorem ite_kept {q : List Instr} {c : Prop} [Decidable c] {s t : State} (hs : Kept q s) (ht : Kept q t) :
    Kept q (if c then s else t) := by
  split
  · exact hs
  · exact ht

theorem wr_kept {q : List Instr} {s : State} {a : Nat} {v : Word} (h : Kept q s) : Kept q (wr s a v) :=
  h.regs_mk (smWf_smSet resetOf s.regs a v h.regs)

theorem wrf_kept {q : List Instr} {s : State} {a lo n v : Nat} (h : Kept q s) : Kept q (wrf s a lo n v) := wr_kept h

theorem wrb_kept {q : List Instr} {s : State} {a i : Nat} {b : Bool} (h : Kept q s) : Kept q (wrb s a i b) := wr_kept h

theorem incf_kept {q : List Instr} {s : State} {a lo n : Nat} (h : Kept q s) : Kept q (incf s a lo n) := wr_kept h

theorem orReg_kept {q : List Instr} {s : State} {a : Nat} {m : Word} (h : Kept q s) : Kept q (orReg s a m) := wr_kept h

theorem dropRegs_kept {q : List Instr} {s : State} {p : Nat → Bool} (h : Kept q s) : Kept q (dropRegs s p) :=
  h.regs_mk (smWf_smDrop resetOf s.regs p h.regs)

theorem mwr32_kept {q : List Instr} {s : State} {a : Nat} {v : Word} (h : Kept q s) : Kept q (mwr32 s a v) :=
  h.mem_mk (Memory.wf_write32 s.mem a v h.mem)

theorem mwr16_kept {q : List Instr} {s : State} {a : Nat} {v : Half} (h : Kept q s) : Kept q (mwr16 s a v) :=
  h.mem_mk (Memory.wf_write16 s.mem a v h.mem)

theorem mwr8_kept {q : List Instr} {s : State} {a : Nat} {v : Byte} (h : Kept q s) : Kept q (mwr8 s a v) :=
  h.mem_mk (Memory.wf_write s.mem a v h.mem)

theorem mwrWords_kept {q : List Instr} {s : State} {a : Nat} {ws : List Word} (h : Kept q s) : Kept q (mwrWords s a ws) :=
  h.mem_mk (Memory.wf_writeWords ws s.mem a h.mem)

/-- A change made for every element keeps what each change keeps. -/
theorem forAll_kept {q : List Instr} {α : Type} {l : List α} {s : State} {f : State → α → State} (h : Kept q s)
    (hf : ∀ t x, Kept q t → Kept q (f t x)) : Kept q (forAll l s f) := by
  unfold forAll
  induction l generalizing s with
  | nil => exact h
  | cons x r ih => exact ih (hf s x h)

theorem when_kept {q : List Instr} {c : Bool} {s : State} {f : State → State} (h : Kept q s)
    (hf : ∀ t, Kept q t → Kept q (f t)) : Kept q (when c s f) := by
  unfold when
  split
  · exact hf s h
  · exact h

/-- An entry of a table after one entry has changed satisfies what both the old entries and the new one satisfy. -/
theorem Tab.upd_all {n : Nat} {α : Type} {p : α → Prop} {t : Tab n α} {i : Fin n} {f : α → α} (h : ∀ j : Fin n, p t[j])
    (hf : ∀ x, p x → p (f x)) (j : Fin n) : p (t.upd i f)[j] := by
  unfold Tab.upd
  simp only [Fin.getElem_fin, Vector.getElem_set]
  split
  · exact hf _ (h i)
  · exact h j

/-- Such a change with the entry itself in sight. -/
theorem Tab.upd_all_at {n : Nat} {α : Type} {p : α → Prop} {t : Tab n α} {i : Fin n} {f : α → α} (h : ∀ j : Fin n, p t[j])
    (hf : p (f t[i])) (j : Fin n) : p (t.upd i f)[j] := by
  unfold Tab.upd
  simp only [Fin.getElem_fin, Vector.getElem_set]
  split
  · exact hf
  · exact h j

theorem updEng_kept_at {q : List Instr} {s : State} {e : Fin 16} {f : QEng → QEng} (h : Kept q s)
    (hr : (f s.eng[e]).reps.length ≤ 3) (hc : (f s.eng[e]).calls.length ≤ 3) : Kept q (updEng s e f) :=
  ⟨h.1, h.2, h.3, h.4, Tab.upd_all_at (p := fun (g : QEng) => g.reps.length ≤ 3) h.reps hr,
    Tab.upd_all_at (p := fun (g : QEng) => g.calls.length ≤ 3) h.calls hc, h.7, h.8, h.9⟩

/-- A change of an engine that lengthens neither stack. -/
theorem updEng_kept {q : List Instr} {s : State} {e : Fin 16} {f : QEng → QEng} (h : Kept q s)
    (hr : ∀ g, (f g).reps.length ≤ g.reps.length) (hc : ∀ g, (f g).calls.length ≤ g.calls.length) : Kept q (updEng s e f) :=
  updEng_kept_at h (Nat.le_trans (hr _) (h.reps e)) (Nat.le_trans (hc _) (h.calls e))

theorem updCap_kept_at {q : List Instr} {s : State} {n : Fin 16} {f : CapSt → CapSt} (h : Kept q s)
    (hf : (f s.cap[n]).fifo.length ≤ 8) : Kept q (updCap s n f) :=
  ⟨h.1, h.2, h.3, h.4, h.5, h.6, Tab.upd_all_at (p := fun (k : CapSt) => k.fifo.length ≤ 8) h.fifo hf, h.8, h.9⟩

/-- A change of a capture channel that does not lengthen its FIFO. -/
theorem updCap_kept {q : List Instr} {s : State} {n : Fin 16} {f : CapSt → CapSt} (h : Kept q s)
    (hf : ∀ k, (f k).fifo.length ≤ k.fifo.length) : Kept q (updCap s n f) :=
  updCap_kept_at h (Nat.le_trans (hf _) (h.fifo n))

theorem updFol_kept_at {q : List Instr} {s : State} {f : Fol → Fol} (h : Kept q s) (hf : (f s.fol).queue.length ≤ 64) :
    Kept q (updFol s f) := ⟨h.1, h.2, h.3, h.4, h.5, h.6, h.7, hf, h.9⟩

/-- A change of the trace that does not lengthen its queue. -/
theorem updFol_kept {q : List Instr} {s : State} {f : Fol → Fol} (h : Kept q s)
    (hf : ∀ x, (f x).queue.length ≤ x.queue.length) : Kept q (updFol s f) :=
  updFol_kept_at h (Nat.le_trans (hf _) h.trace)

/-- The trace back to its state after reset, whatever the state it is read from. -/
theorem Kept.fol_reset {q : List Instr} {s : State} (h : Kept q s) : Kept q { s with fol := State.reset.fol } :=
  ⟨h.1, h.2, h.3, h.4, h.5, h.6, h.7, Nat.zero_le _, h.9⟩

theorem updHst_kept {q : List Instr} {s : State} {f : Hst → Hst} (h : Kept q s) (hf : ∀ x, (f x).queue = x.queue) :
    Kept q (updHst s f) :=
  ⟨h.1, h.2, h.3, h.4, h.5, h.6, h.7, h.8, fun n => by
    have e : (updHst s f).hst.queue = s.hst.queue := hf s.hst
    rw [e]
    exact h.tags n⟩

theorem updQueue_kept {q : List Instr} {s : State} {n : Fin 8} {f : HQueue → HQueue} (h : Kept q s)
    (hf : ∀ k, k.tags.length ≤ 256 → (f k).tags.length ≤ 256) : Kept q (updQueue s n f) :=
  ⟨h.1, h.2, h.3, h.4, h.5, h.6, h.7, h.8,
    Tab.upd_all (p := fun (k : HQueue) => k.tags.length ≤ 256) (t := s.hst.queue) (i := n) (f := f) h.tags hf⟩

theorem wrList_kept {q : List Instr} (ws : List Word) : ∀ {s : State} {a : Nat}, Kept q s → Kept q (wrList s a ws) := by
  induction ws with
  | nil => exact fun h => h
  | cons w r ih => exact fun h => ih (wr_kept h)

/-! ## What State.reset holds within its bounds -/

theorem reset_reps (e : Fin 16) : State.reset.eng[e].reps.length ≤ 3 := by
  simp [State.reset, QEng.reset]

theorem reset_calls (e : Fin 16) : State.reset.eng[e].calls.length ≤ 3 := by
  simp [State.reset, QEng.reset]

theorem reset_fifo (n : Fin 16) : State.reset.cap[n].fifo.length ≤ 8 := by
  simp [State.reset]

theorem reset_trace : State.reset.fol.queue.length ≤ 64 := Nat.zero_le _

theorem reset_tags (n : Fin 8) : State.reset.hst.queue[n].tags.length ≤ 256 := by
  simp [State.reset, Hst.reset]

end Sys2Proof.Machine
end

