-- ==== Sys2Proof/Laws/KeptOps.lean ====
section
/-! SUPPORT. What is kept (`Kept`) by each function of Machine/Ops.lean, Machine/Inkwell.lean, Machine/Folio.lean, Machine/HostQueue.lean. -/

namespace Sys2Proof.Machine

theorem takeNat_kept {q : List Instr}  {s : State} (h : Kept q s) : Kept q (takeNat s).2 := by
  unfold takeNat
  repeat' first
    | with_reducible assumption
    | intro _
    | split
    | dsimp only
    | with_reducible apply Kept.mem_bytes
    | with_reducible apply Kept.wmem_bytes
    | with_reducible apply Kept.wmem_words
    | with_reducible apply Kept.wmem_word
    | with_reducible apply Kept.mk_other

theorem takeNat_keptE {q : List Instr}  {s tR : State} {xR : Nat} (h : Kept q s) (hE : takeNat s = (xR, tR)) : Kept q tR := by
  have := takeNat_kept (q := q)  h
  rw [hE] at this
  exact this

theorem takeWords_kept {q : List Instr} (n : Nat) : ∀ {s : State}, Kept q s → Kept q (takeWords n s).2 := by
  induction n with
  | zero => exact fun h => h
  | succ n ih => exact fun h => ih (takeNat_kept h)

theorem takeInt_kept {q : List Instr}  {s : State} (h : Kept q s) : Kept q (takeInt s).2 := by
  unfold takeInt
  repeat' first
    | with_reducible assumption
    | intro _
    | split
    | dsimp only
    | with_reducible apply Kept.mem_bytes
    | with_reducible apply Kept.wmem_bytes
    | with_reducible apply Kept.wmem_words
    | with_reducible apply Kept.wmem_word
    | with_reducible apply Kept.mk_other

theorem takeInt_keptE {q : List Instr}  {s tR : State} {xR : Int} (h : Kept q s) (hE : takeInt s = (xR, tR)) : Kept q tR := by
  have := takeInt_kept (q := q)  h
  rw [hE] at this
  exact this

theorem setPeriod_kept {q : List Instr} {p : Nat} {s : State} (h : Kept q s) : Kept q (setPeriod s p) := by
  unfold setPeriod
  repeat' first
    | with_reducible assumption
    | intro _
    | with_reducible apply wrf_kept
    | with_reducible apply wr_kept
    | with_reducible apply ite_kept
    | split
    | dsimp only
    | with_reducible apply Kept.mem_bytes
    | with_reducible apply Kept.wmem_bytes
    | with_reducible apply Kept.wmem_words
    | with_reducible apply Kept.wmem_word
    | with_reducible apply Kept.mk_other

theorem scIrq_kept {q : List Instr} {c : Fin 16} {b : Nat} {s : State} (h : Kept q s) : Kept q (scIrq s c b) := by
  unfold scIrq
  repeat' first
    | with_reducible assumption
    | intro _
    | with_reducible apply when_kept
    | with_reducible apply wrb_kept
    | with_reducible apply ite_kept
    | split
    | dsimp only

theorem scIrqAll_kept {q : List Instr} {b : Nat} {s : State} (h : Kept q s) : Kept q (scIrqAll s b) := by
  unfold scIrqAll
  repeat' first
    | with_reducible assumption
    | intro _
    | with_reducible apply forAll_kept
    | with_reducible apply scIrq_kept
    | with_reducible apply ite_kept
    | split
    | dsimp only

theorem showQueue_kept {q : List Instr} {c : Fin 16} {s : State} (h : Kept q s) : Kept q (showQueue s c) := by
  unfold showQueue
  repeat' first
    | with_reducible assumption
    | intro _
    | with_reducible apply wrf_kept
    | with_reducible apply when_kept
    | with_reducible apply wrb_kept
    | with_reducible apply ite_kept
    | split
    | dsimp only

theorem updHart_kept {q : List Instr} {c : Fin 16} {f : Hart → Hart} {s : State} (h : Kept q s) : Kept q (updHart s c f) := by
  unfold updHart
  repeat' first
    | with_reducible assumption
    | intro _
    | with_reducible apply ite_kept
    | split
    | dsimp only
    | with_reducible apply Kept.mem_bytes
    | with_reducible apply Kept.wmem_bytes
    | with_reducible apply Kept.wmem_words
    | with_reducible apply Kept.wmem_word
    | with_reducible apply Kept.mk_other

theorem coreTrap_kept {q : List Instr} {c : Fin 16} {cause : Word} {tval : Word} {s : State} (h : Kept q s) : Kept q (coreTrap s c cause tval) := by
  unfold coreTrap
  repeat' first
    | with_reducible assumption
    | intro _
    | with_reducible apply wrf_kept
    | with_reducible apply updHart_kept
    | with_reducible apply when_kept
    | with_reducible apply ite_kept
    | split
    | dsimp only

theorem coreWake_kept {q : List Instr} {c : Fin 16} {s : State} (h : Kept q s) : Kept q (coreWake s c) := by
  unfold coreWake
  repeat' first
    | with_reducible assumption
    | intro _
    | with_reducible apply wrf_kept
    | with_reducible apply when_kept
    | with_reducible apply ite_kept
    | split
    | dsimp only

theorem setTaskState_kept {q : List Instr} {t : Fin 512} {v : Nat} {s : State} (h : Kept q s) : Kept q (setTaskState s t v) := by
  unfold setTaskState
  repeat' first
    | with_reducible assumption
    | intro _
    | with_reducible apply wrf_kept
    | with_reducible apply ite_kept
    | split
    | dsimp only

theorem updTask_kept {q : List Instr} {t : Fin 512} {f : Task → Task} {s : State} (h : Kept q s) : Kept q (updTask s t f) := by
  unfold updTask
  repeat' first
    | with_reducible assumption
    | intro _
    | with_reducible apply ite_kept
    | split
    | dsimp only
    | with_reducible apply Kept.mem_bytes
    | with_reducible apply Kept.wmem_bytes
    | with_reducible apply Kept.wmem_words
    | with_reducible apply Kept.wmem_word
    | with_reducible apply Kept.mk_other

theorem updCore_kept {q : List Instr} {c : Fin 16} {f : CoreSt → CoreSt} {s : State} (h : Kept q s) : Kept q (updCore s c f) := by
  unfold updCore
  repeat' first
    | with_reducible assumption
    | intro _
    | with_reducible apply ite_kept
    | split
    | dsimp only
    | with_reducible apply Kept.mem_bytes
    | with_reducible apply Kept.wmem_bytes
    | with_reducible apply Kept.wmem_words
    | with_reducible apply Kept.wmem_word
    | with_reducible apply Kept.mk_other

theorem updReady_kept {q : List Instr} {p : Fin 4} {f : List (Fin 512) → List (Fin 512)} {s : State} (h : Kept q s) : Kept q (updReady s p f) := by
  unfold updReady
  repeat' first
    | with_reducible assumption
    | intro _
    | with_reducible apply ite_kept
    | split
    | dsimp only
    | with_reducible apply Kept.mem_bytes
    | with_reducible apply Kept.wmem_bytes
    | with_reducible apply Kept.wmem_words
    | with_reducible apply Kept.wmem_word
    | with_reducible apply Kept.mk_other

theorem updLig_kept {q : List Instr} {l : Fin 64} {f : List LigEntry → List LigEntry} {s : State} (h : Kept q s) : Kept q (updLig s l f) := by
  unfold updLig
  repeat' first
    | with_reducible assumption
    | intro _
    | with_reducible apply ite_kept
    | split
    | dsimp only
    | with_reducible apply Kept.mem_bytes
    | with_reducible apply Kept.wmem_bytes
    | with_reducible apply Kept.wmem_words
    | with_reducible apply Kept.wmem_word
    | with_reducible apply Kept.mk_other

theorem newInstant_kept {q : List Instr}  {s : State} (h : Kept q s) : Kept q (newInstant s) := by
  unfold newInstant
  repeat' first
    | with_reducible assumption
    | intro _
    | with_reducible apply ite_kept
    | split
    | dsimp only
    | with_reducible apply Kept.mem_bytes
    | with_reducible apply Kept.wmem_bytes
    | with_reducible apply Kept.wmem_words
    | with_reducible apply Kept.wmem_word
    | with_reducible apply Kept.mk_other

theorem enterReady_kept {q : List Instr} {t : Fin 512} {s : State} (h : Kept q s) : Kept q (enterReady s t) := by
  unfold enterReady
  repeat' first
    | with_reducible assumption
    | intro _
    | with_reducible apply updReady_kept
    | with_reducible apply ite_kept
    | split
    | dsimp only

theorem leaveReady_kept {q : List Instr} {t : Fin 512} {s : State} (h : Kept q s) : Kept q (leaveReady s t) := by
  unfold leaveReady
  repeat' first
    | with_reducible assumption
    | intro _
    | with_reducible apply forAll_kept
    | with_reducible apply updReady_kept
    | with_reducible apply ite_kept
    | split
    | dsimp only

theorem testReady_kept {q : List Instr} {t : Fin 512} {s : State} (h : Kept q s) : Kept q (testReady s t) := by
  unfold testReady
  repeat' first
    | with_reducible assumption
    | intro _
    | with_reducible apply updTask_kept
    | with_reducible apply setTaskState_kept
    | with_reducible apply enterReady_kept
    | with_reducible apply ite_kept
    | split
    | dsimp only

theorem toWaiting_kept {q : List Instr} {t : Fin 512} {s : State} (h : Kept q s) : Kept q (toWaiting s t) := by
  unfold toWaiting
  repeat' first
    | with_reducible assumption
    | intro _
    | with_reducible apply testReady_kept
    | with_reducible apply setTaskState_kept
    | with_reducible apply ite_kept
    | split
    | dsimp only

theorem orFlags_kept {q : List Instr} {t : Fin 512} {m : Word} {s : State} (h : Kept q s) : Kept q (orFlags s t m) := by
  unfold orFlags
  repeat' first
    | with_reducible assumption
    | intro _
    | with_reducible apply when_kept
    | with_reducible apply orReg_kept
    | with_reducible apply ite_kept
    | split
    | dsimp only

theorem setFlags_kept {q : List Instr} {t : Fin 512} {m : Word} {s : State} (h : Kept q s) : Kept q (setFlags s t m) := by
  unfold setFlags
  repeat' first
    | with_reducible assumption
    | intro _
    | with_reducible apply testReady_kept
    | with_reducible apply orFlags_kept
    | with_reducible apply newInstant_kept
    | with_reducible apply ite_kept
    | split
    | dsimp only

theorem raiseEvent_kept {q : List Instr} {code : Nat} {s : State} (h : Kept q s) : Kept q (raiseEvent s code) := by
  unfold raiseEvent
  repeat' first
    | with_reducible assumption
    | intro _
    | with_reducible apply forAll_kept
    | with_reducible apply testReady_kept
    | with_reducible apply orFlags_kept
    | with_reducible apply ite_kept
    | split
    | dsimp only

theorem addInfl_kept {q : List Instr} {d : Int} {s : State} (h : Kept q s) : Kept q (addInfl s d) := by
  unfold addInfl
  repeat' first
    | with_reducible assumption
    | intro _
    | with_reducible apply wrf_kept
    | with_reducible apply when_kept
    | with_reducible apply ite_kept
    | split
    | dsimp only

theorem ligReleaseOne_kept {q : List Instr} {l : Fin 64} {e : LigEntry} {s : State} (h : Kept q s) : Kept q (ligReleaseOne s l e) := by
  unfold ligReleaseOne
  repeat' first
    | with_reducible assumption
    | intro _
    | with_reducible apply wrf_kept
    | with_reducible apply addInfl_kept
    | with_reducible apply mwrWords_kept
    | with_reducible apply raiseEvent_kept
    | with_reducible apply updLig_kept
    | with_reducible apply toWaiting_kept
    | with_reducible apply ite_kept
    | split
    | dsimp only

theorem ligRelease_kept {q : List Instr} {l : Fin 64} (es : List LigEntry) :
    ∀ {s : State}, Kept q s → Kept q (ligRelease l es s) := by
  induction es with
  | nil => exact fun h => h
  | cons e r ih =>
    intro s h
    unfold ligRelease
    repeat' split
    · exact wrb_kept h
    · exact ih (ligReleaseOne_kept h)
    · exact h

theorem ligRun_kept {q : List Instr} {l : Fin 64} {s : State} (h : Kept q s) : Kept q (ligRun s l) := by
  unfold ligRun
  repeat' first
    | with_reducible assumption
    | intro _
    | with_reducible apply ligRelease_kept
    | with_reducible apply ite_kept
    | split
    | dsimp only

theorem submit_kept {q : List Instr} {t : Fin 512} {s : State} (h : Kept q s) : Kept q (submit s t) := by
  unfold submit
  repeat' first
    | with_reducible assumption
    | intro _
    | with_reducible apply wrf_kept
    | with_reducible apply addInfl_kept
    | with_reducible apply updLig_kept
    | with_reducible apply ite_kept
    | split
    | dsimp only

theorem placeOne_kept {q : List Instr}  {s : State} (h : Kept q s) : Kept q (placeOne s) := by
  unfold placeOne
  repeat' first
    | with_reducible assumption
    | intro _
    | with_reducible apply updCore_kept
    | with_reducible apply wrf_kept
    | with_reducible apply submit_kept
    | with_reducible apply setTaskState_kept
    | with_reducible apply showQueue_kept
    | with_reducible apply leaveReady_kept
    | with_reducible apply ite_kept
    | split
    | dsimp only

theorem coreTake_kept {q : List Instr} {c : Fin 16} {s : State} (h : Kept q s) : Kept q (coreTake s c).2 := by
  unfold coreTake
  repeat' first
    | with_reducible assumption
    | intro _
    | with_reducible apply updCore_kept
    | with_reducible apply wrf_kept
    | with_reducible apply updTask_kept
    | with_reducible apply setTaskState_kept
    | with_reducible apply wr_kept
    | with_reducible apply showQueue_kept
    | with_reducible apply wrb_kept
    | split
    | dsimp only

theorem coreTake_keptE {q : List Instr} {c : Fin 16} {s tR : State} {xR : Word} (h : Kept q s) (hE : coreTake s c = (xR, tR)) : Kept q tR := by
  have := coreTake_kept (q := q) (c := c) h
  rw [hE] at this
  exact this

theorem endTask_kept {q : List Instr} {c : Fin 16} {failed : Bool} {s : State} (h : Kept q s) : Kept q (endTask s c failed) := by
  unfold endTask
  repeat' first
    | with_reducible assumption
    | intro _
    | with_reducible apply updCore_kept
    | with_reducible apply updTask_kept
    | with_reducible apply setTaskState_kept
    | with_reducible apply updLig_kept
    | with_reducible apply ligRun_kept
    | with_reducible apply toWaiting_kept
    | with_reducible apply ite_kept
    | split
    | dsimp only

theorem coreDone_kept {q : List Instr} {c : Fin 16} {v : Word} {s : State} (h : Kept q s) : Kept q (coreDone s c v) := by
  unfold coreDone
  repeat' first
    | with_reducible assumption
    | intro _
    | with_reducible apply endTask_kept
    | with_reducible apply newInstant_kept
    | with_reducible apply wrb_kept
    | with_reducible apply ite_kept
    | split
    | dsimp only

theorem backToReady_kept {q : List Instr} {t : Fin 512} {s : State} (h : Kept q s) : Kept q (backToReady s t) := by
  unfold backToReady
  repeat' first
    | with_reducible assumption
    | intro _
    | with_reducible apply setTaskState_kept
    | with_reducible apply enterReady_kept
    | with_reducible apply ite_kept
    | split
    | dsimp only

theorem coreStop_kept {q : List Instr} {c : Fin 16} {s : State} (h : Kept q s) : Kept q (coreStop s c) := by
  unfold coreStop
  repeat' first
    | with_reducible assumption
    | intro _
    | with_reducible apply updCore_kept
    | with_reducible apply forAll_kept
    | with_reducible apply backToReady_kept
    | with_reducible apply showQueue_kept
    | with_reducible apply endTask_kept
    | with_reducible apply ite_kept
    | split
    | dsimp only

theorem scSetRun_kept {q : List Instr} {c : Fin 16} {run : Bool} {s : State} (h : Kept q s) : Kept q (scSetRun s c run) := by
  unfold scSetRun
  repeat' first
    | with_reducible assumption
    | intro _
    | with_reducible apply updCore_kept
    | with_reducible apply wrf_kept
    | with_reducible apply coreStop_kept
    | with_reducible apply wrb_kept
    | with_reducible apply ite_kept
    | split
    | dsimp only

theorem inkPage_kept {q : List Instr} {pageNs : Nat} {s : State} (h : Kept q s) : Kept q (inkPage s pageNs) := by
  unfold inkPage
  repeat' first
    | with_reducible assumption
    | intro _
    | with_reducible apply updCore_kept
    | with_reducible apply wrf_kept
    | with_reducible apply forAll_kept
    | with_reducible apply ite_kept
    | split
    | dsimp only

theorem taskConfigured_kept {q : List Instr} {t : Fin 512} {s : State} (h : Kept q s) : Kept q (taskConfigured s t) := by
  unfold taskConfigured
  repeat' first
    | with_reducible assumption
    | intro _
    | with_reducible apply testReady_kept
    | with_reducible apply setTaskState_kept
    | with_reducible apply leaveReady_kept
    | with_reducible apply enterReady_kept
    | with_reducible apply newInstant_kept
    | with_reducible apply toWaiting_kept
    | with_reducible apply ite_kept
    | split
    | dsimp only

theorem setFolState_kept {q : List Instr} {v : Nat} {s : State} (h : Kept q s) : Kept q (setFolState s v) := by
  unfold setFolState
  repeat' first
    | with_reducible assumption
    | intro _
    | with_reducible apply wrf_kept
    | with_reducible apply ite_kept
    | split
    | dsimp only

theorem folStore_kept {q : List Instr} {kind : Nat} {ch : Nat} {tag : Word × Word × Word} {v : Word} {s : State} (h : Kept q s) : Kept q (folStore s kind ch tag v) := by
  unfold folStore
  repeat' first
    | with_reducible assumption
    | intro _
    | with_reducible apply wrf_kept
    | with_reducible apply setFolState_kept
    | with_reducible apply mwrWords_kept
    | with_reducible apply when_kept
    | with_reducible apply updFol_kept
    | exact Nat.le_refl _
    | rfl
    | exact List.length_filter_le _ _
    | exact Nat.zero_le _
    | (rw [List.length_tail]; exact Nat.sub_le _ _)
    | (rw [List.length_map]; assumption)
    | (dsimp only; assumption)
    | with_reducible apply ite_kept
    | split
    | dsimp only

theorem folSnapshot_kept {q : List Instr} {t : BTime} {val : State → Fin 32 → Word} {s : State} (h : Kept q s) : Kept q (folSnapshot s t val) := by
  unfold folSnapshot
  repeat' first
    | with_reducible assumption
    | intro _
    | with_reducible apply forAll_kept
    | with_reducible apply folStore_kept
    | with_reducible apply updFol_kept
    | exact Nat.le_refl _
    | rfl
    | exact List.length_filter_le _ _
    | exact Nat.zero_le _
    | (rw [List.length_tail]; exact Nat.sub_le _ _)
    | (rw [List.length_map]; assumption)
    | (dsimp only; assumption)
    | with_reducible apply ite_kept
    | split
    | dsimp only

theorem folStoreNext_kept {q : List Instr} {s : State} (h : Kept q s) : Kept q (folStoreNext s) := by
  unfold folStoreNext
  split
  · exact h
  · rename_i e r hr
    have h1 : Kept q (folStore (updFol s (fun f => { f with queue := r })) 0 e.ch e.tag e.val) := by
      refine folStore_kept (updFol_kept_at h ?_)
      have := h.trace
      rw [hr] at this
      simp only [List.length_cons] at this
      dsimp only
      omega
    exact ite_kept h1 (updFol_kept (wrf_kept (folStore_kept h1)) (fun _ => Nat.le_refl _))

theorem folFlush_kept {q : List Instr}  {s : State} (h : Kept q s) : Kept q (folFlush s) := by
  unfold folFlush
  repeat' first
    | with_reducible assumption
    | intro _
    | with_reducible apply forAll_kept
    | with_reducible apply folStoreNext_kept
    | with_reducible apply ite_kept
    | split
    | dsimp only

theorem folTrigger_kept {q : List Instr} {t : BTime} {s : State} (h : Kept q s) : Kept q (folTrigger s t) := by
  unfold folTrigger
  repeat' first
    | with_reducible assumption
    | intro _
    | with_reducible apply wrf_kept
    | with_reducible apply folStore_kept
    | with_reducible apply incf_kept
    | with_reducible apply setFolState_kept
    | with_reducible apply folSnapshot_kept
    | with_reducible apply updFol_kept
    | with_reducible apply takeNat_kept
    | with_reducible apply folFlush_kept
    | exact Nat.le_refl _
    | rfl
    | exact List.length_filter_le _ _
    | exact Nat.zero_le _
    | (rw [List.length_tail]; exact Nat.sub_le _ _)
    | (rw [List.length_map]; assumption)
    | (dsimp only; assumption)
    | with_reducible apply ite_kept
    | split
    | dsimp only
    | (refine takeNat_keptE ?_ (by assumption))

theorem folEvent_kept {q : List Instr} {src : Nat} {hit : State → Bool} {s : State} (h : Kept q s) : Kept q (folEvent s src hit) := by
  unfold folEvent
  repeat' first
    | with_reducible assumption
    | intro _
    | with_reducible apply when_kept
    | with_reducible apply folTrigger_kept
    | with_reducible apply ite_kept
    | split
    | dsimp only

theorem folChange_kept {q : List Instr} {c : Fin 32} {t : BTime} {s : State} (h : Kept q s) : Kept q (folChange s c t) := by
  unfold folChange
  dsimp only
  repeat' split
  · exact h
  · exact updFol_kept h (fun _ => Nat.le_refl _)
  · refine updFol_kept_at h ?_
    simp only [List.length_append, List.length_cons, List.length_nil]
    omega

theorem folSample_kept {q : List Instr} {src : Nat} {t : BTime} {s : State} (h : Kept q s) : Kept q (folSample s src t) := by
  unfold folSample
  repeat' first
    | with_reducible assumption
    | intro _
    | with_reducible apply forAll_kept
    | with_reducible apply when_kept
    | with_reducible apply folTrigger_kept
    | with_reducible apply folChange_kept
    | with_reducible apply ite_kept
    | split
    | dsimp only

theorem lineSample_kept {q : List Instr}  {s : State} (h : Kept q s) : Kept q (lineSample s) := by
  unfold lineSample
  repeat' first
    | with_reducible assumption
    | intro _
    | with_reducible apply when_kept
    | with_reducible apply folSample_kept
    | with_reducible apply ite_kept
    | split
    | dsimp only

theorem folArm_kept {q : List Instr}  {s : State} (h : Kept q s) : Kept q (folArm s) := by
  unfold folArm
  repeat' first
    | with_reducible assumption
    | intro _
    | with_reducible apply setFolState_kept
    | with_reducible apply folSnapshot_kept
    | with_reducible apply when_kept
    | with_reducible apply wr_kept
    | with_reducible apply updFol_kept
    | with_reducible apply wrb_kept
    | exact Nat.le_refl _
    | rfl
    | exact List.length_filter_le _ _
    | exact Nat.zero_le _
    | (rw [List.length_tail]; exact Nat.sub_le _ _)
    | (rw [List.length_map]; assumption)
    | (dsimp only; assumption)
    | with_reducible apply ite_kept
    | split
    | dsimp only

theorem folStop_kept {q : List Instr}  {s : State} (h : Kept q s) : Kept q (folStop s) := by
  unfold folStop
  repeat' first
    | with_reducible assumption
    | intro _
    | with_reducible apply setFolState_kept
    | with_reducible apply when_kept
    | with_reducible apply updFol_kept
    | exact Nat.le_refl _
    | rfl
    | exact List.length_filter_le _ _
    | exact Nat.zero_le _
    | (rw [List.length_tail]; exact Nat.sub_le _ _)
    | (rw [List.length_map]; assumption)
    | (dsimp only; assumption)
    | with_reducible apply ite_kept
    | split
    | dsimp only

theorem folForce_kept {q : List Instr}  {s : State} (h : Kept q s) : Kept q (folForce s) := by
  unfold folForce
  repeat' first
    | with_reducible assumption
    | intro _
    | with_reducible apply folEvent_kept
    | with_reducible apply ite_kept
    | split
    | dsimp only

theorem folWriteNext_kept {q : List Instr} {s : State} (h : Kept q s) : Kept q (folWriteNext s) := by
  unfold folWriteNext
  refine ite_kept (ite_kept h (ite_kept ?_ (folStoreNext_kept h))) h
  exact when_kept (updFol_kept (folStoreNext_kept h) (fun _ => Nat.le_refl _)) (fun _ hu =>
    updFol_kept (setFolState_kept hu) (fun _ => Nat.zero_le _))

theorem respond_kept {q : List Instr} {m : Master} {r : Resp} {s : State} (h : Kept q s) : Kept q (respond s m r) := by
  unfold respond
  repeat' first
    | with_reducible assumption
    | intro _
    | with_reducible apply updHst_kept
    | exact Nat.le_refl _
    | rfl
    | exact List.length_filter_le _ _
    | exact Nat.zero_le _
    | (rw [List.length_tail]; exact Nat.sub_le _ _)
    | (rw [List.length_map]; assumption)
    | (dsimp only; assumption)
    | with_reducible apply ite_kept
    | split
    | dsimp only

theorem pcieReset_kept {q : List Instr}  {s : State} (h : Kept q s) : Kept q (pcieReset s) := by
  unfold pcieReset
  repeat' first
    | with_reducible assumption
    | intro _
    | with_reducible apply updHst_kept
    | exact Nat.le_refl _
    | rfl
    | exact List.length_filter_le _ _
    | exact Nat.zero_le _
    | (rw [List.length_tail]; exact Nat.sub_le _ _)
    | (rw [List.length_map]; assumption)
    | (dsimp only; assumption)
    | with_reducible apply ite_kept
    | split
    | dsimp only

theorem sendVector_kept {q : List Instr} {v : Fin 64} {s : State} (h : Kept q s) : Kept q (sendVector s v) := by
  unfold sendVector
  repeat' first
    | with_reducible assumption
    | intro _
    | with_reducible apply updHst_kept
    | exact Nat.le_refl _
    | rfl
    | exact List.length_filter_le _ _
    | exact Nat.zero_le _
    | (rw [List.length_tail]; exact Nat.sub_le _ _)
    | (rw [List.length_map]; assumption)
    | (dsimp only; assumption)
    | with_reducible apply ite_kept
    | split
    | dsimp only

theorem sendPending_kept {q : List Instr} {v : Fin 64} {s : State} (h : Kept q s) : Kept q (sendPending s v) := by
  unfold sendPending
  repeat' first
    | with_reducible assumption
    | intro _
    | with_reducible apply sendVector_kept
    | with_reducible apply updHst_kept
    | exact Nat.le_refl _
    | rfl
    | exact List.length_filter_le _ _
    | exact Nat.zero_le _
    | (rw [List.length_tail]; exact Nat.sub_le _ _)
    | (rw [List.length_map]; assumption)
    | (dsimp only; assumption)
    | with_reducible apply ite_kept
    | split
    | dsimp only

theorem hstIrq_kept {q : List Instr} {b : Nat} {s : State} (h : Kept q s) : Kept q (hstIrq s b) := by
  unfold hstIrq
  repeat' first
    | with_reducible assumption
    | intro _
    | with_reducible apply sendVector_kept
    | with_reducible apply when_kept
    | with_reducible apply wrb_kept
    | with_reducible apply ite_kept
    | split
    | dsimp only

theorem advanceRd_kept {q : List Instr} {n : Fin 8} (k : Nat) : ∀ {s : State}, Kept q s → Kept q (advanceRd n k s) := by
  induction k with
  | zero => exact fun h => h
  | succ k ih =>
    intro s h
    unfold advanceRd
    dsimp only
    split
    · exact ih (wrf_kept (updQueue_kept h (fun _ hk => hk)))
    · exact h

theorem ackEntry_kept {q : List Instr} {q0 : Fin 8} {i : Byte} {w : Word} {s : State} (h : Kept q s) : Kept q (ackEntry s q0 i w) := by
  unfold ackEntry
  repeat' first
    | with_reducible assumption
    | intro _
    | with_reducible apply mwr32_kept
    | with_reducible apply updQueue_kept
    | with_reducible apply when_kept
    | with_reducible apply hstIrq_kept
    | with_reducible apply advanceRd_kept
    | exact Nat.le_refl _
    | rfl
    | exact List.length_filter_le _ _
    | exact Nat.zero_le _
    | (rw [List.length_tail]; exact Nat.sub_le _ _)
    | (rw [List.length_map]; assumption)
    | (dsimp only; assumption)
    | with_reducible apply ite_kept
    | split
    | dsimp only

theorem ackTag_kept {q : List Instr} {n : Fin 8} {tag : Half} {r : Nat} {s : State} (h : Kept q s) :
    Kept q (ackTag s n tag r) := by
  unfold ackTag
  dsimp only
  split
  · exact h
  · exact forAll_kept (ackEntry_kept (updQueue_kept h (fun _ hk => by rw [List.length_map]; exact hk)))
      (fun _ _ ht => ackEntry_kept ht)

theorem answer_kept {q : List Instr} {src : ReqSrc} {result : Nat} {s : State} (h : Kept q s) : Kept q (answer s src result) := by
  unfold answer
  repeat' first
    | with_reducible assumption
    | intro _
    | with_reducible apply ackTag_kept
    | with_reducible apply ite_kept
    | split
    | dsimp only

end Sys2Proof.Machine
end

