-- ==== Sys2Proof/Laws/KeptMargin.lean ====
section
/-! SUPPORT. What is kept (`Kept`) by each function of Machine/Margin.lean. -/

namespace Sys2Proof.Machine

theorem updMgn_kept {q : List Instr} {f : Mgn → Mgn} {s : State} (h : Kept q s) : Kept q (updMgn s f) := by
  unfold updMgn
  repeat' first
    | with_reducible assumption
    | intro _
    | with_reducible apply ite_kept
    | split
    | dsimp only
    | with_reducible apply Kept.mem_bytes
    | with_reducible apply Kept.wmem_bytes
    | with_reducible apply Kept.wmem_words
    | with_reducible apply Kept.wmem_word
    | with_reducible apply Kept.mk_other

theorem setClsState_kept {q : List Instr} {c : Nat} {v : Nat} {s : State} (h : Kept q s) : Kept q (setClsState s c v) := by
  unfold setClsState
  repeat' first
    | with_reducible assumption
    | intro _
    | with_reducible apply wrf_kept
    | with_reducible apply wrb_kept
    | with_reducible apply ite_kept
    | split
    | dsimp only

theorem histStore_kept {q : List Instr} {e : HistEntry} {s : State} (h : Kept q s) : Kept q (histStore s e) := by
  unfold histStore
  repeat' first
    | with_reducible assumption
    | intro _
    | with_reducible apply updMgn_kept
    | with_reducible apply ite_kept
    | split
    | dsimp only
    | with_reducible apply Kept.mem_bytes
    | with_reducible apply Kept.wmem_bytes
    | with_reducible apply Kept.wmem_words
    | with_reducible apply Kept.wmem_word
    | with_reducible apply Kept.mk_other

theorem history_kept {q : List Instr} {kind : Nat} {cls : Nat} {src : Nat} {detail : Word} {level : Nat} {s : State} (h : Kept q s) : Kept q (history s kind cls src detail level) := by
  unfold history
  repeat' first
    | with_reducible assumption
    | intro _
    | with_reducible apply wrf_kept
    | with_reducible apply updMgn_kept
    | with_reducible apply histStore_kept
    | with_reducible apply wrb_kept
    | with_reducible apply ite_kept
    | split
    | dsimp only

theorem historyDrain_kept {q : List Instr}  {s : State} (h : Kept q s) : Kept q (historyDrain s) := by
  unfold historyDrain
  repeat' first
    | with_reducible assumption
    | intro _
    | with_reducible apply wrf_kept
    | with_reducible apply forAll_kept
    | with_reducible apply updMgn_kept
    | with_reducible apply histStore_kept
    | with_reducible apply ite_kept
    | split
    | dsimp only

theorem stwStopGroups_kept {q : List Instr} {w : Word} {s : State} (h : Kept q s) : Kept q (stwStopGroups s w) := by
  unfold stwStopGroups
  repeat' first
    | with_reducible assumption
    | intro _
    | with_reducible apply updMgn_kept
    | with_reducible apply ite_kept
    | split
    | dsimp only

theorem stwApply_kept {q : List Instr}  {s : State} (h : Kept q s) : Kept q (stwApply s) := by
  unfold stwApply
  repeat' first
    | with_reducible assumption
    | intro _
    | with_reducible apply updMgn_kept
    | with_reducible apply ite_kept
    | split
    | dsimp only

theorem stwRaise_kept {q : List Instr}  {s : State} (h : Kept q s) : Kept q (stwRaise s) := by
  unfold stwRaise
  repeat' first
    | with_reducible assumption
    | intro _
    | with_reducible apply updMgn_kept
    | with_reducible apply ite_kept
    | split
    | dsimp only

theorem showLevels_kept {q : List Instr}  {s : State} (h : Kept q s) : Kept q (showLevels s) := by
  unfold showLevels
  repeat' first
    | with_reducible assumption
    | intro _
    | with_reducible apply stwRaise_kept
    | with_reducible apply wr_kept
    | with_reducible apply wrb_kept
    | with_reducible apply ite_kept
    | split
    | dsimp only

theorem mgnRecord_kept {q : List Instr} {n : Nat} {s : State} (h : Kept q s) : Kept q (mgnRecord s n) := by
  unfold mgnRecord
  repeat' first
    | with_reducible assumption
    | intro _
    | with_reducible apply updMgn_kept
    | with_reducible apply wrb_kept
    | with_reducible apply ite_kept
    | split
    | dsimp only

theorem mgnFirst_kept {q : List Instr} {n : Nat} {s : State} (h : Kept q s) : Kept q (mgnFirst s n) := by
  unfold mgnFirst
  repeat' first
    | with_reducible assumption
    | intro _
    | with_reducible apply updMgn_kept
    | with_reducible apply wr_kept
    | with_reducible apply ite_kept
    | split
    | dsimp only

theorem enterGrace_kept {q : List Instr} {c : Fin 64} {s : State} (h : Kept q s) : Kept q (enterGrace s c) := by
  unfold enterGrace
  repeat' first
    | with_reducible assumption
    | intro _
    | with_reducible apply incf_kept
    | with_reducible apply raiseEvent_kept
    | with_reducible apply when_kept
    | with_reducible apply setClsState_kept
    | with_reducible apply hstIrq_kept
    | with_reducible apply scIrq_kept
    | with_reducible apply folEvent_kept
    | with_reducible apply ite_kept
    | split
    | dsimp only

theorem raiseClass_kept {q : List Instr} {n : Nat} {s : State} (h : Kept q s) : Kept q (raiseClass s n) := by
  unfold raiseClass
  repeat' first
    | with_reducible assumption
    | intro _
    | with_reducible apply wrf_kept
    | with_reducible apply updMgn_kept
    | with_reducible apply showLevels_kept
    | with_reducible apply enterGrace_kept
    | with_reducible apply ite_kept
    | split
    | dsimp only

theorem mgnSampled_kept {q : List Instr}  {s : State} (h : Kept q s) : Kept q (mgnSampled s) := by
  unfold mgnSampled
  repeat' first
    | with_reducible assumption
    | intro _
    | with_reducible apply folSample_kept
    | with_reducible apply ite_kept
    | split
    | dsimp only

theorem mgnAssert_kept {q : List Instr} {n : Nat} {detail : Word} {s : State} (h : Kept q s) : Kept q (mgnAssert s n detail) := by
  unfold mgnAssert
  repeat' first
    | with_reducible assumption
    | intro _
    | with_reducible apply updMgn_kept
    | with_reducible apply stwRaise_kept
    | with_reducible apply when_kept
    | with_reducible apply history_kept
    | with_reducible apply mgnRecord_kept
    | with_reducible apply mgnFirst_kept
    | with_reducible apply raiseClass_kept
    | with_reducible apply ite_kept
    | split
    | dsimp only

theorem railPulse_kept {q : List Instr} {n : Nat} {f : State → State} {s : State} (h : Kept q s)
    (hf : ∀ t, Kept q t → Kept q (f t)) : Kept q (railPulse s n f) :=
  ite_kept (hf _ h) (mgnSampled_kept (wrb_kept (hf _ (mgnSampled_kept (wrb_kept h)))))

theorem assertEvent_kept {q : List Instr} {n : Nat} {detail : Word} {s : State} (h : Kept q s) : Kept q (assertEvent s n detail) := by
  unfold assertEvent
  repeat' first
    | with_reducible assumption
    | intro _
    | with_reducible apply railPulse_kept
    | with_reducible apply mgnAssert_kept
    | with_reducible apply ite_kept
    | split
    | dsimp only

theorem assertCond_kept {q : List Instr} {n : Nat} {detail : Word} {s : State} (h : Kept q s) : Kept q (assertCond s n detail) := by
  unfold assertCond
  repeat' first
    | with_reducible assumption
    | intro _
    | with_reducible apply mgnAssert_kept
    | with_reducible apply mgnSampled_kept
    | with_reducible apply wrb_kept
    | with_reducible apply ite_kept
    | split
    | dsimp only

theorem pairReport_kept {q : List Instr} {n : Nat} {detail : Word} {s : State} (h : Kept q s) : Kept q (pairReport s n detail) := by
  unfold pairReport
  repeat' first
    | with_reducible assumption
    | intro _
    | with_reducible apply railPulse_kept
    | with_reducible apply assertEvent_kept
    | with_reducible apply mgnRecord_kept
    | with_reducible apply assertCond_kept
    | with_reducible apply ite_kept
    | split
    | dsimp only

theorem pairIdle_kept {q : List Instr} {n : Nat} {s : State} (h : Kept q s) : Kept q (pairIdle s n) := by
  unfold pairIdle
  repeat' first
    | with_reducible assumption
    | intro _
    | with_reducible apply when_kept
    | with_reducible apply mgnSampled_kept
    | with_reducible apply wrb_kept
    | with_reducible apply ite_kept
    | split
    | dsimp only

theorem setUnder_kept {q : List Instr} {n : Nat} {b : Bool} {s : State} (h : Kept q s) : Kept q (setUnder s n b) := by
  unfold setUnder
  repeat' first
    | with_reducible assumption
    | intro _
    | with_reducible apply updMgn_kept
    | with_reducible apply ite_kept
    | split
    | dsimp only

theorem assertSource_kept {q : List Instr} {n : Nat} {detail : Word} {s : State} (h : Kept q s) : Kept q (assertSource s n detail) := by
  unfold assertSource
  repeat' first
    | with_reducible assumption
    | intro _
    | with_reducible apply setUnder_kept
    | with_reducible apply pairReport_kept
    | with_reducible apply when_kept
    | with_reducible apply ite_kept
    | split
    | dsimp only

theorem endCond_kept {q : List Instr} {n : Nat} {s : State} (h : Kept q s) : Kept q (endCond s n) := by
  unfold endCond
  repeat' first
    | with_reducible assumption
    | intro _
    | with_reducible apply setUnder_kept
    | with_reducible apply pairIdle_kept
    | with_reducible apply ite_kept
    | split
    | dsimp only

theorem setCond_kept {q : List Instr} {n : Nat} {on : Bool} {detail : Word} {s : State} (h : Kept q s) : Kept q (setCond s n on detail) := by
  unfold setCond
  repeat' first
    | with_reducible assumption
    | intro _
    | with_reducible apply assertSource_kept
    | with_reducible apply endCond_kept
    | with_reducible apply ite_kept
    | split
    | dsimp only

theorem wireFound_kept {q : List Instr} {p : Nat} {s : State} (h : Kept q s) : Kept q (wireFound s p) := by
  unfold wireFound
  repeat' first
    | with_reducible assumption
    | intro _
    | with_reducible apply railPulse_kept
    | with_reducible apply mgnAssert_kept
    | with_reducible apply when_kept
    | with_reducible apply assertEvent_kept
    | with_reducible apply history_kept
    | with_reducible apply mgnRecord_kept
    | with_reducible apply wr_kept
    | with_reducible apply ite_kept
    | split
    | dsimp only

theorem wiringFault_kept {q : List Instr} {p : Nat} {s : State} (h : Kept q s) : Kept q (wiringFault s p) := by
  unfold wiringFault
  repeat' first
    | with_reducible assumption
    | intro _
    | with_reducible apply when_kept
    | with_reducible apply wireFound_kept
    | with_reducible apply ite_kept
    | split
    | dsimp only

theorem takeLevel_kept {q : List Instr} {c : Fin 64} {st : Nat} {lvl : Nat} {s : State} (h : Kept q s) : Kept q (takeLevel s c st lvl) := by
  unfold takeLevel
  repeat' first
    | with_reducible assumption
    | intro _
    | with_reducible apply wrf_kept
    | with_reducible apply when_kept
    | with_reducible apply setClsState_kept
    | with_reducible apply history_kept
    | with_reducible apply hstIrq_kept
    | with_reducible apply showLevels_kept
    | with_reducible apply ite_kept
    | split
    | dsimp only

theorem graceEnd_kept {q : List Instr} {c : Fin 64} {s : State} (h : Kept q s) : Kept q (graceEnd s c) := by
  unfold graceEnd
  repeat' first
    | with_reducible assumption
    | intro _
    | with_reducible apply takeLevel_kept
    | with_reducible apply ite_kept
    | split
    | dsimp only

theorem escalate_kept {q : List Instr} {c : Fin 64} {s : State} (h : Kept q s) : Kept q (escalate s c) := by
  unfold escalate
  repeat' first
    | with_reducible assumption
    | intro _
    | with_reducible apply takeLevel_kept
    | with_reducible apply ite_kept
    | split
    | dsimp only

theorem ackClass_kept {q : List Instr} {c : Fin 64} {s : State} (h : Kept q s) : Kept q (ackClass s c) := by
  unfold ackClass
  repeat' first
    | with_reducible assumption
    | intro _
    | with_reducible apply setClsState_kept
    | with_reducible apply ite_kept
    | split
    | dsimp only

theorem clearClass_kept {q : List Instr} {c : Fin 64} {s : State} (h : Kept q s) : Kept q (clearClass s c) := by
  unfold clearClass
  repeat' first
    | with_reducible assumption
    | intro _
    | with_reducible apply wrf_kept
    | with_reducible apply updMgn_kept
    | with_reducible apply setClsState_kept
    | with_reducible apply history_kept
    | with_reducible apply showLevels_kept
    | with_reducible apply wrb_kept
    | with_reducible apply ite_kept
    | split
    | dsimp only

theorem mgnAckWrite_kept {q : List Instr} {hi : Bool} {v : Word} {s : State} (h : Kept q s) : Kept q (mgnAckWrite s hi v) := by
  unfold mgnAckWrite
  repeat' first
    | with_reducible assumption
    | intro _
    | with_reducible apply forAll_kept
    | with_reducible apply ackClass_kept
    | with_reducible apply ite_kept
    | split
    | dsimp only

theorem mgnClrWrite_kept {q : List Instr} {hi : Bool} {v : Word} {s : State} (h : Kept q s) : Kept q (mgnClrWrite s hi v) := by
  unfold mgnClrWrite
  repeat' first
    | with_reducible assumption
    | intro _
    | with_reducible apply forAll_kept
    | with_reducible apply clearClass_kept
    | with_reducible apply ite_kept
    | split
    | dsimp only

theorem forcePair_kept {q : List Instr} {n : Nat} {mode : Nat} {s : State} (h : Kept q s) : Kept q (forcePair s n mode) := by
  unfold forcePair
  repeat' first
    | with_reducible assumption
    | intro _
    | with_reducible apply setUnder_kept
    | with_reducible apply pairReport_kept
    | with_reducible apply updMgn_kept
    | with_reducible apply wireFound_kept
    | with_reducible apply ite_kept
    | split
    | dsimp only

theorem releasePair_kept {q : List Instr} {n : Nat} {s : State} (h : Kept q s) : Kept q (releasePair s n) := by
  unfold releasePair
  repeat' first
    | with_reducible assumption
    | intro _
    | with_reducible apply setUnder_kept
    | with_reducible apply pairReport_kept
    | with_reducible apply updMgn_kept
    | with_reducible apply pairIdle_kept
    | with_reducible apply ite_kept
    | split
    | dsimp only

theorem mgnInject_kept {q : List Instr}  {s : State} (h : Kept q s) : Kept q (mgnInject s) := by
  unfold mgnInject
  repeat' first
    | with_reducible assumption
    | intro _
    | with_reducible apply forcePair_kept
    | with_reducible apply when_kept
    | with_reducible apply releasePair_kept
    | with_reducible apply newInstant_kept
    | with_reducible apply ite_kept
    | split
    | dsimp only

theorem reactionsTake_kept {q : List Instr}  {s : State} (h : Kept q s) : Kept q (reactionsTake s) := by
  unfold reactionsTake
  repeat' first
    | with_reducible assumption
    | intro _
    | with_reducible apply stwApply_kept
    | with_reducible apply updMgn_kept
    | with_reducible apply ite_kept
    | split
    | dsimp only

theorem slotFailed_kept {q : List Instr} {src : Nat} {detail : Word} {s : State} (h : Kept q s) : Kept q (slotFailed s src detail) := by
  unfold slotFailed
  repeat' first
    | with_reducible assumption
    | intro _
    | with_reducible apply when_kept
    | with_reducible apply ite_kept
    | split
    | dsimp only
    | with_reducible apply Kept.mem_bytes
    | with_reducible apply Kept.wmem_bytes
    | with_reducible apply Kept.wmem_words
    | with_reducible apply Kept.wmem_word
    | with_reducible apply Kept.mk_other

theorem ligFailed_kept {q : List Instr} {src : Nat} {detail : Word} {s : State} (h : Kept q s) : Kept q (ligFailed s src detail) := by
  unfold ligFailed
  repeat' first
    | with_reducible assumption
    | intro _
    | with_reducible apply when_kept
    | with_reducible apply ite_kept
    | split
    | dsimp only
    | with_reducible apply Kept.mem_bytes
    | with_reducible apply Kept.wmem_bytes
    | with_reducible apply Kept.wmem_words
    | with_reducible apply Kept.wmem_word
    | with_reducible apply Kept.mk_other

end Sys2Proof.Machine
end

