-- ==== Sys2Proof/Laws/KeptIsland.lean ====
section
/-! SUPPORT. What is kept (`Kept`) by each function of Machine/Island.lean, Machine/Baseline.lean. -/

namespace Sys2Proof.Machine

theorem updIsl_kept {q : List Instr} {f : Isl → Isl} {s : State} (h : Kept q s) : Kept q (updIsl s f) := by
  unfold updIsl
  repeat' first
    | with_reducible assumption
    | intro _
    | with_reducible apply ite_kept
    | split
    | dsimp only
    | with_reducible apply Kept.mem_bytes
    | with_reducible apply Kept.wmem_bytes
    | with_reducible apply Kept.wmem_words
    | with_reducible apply Kept.wmem_word
    | with_reducible apply Kept.mk_other

theorem showIsl_kept {q : List Instr}  {s : State} (h : Kept q s) : Kept q (showIsl s) := by
  unfold showIsl
  repeat' first
    | with_reducible assumption
    | intro _
    | with_reducible apply wr_kept
    | with_reducible apply wrb_kept
    | with_reducible apply ite_kept
    | split
    | dsimp only
    | with_reducible apply Kept.mem_bytes
    | with_reducible apply Kept.wmem_bytes
    | with_reducible apply Kept.wmem_words
    | with_reducible apply Kept.wmem_word
    | with_reducible apply Kept.mk_other

theorem cmdDone_kept {q : List Instr} {result : Nat} {s : State} (h : Kept q s) : Kept q (cmdDone s result) := by
  unfold cmdDone
  repeat' first
    | with_reducible assumption
    | intro _
    | with_reducible apply wrf_kept
    | with_reducible apply forAll_kept
    | with_reducible apply wr_kept
    | with_reducible apply wrb_kept
    | with_reducible apply ite_kept
    | split
    | dsimp only

theorem entryActs_kept {q : List Instr}  {s : State} (h : Kept q s) : Kept q (entryActs s) := by
  unfold entryActs
  repeat' first
    | with_reducible assumption
    | intro _
    | with_reducible apply updIsl_kept
    | with_reducible apply showIsl_kept
    | with_reducible apply wr_kept
    | with_reducible apply cmdDone_kept
    | with_reducible apply ite_kept
    | split
    | dsimp only

theorem ledgerWrite_kept {q : List Instr} {e : SafeEntry} {s : State} (h : Kept q s) : Kept q (ledgerWrite s e) := by
  unfold ledgerWrite
  repeat' first
    | with_reducible assumption
    | intro _
    | with_reducible apply updIsl_kept
    | with_reducible apply when_kept
    | with_reducible apply entryActs_kept
    | with_reducible apply wr_kept
    | with_reducible apply ite_kept
    | split
    | dsimp only
    | with_reducible apply Kept.mem_bytes
    | with_reducible apply Kept.wmem_bytes
    | with_reducible apply Kept.wmem_words
    | with_reducible apply Kept.wmem_word
    | with_reducible apply Kept.mk_other

theorem ledgerDrop_kept {q : List Instr} {e : SafeEntry} {s : State} (h : Kept q s) : Kept q (ledgerDrop s e) := by
  unfold ledgerDrop
  repeat' first
    | with_reducible assumption
    | intro _
    | with_reducible apply updIsl_kept
    | with_reducible apply when_kept
    | with_reducible apply cmdDone_kept
    | with_reducible apply wrb_kept
    | with_reducible apply ite_kept
    | split
    | dsimp only

theorem ledgerPut_kept {q : List Instr} {e : SafeEntry} {s : State} (h : Kept q s) : Kept q (ledgerPut s e) := by
  unfold ledgerPut
  repeat' first
    | with_reducible assumption
    | intro _
    | with_reducible apply updIsl_kept
    | with_reducible apply ledgerDrop_kept
    | with_reducible apply ledgerWrite_kept
    | with_reducible apply ite_kept
    | split
    | dsimp only

theorem ledgerDrain_kept {q : List Instr}  {s : State} (h : Kept q s) : Kept q (ledgerDrain s) := by
  unfold ledgerDrain
  repeat' first
    | with_reducible assumption
    | intro _
    | with_reducible apply updIsl_kept
    | with_reducible apply forAll_kept
    | with_reducible apply ledgerWrite_kept
    | with_reducible apply ite_kept
    | split
    | dsimp only

theorem lockBegin_kept {q : List Instr} {cause : Nat} {detail : Nat} {condCause : Nat} {condDetail : Nat} {s : State} (h : Kept q s) : Kept q (lockBegin s cause detail condCause condDetail) := by
  unfold lockBegin
  repeat' first
    | with_reducible assumption
    | intro _
    | with_reducible apply wrf_kept
    | with_reducible apply updIsl_kept
    | with_reducible apply assertSource_kept
    | with_reducible apply incf_kept
    | with_reducible apply ledgerPut_kept
    | with_reducible apply showIsl_kept
    | with_reducible apply hstIrq_kept
    | with_reducible apply wrb_kept
    | with_reducible apply ite_kept
    | split
    | dsimp only

theorem lockOut_kept {q : List Instr} {cause : Nat} {detail : Nat} {s : State} (h : Kept q s) : Kept q (lockOut s cause detail) := by
  unfold lockOut
  repeat' first
    | with_reducible assumption
    | intro _
    | with_reducible apply wrf_kept
    | with_reducible apply updIsl_kept
    | with_reducible apply lockBegin_kept
    | with_reducible apply ite_kept
    | split
    | dsimp only

theorem ledgerFound_kept {q : List Instr}  {s : State} (h : Kept q s) : Kept q (ledgerFound s) := by
  unfold ledgerFound
  repeat' first
    | with_reducible assumption
    | intro _
    | with_reducible apply showIsl_kept
    | with_reducible apply lockBegin_kept
    | with_reducible apply lockOut_kept
    | with_reducible apply ite_kept
    | split
    | dsimp only

theorem ledgerCheck_kept {q : List Instr}  {s : State} (h : Kept q s) : Kept q (ledgerCheck s) := by
  unfold ledgerCheck
  repeat' first
    | with_reducible assumption
    | intro _
    | with_reducible apply updIsl_kept
    | with_reducible apply forAll_kept
    | with_reducible apply ledgerFound_kept
    | with_reducible apply newInstant_kept
    | with_reducible apply lockOut_kept
    | with_reducible apply ite_kept
    | split
    | dsimp only

theorem sealOutputs_kept {q : List Instr}  {s : State} (h : Kept q s) : Kept q (sealOutputs s) := by
  unfold sealOutputs
  repeat' first
    | with_reducible assumption
    | intro _
    | with_reducible apply updIsl_kept
    | with_reducible apply assertSource_kept
    | with_reducible apply forAll_kept
    | with_reducible apply when_kept
    | with_reducible apply showIsl_kept
    | with_reducible apply ite_kept
    | split
    | dsimp only

theorem wardenOutputs_kept {q : List Instr}  {s : State} (h : Kept q s) : Kept q (wardenOutputs s) := by
  unfold wardenOutputs
  repeat' first
    | with_reducible assumption
    | intro _
    | with_reducible apply updIsl_kept
    | with_reducible apply showIsl_kept
    | with_reducible apply ite_kept
    | split
    | dsimp only

theorem discFault_kept {q : List Instr} {p : Fin 8} {s : State} (h : Kept q s) : Kept q (discFault s p) := by
  unfold discFault
  repeat' first
    | with_reducible assumption
    | intro _
    | with_reducible apply lockOut_kept
    | with_reducible apply wrb_kept
    | with_reducible apply ite_kept
    | split
    | dsimp only

theorem sealTick_kept {q : List Instr} {l : SafeLevels} {s : State} (h : Kept q s) : Kept q (sealTick s l) := by
  unfold sealTick
  repeat' first
    | with_reducible assumption
    | intro _
    | with_reducible apply wrf_kept
    | with_reducible apply updIsl_kept
    | with_reducible apply forAll_kept
    | with_reducible apply when_kept
    | with_reducible apply orReg_kept
    | with_reducible apply sealOutputs_kept
    | with_reducible apply discFault_kept
    | with_reducible apply newInstant_kept
    | with_reducible apply ite_kept
    | split
    | dsimp only

theorem srstPress_kept {q : List Instr} {lowMs : Nat} {s : State} (h : Kept q s) : Kept q (srstPress s lowMs) := by
  unfold srstPress
  repeat' first
    | with_reducible assumption
    | intro _
    | with_reducible apply wrf_kept
    | with_reducible apply updIsl_kept
    | with_reducible apply ledgerPut_kept
    | with_reducible apply showIsl_kept
    | with_reducible apply endCond_kept
    | with_reducible apply wrb_kept
    | with_reducible apply ite_kept
    | split
    | dsimp only

theorem offDelay_kept {q : List Instr} {o : Fin 8} {s : State} (h : Kept q s) : Kept q (offDelay s o) := by
  unfold offDelay
  repeat' first
    | with_reducible assumption
    | intro _
    | with_reducible apply updIsl_kept
    | with_reducible apply showIsl_kept
    | with_reducible apply ite_kept
    | split
    | dsimp only

theorem outFault_kept {q : List Instr} {cause : Nat} {o : Fin 8} {s : State} (h : Kept q s) : Kept q (outFault s cause o) := by
  unfold outFault
  repeat' first
    | with_reducible assumption
    | intro _
    | with_reducible apply lockOut_kept
    | with_reducible apply wrb_kept
    | with_reducible apply ite_kept
    | split
    | dsimp only

theorem pulseBegin_kept {q : List Instr} {o : Fin 8} {s : State} (h : Kept q s) : Kept q (pulseBegin s o) := by
  unfold pulseBegin
  repeat' first
    | with_reducible assumption
    | intro _
    | with_reducible apply updIsl_kept
    | with_reducible apply incf_kept
    | with_reducible apply showIsl_kept
    | with_reducible apply ite_kept
    | split
    | dsimp only

theorem pulseTest_kept {q : List Instr} {o : Fin 8} {s : State} (h : Kept q s) : Kept q (pulseTest s o) := by
  unfold pulseTest
  repeat' first
    | with_reducible assumption
    | intro _
    | with_reducible apply updIsl_kept
    | with_reducible apply pulseBegin_kept
    | with_reducible apply ite_kept
    | split
    | dsimp only

theorem pulseNext_kept {q : List Instr} (l : List (Fin 8)) : ∀ {s : State}, Kept q s → Kept q (pulseNext l s) := by
  induction l with
  | nil => exact fun h => updIsl_kept h
  | cons o r ih => exact fun h => ite_kept (updIsl_kept (pulseBegin_kept h)) (ih (pulseBegin_kept h))

theorem pulseEnd_kept {q : List Instr} {o : Fin 8} {s : State} (h : Kept q s) : Kept q (pulseEnd s o) := by
  unfold pulseEnd
  repeat' first
    | with_reducible assumption
    | intro _
    | with_reducible apply updIsl_kept
    | with_reducible apply showIsl_kept
    | with_reducible apply pulseNext_kept
    | with_reducible apply ite_kept
    | split
    | dsimp only

theorem updSafe_kept {q : List Instr} {isSeal : Bool} {f : SafeCh → SafeCh} {s : State} (h : Kept q s) : Kept q (updSafe s isSeal f) := by
  unfold updSafe
  repeat' first
    | with_reducible assumption
    | intro _
    | with_reducible apply updIsl_kept
    | with_reducible apply ite_kept
    | split
    | dsimp only

theorem hbMissing_kept {q : List Instr} {isSeal : Bool} {s : State} (h : Kept q s) : Kept q (hbMissing s isSeal) := by
  unfold hbMissing
  repeat' first
    | with_reducible assumption
    | intro _
    | with_reducible apply updSafe_kept
    | with_reducible apply newInstant_kept
    | with_reducible apply lockOut_kept
    | with_reducible apply ite_kept
    | split
    | dsimp only

theorem hbSend_kept {q : List Instr} {sender : SafeChannel} {s : State} (h : Kept q s) : Kept q (hbSend s sender) := by
  unfold hbSend
  repeat' first
    | with_reducible assumption
    | intro _
    | with_reducible apply updSafe_kept
    | with_reducible apply ite_kept
    | split
    | dsimp only

theorem hbReceive_kept {q : List Instr} {sender : SafeChannel} {h0 : Heartbeat} {s : State} (h : Kept q s) : Kept q (hbReceive s sender h0) := by
  unfold hbReceive
  repeat' first
    | with_reducible assumption
    | intro _
    | with_reducible apply wrf_kept
    | with_reducible apply updIsl_kept
    | with_reducible apply when_kept
    | with_reducible apply updSafe_kept
    | with_reducible apply newInstant_kept
    | with_reducible apply hbMissing_kept
    | with_reducible apply lockOut_kept
    | with_reducible apply ite_kept
    | split
    | dsimp only

theorem cmdAuth_kept {q : List Instr}  {s : State} (h : Kept q s) : Kept q (cmdAuth s) := by
  unfold cmdAuth
  repeat' first
    | with_reducible assumption
    | intro _
    | with_reducible apply updIsl_kept
    | with_reducible apply showIsl_kept
    | with_reducible apply cmdDone_kept
    | with_reducible apply wrb_kept
    | with_reducible apply ite_kept
    | split
    | dsimp only

theorem cmdCommit_kept {q : List Instr} {m : Nat} {s : State} (h : Kept q s) : Kept q (cmdCommit s m) := by
  unfold cmdCommit
  repeat' first
    | with_reducible assumption
    | intro _
    | with_reducible apply updIsl_kept
    | with_reducible apply ledgerPut_kept
    | with_reducible apply showIsl_kept
    | with_reducible apply cmdDone_kept
    | with_reducible apply newInstant_kept
    | with_reducible apply lockOut_kept
    | with_reducible apply ite_kept
    | split
    | dsimp only

theorem cmdSetPwd_kept {q : List Instr} {m : Nat} {s : State} (h : Kept q s) : Kept q (cmdSetPwd s m) := by
  unfold cmdSetPwd
  repeat' first
    | with_reducible assumption
    | intro _
    | with_reducible apply updIsl_kept
    | with_reducible apply ledgerPut_kept
    | with_reducible apply cmdDone_kept
    | with_reducible apply ite_kept
    | split
    | dsimp only

theorem wdnRun_kept {q : List Instr} {m : Master} {v : Word} {s : State} (h : Kept q s) : Kept q (wdnRun s m v) := by
  unfold wdnRun
  repeat' first
    | with_reducible assumption
    | intro _
    | with_reducible apply wrf_kept
    | with_reducible apply updIsl_kept
    | with_reducible apply cmdCommit_kept
    | with_reducible apply showIsl_kept
    | with_reducible apply cmdAuth_kept
    | with_reducible apply cmdDone_kept
    | with_reducible apply cmdSetPwd_kept
    | with_reducible apply wrb_kept
    | with_reducible apply ite_kept
    | split
    | dsimp only

theorem wdnGo_kept {q : List Instr} {m : Master} {v : Word} {s : State} (h : Kept q s) : Kept q (wdnGo s m v) := by
  unfold wdnGo
  repeat' first
    | with_reducible assumption
    | intro _
    | with_reducible apply updIsl_kept
    | with_reducible apply wdnRun_kept
    | with_reducible apply ite_kept
    | split
    | dsimp only

theorem wdnNext_kept {q : List Instr}  {s : State} (h : Kept q s) : Kept q (wdnNext s) := by
  unfold wdnNext
  repeat' first
    | with_reducible assumption
    | intro _
    | with_reducible apply updIsl_kept
    | with_reducible apply wdnRun_kept
    | with_reducible apply ite_kept
    | split
    | dsimp only

theorem vsafeOn_kept {q : List Instr}  {s : State} (h : Kept q s) : Kept q (vsafeOn s) := by
  unfold vsafeOn
  repeat' first
    | with_reducible assumption
    | intro _
    | with_reducible apply updIsl_kept
    | with_reducible apply showIsl_kept
    | with_reducible apply wr_kept
    | with_reducible apply endCond_kept
    | with_reducible apply dropRegs_kept
    | with_reducible apply ite_kept
    | split
    | dsimp only

theorem islPowerOnReset_kept {q : List Instr}  {s : State} (h : Kept q s) : Kept q (islPowerOnReset s) := by
  unfold islPowerOnReset
  repeat' first
    | with_reducible assumption
    | intro _
    | with_reducible apply hbMissing_kept
    | with_reducible apply ite_kept
    | split
    | dsimp only

theorem updBase_kept {q : List Instr} {f : Base → Base} {s : State} (h : Kept q s) : Kept q (updBase s f) := by
  unfold updBase
  repeat' first
    | with_reducible assumption
    | intro _
    | with_reducible apply ite_kept
    | split
    | dsimp only
    | with_reducible apply Kept.mem_bytes
    | with_reducible apply Kept.wmem_bytes
    | with_reducible apply Kept.wmem_words
    | with_reducible apply Kept.wmem_word
    | with_reducible apply Kept.mk_other

theorem baselineTick_kept {q : List Instr}  {s : State} (h : Kept q s) : Kept q (baselineTick s) := by
  unfold baselineTick
  repeat' first
    | with_reducible assumption
    | intro _
    | with_reducible apply updBase_kept
    | with_reducible apply ite_kept
    | split
    | dsimp only
    | with_reducible apply Kept.mem_bytes
    | with_reducible apply Kept.wmem_bytes
    | with_reducible apply Kept.wmem_words
    | with_reducible apply Kept.wmem_word
    | with_reducible apply Kept.mk_other

theorem setInc_kept {q : List Instr} {b : Bool} {v : Int} {s : State} (h : Kept q s) : Kept q (setInc s b v) := by
  unfold setInc
  repeat' first
    | with_reducible assumption
    | intro _
    | with_reducible apply when_kept
    | with_reducible apply wr_kept
    | with_reducible apply wrb_kept
    | with_reducible apply ite_kept
    | split
    | dsimp only

theorem showLocked_kept {q : List Instr}  {s : State} (h : Kept q s) : Kept q (showLocked s) := by
  unfold showLocked
  repeat' first
    | with_reducible assumption
    | intro _
    | with_reducible apply wrb_kept
    | with_reducible apply ite_kept
    | split
    | dsimp only

theorem updTp_kept {q : List Instr} {n : Fin 16} {f : TpSt → TpSt} {s : State} (h : Kept q s) : Kept q (updTp s n f) := by
  unfold updTp
  repeat' first
    | with_reducible assumption
    | intro _
    | with_reducible apply ite_kept
    | split
    | dsimp only
    | with_reducible apply Kept.mem_bytes
    | with_reducible apply Kept.wmem_bytes
    | with_reducible apply Kept.wmem_words
    | with_reducible apply Kept.wmem_word
    | with_reducible apply Kept.mk_other

theorem tpDrive_kept {q : List Instr} {n : Fin 16} {level : Bool} {s : State} (h : Kept q s) : Kept q (tpDrive s n level) := by
  unfold tpDrive
  repeat' first
    | with_reducible assumption
    | intro _
    | with_reducible apply folSample_kept
    | with_reducible apply ite_kept
    | split
    | dsimp only
    | with_reducible apply Kept.mem_bytes
    | with_reducible apply Kept.wmem_bytes
    | with_reducible apply Kept.wmem_words
    | with_reducible apply Kept.wmem_word
    | with_reducible apply Kept.mk_other

theorem tpRunBit_kept {q : List Instr} {n : Fin 16} {b : Bool} {s : State} (h : Kept q s) : Kept q (tpRunBit s n b) := by
  unfold tpRunBit
  repeat' first
    | with_reducible assumption
    | intro _
    | with_reducible apply wrb_kept
    | with_reducible apply ite_kept
    | split
    | dsimp only

theorem tpLate_kept {q : List Instr} {n : Fin 16} {s : State} (h : Kept q s) : Kept q (tpLate s n) := by
  unfold tpLate
  repeat' first
    | with_reducible assumption
    | intro _
    | with_reducible apply wrb_kept
    | with_reducible apply ite_kept
    | split
    | dsimp only

theorem tpEnd_kept {q : List Instr} {n : Fin 16} {s : State} (h : Kept q s) : Kept q (tpEnd s n) := by
  unfold tpEnd
  repeat' first
    | with_reducible assumption
    | intro _
    | with_reducible apply tpRunBit_kept
    | with_reducible apply updTp_kept
    | with_reducible apply ite_kept
    | split
    | dsimp only

theorem tpStrokeEdge_kept {q : List Instr} {n : Fin 16} {p : TpProg} {s : State} (h : Kept q s) : Kept q (tpStrokeEdge s n p) := by
  unfold tpStrokeEdge
  repeat' first
    | with_reducible assumption
    | intro _
    | with_reducible apply tpLate_kept
    | with_reducible apply updTp_kept
    | with_reducible apply ite_kept
    | split
    | dsimp only

theorem tpSchedule_kept {q : List Instr} {n : Fin 16} {p : TpProg} {i : Nat} {t : Int} {s : State} (h : Kept q s) : Kept q (tpSchedule s n p i t) := by
  unfold tpSchedule
  repeat' first
    | with_reducible assumption
    | intro _
    | with_reducible apply tpStrokeEdge_kept
    | with_reducible apply tpLate_kept
    | with_reducible apply updTp_kept
    | with_reducible apply when_kept
    | with_reducible apply tpEnd_kept
    | with_reducible apply ite_kept
    | split
    | dsimp only

theorem tpTake_kept {q : List Instr} {n : Fin 16} {p : TpProg} {s : State} (h : Kept q s) : Kept q (tpTake s n p) := by
  unfold tpTake
  repeat' first
    | with_reducible assumption
    | intro _
    | with_reducible apply tpRunBit_kept
    | with_reducible apply tpSchedule_kept
    | with_reducible apply updTp_kept
    | with_reducible apply tpDrive_kept
    | with_reducible apply wrb_kept
    | with_reducible apply ite_kept
    | split
    | dsimp only

theorem tpGo_kept {q : List Instr} {n : Fin 16} {s : State} (h : Kept q s) : Kept q (tpGo s n) := by
  unfold tpGo
  repeat' first
    | with_reducible assumption
    | intro _
    | with_reducible apply tpTake_kept
    | with_reducible apply updTp_kept
    | with_reducible apply wrb_kept
    | with_reducible apply ite_kept
    | split
    | dsimp only

theorem tpStop_kept {q : List Instr} {n : Fin 16} {s : State} (h : Kept q s) : Kept q (tpStop s n) := by
  unfold tpStop
  repeat' first
    | with_reducible assumption
    | intro _
    | with_reducible apply updTp_kept
    | with_reducible apply tpEnd_kept
    | with_reducible apply wrb_kept
    | with_reducible apply ite_kept
    | split
    | dsimp only

theorem tpReservedWrite_kept {q : List Instr} {n : Fin 16} {o : Nat} {w : Word} {s : State} (h : Kept q s) : Kept q (tpReservedWrite s n o w) := by
  unfold tpReservedWrite
  repeat' first
    | with_reducible assumption
    | intro _
    | with_reducible apply updTp_kept
    | with_reducible apply ite_kept
    | split
    | dsimp only

theorem tpLeading_kept {q : List Instr} {n : Fin 16} {s : State} (h : Kept q s) : Kept q (tpLeading s n) := by
  unfold tpLeading
  repeat' first
    | with_reducible assumption
    | intro _
    | with_reducible apply incf_kept
    | with_reducible apply updTp_kept
    | with_reducible apply tpDrive_kept
    | with_reducible apply ite_kept
    | split
    | dsimp only

theorem tpTrailing_kept {q : List Instr} {n : Fin 16} {s : State} (h : Kept q s) : Kept q (tpTrailing s n) := by
  unfold tpTrailing
  repeat' first
    | with_reducible assumption
    | intro _
    | with_reducible apply tpSchedule_kept
    | with_reducible apply tpTake_kept
    | with_reducible apply updTp_kept
    | with_reducible apply tpEnd_kept
    | with_reducible apply tpDrive_kept
    | with_reducible apply ite_kept
    | split
    | dsimp only

theorem tpStroke_kept {q : List Instr}  {s : State} (h : Kept q s) : Kept q (tpStroke s) := by
  unfold tpStroke
  repeat' first
    | with_reducible assumption
    | intro _
    | with_reducible apply tpStrokeEdge_kept
    | with_reducible apply forAll_kept
    | with_reducible apply ite_kept
    | split
    | dsimp only

theorem tpStepped_kept {q : List Instr} {b : Bool} {s : State} (h : Kept q s) : Kept q (tpStepped s b) := by
  unfold tpStepped
  repeat' first
    | with_reducible assumption
    | intro _
    | with_reducible apply forAll_kept
    | with_reducible apply tpLate_kept
    | with_reducible apply tpSchedule_kept
    | with_reducible apply tpTake_kept
    | with_reducible apply updTp_kept
    | with_reducible apply ite_kept
    | split
    | dsimp only

theorem tpConvert_kept {q : List Instr} {d : Int} {s : State} (h : Kept q s) : Kept q (tpConvert s d) := by
  unfold tpConvert
  repeat' first
    | with_reducible assumption
    | intro _
    | with_reducible apply forAll_kept
    | with_reducible apply updTp_kept
    | with_reducible apply ite_kept
    | split
    | dsimp only

theorem tpOff_kept {q : List Instr}  {s : State} (h : Kept q s) : Kept q (tpOff s) := by
  unfold tpOff
  repeat' first
    | with_reducible assumption
    | intro _
    | with_reducible apply forAll_kept
    | with_reducible apply updTp_kept
    | with_reducible apply ite_kept
    | split
    | dsimp only

theorem stepDomain_kept {q : List Instr} {b : Bool} {t : BTime} {s : State} (h : Kept q s) : Kept q (stepDomain s b t) := by
  unfold stepDomain
  repeat' first
    | with_reducible assumption
    | intro _
    | with_reducible apply updBase_kept
    | with_reducible apply tpStepped_kept
    | with_reducible apply wrb_kept
    | with_reducible apply ite_kept
    | split
    | dsimp only

theorem bslSet_kept {q : List Instr}  {s : State} (h : Kept q s) : Kept q (bslSet s) := by
  unfold bslSet
  repeat' first
    | with_reducible assumption
    | intro _
    | with_reducible apply stepDomain_kept
    | with_reducible apply wrb_kept
    | with_reducible apply ite_kept
    | split
    | dsimp only

theorem phaseMeasure_kept {q : List Instr} {b : Bool} {d : Int} {s : State} (h : Kept q s) : Kept q (phaseMeasure s b d) := by
  unfold phaseMeasure
  repeat' first
    | with_reducible assumption
    | intro _
    | with_reducible apply showLocked_kept
    | with_reducible apply updBase_kept
    | with_reducible apply wr_kept
    | with_reducible apply ite_kept
    | split
    | dsimp only

theorem phaseStroke_kept {q : List Instr} {b : Bool} {s : State} (h : Kept q s) : Kept q (phaseStroke s b) := by
  unfold phaseStroke
  repeat' first
    | with_reducible assumption
    | intro _
    | with_reducible apply when_kept
    | with_reducible apply updBase_kept
    | with_reducible apply wrb_kept
    | with_reducible apply ite_kept
    | split
    | dsimp only

theorem servoDomain_kept {q : List Instr} {b : Bool} {s : State} (h : Kept q s) : Kept q (servoDomain s b) := by
  unfold servoDomain
  repeat' first
    | with_reducible assumption
    | intro _
    | with_reducible apply setInc_kept
    | with_reducible apply updBase_kept
    | with_reducible apply stepDomain_kept
    | with_reducible apply ite_kept
    | split
    | dsimp only

theorem servo_kept {q : List Instr}  {s : State} (h : Kept q s) : Kept q (servo s) := by
  unfold servo
  repeat' first
    | with_reducible assumption
    | intro _
    | with_reducible apply servoDomain_kept
    | with_reducible apply ite_kept
    | split
    | dsimp only

end Sys2Proof.Machine
end

