-- ==== Sys2Proof/Laws/KeptDuctus.lean ====
section
/-! SUPPORT. What is kept (`Kept`) by each function of Machine/Operands.lean, Machine/Ductus.lean. -/

namespace Sys2Proof.Machine

theorem qWrite_kept {q : List Instr} {e : Fin 16} {y : Bool} {w : BitVec 14} {v : Half} {s : State} (h : Kept q s) : Kept q (qWrite s e y w v) := by
  unfold qWrite
  repeat' first
    | with_reducible assumption
    | intro _
    | with_reducible apply mwr16_kept
    | with_reducible apply wrb_kept
    | with_reducible apply ite_kept
    | split
    | dsimp only

theorem setSr_kept {q : List Instr} {e : Fin 16} {f : BitVec 5 → BitVec 5} {s : State} (h : Kept q s) : Kept q (setSr s e f) := by
  unfold setSr
  repeat' first
    | with_reducible assumption
    | intro _
    | with_reducible apply updEng_kept
    | exact Nat.le_refl _
    | rfl
    | exact List.length_filter_le _ _
    | exact Nat.zero_le _
    | (rw [List.length_tail]; exact Nat.sub_le _ _)
    | (rw [List.length_map]; assumption)
    | (dsimp only; assumption)
    | with_reducible apply ite_kept
    | split
    | dsimp only

theorem setAcc_kept {q : List Instr} {e : Fin 16} {n : Fin 4} {v : Acc} {s : State} (h : Kept q s) : Kept q (setAcc s e n v) := by
  unfold setAcc
  repeat' first
    | with_reducible assumption
    | intro _
    | with_reducible apply updEng_kept
    | exact Nat.le_refl _
    | rfl
    | exact List.length_filter_le _ _
    | exact Nat.zero_le _
    | (rw [List.length_tail]; exact Nat.sub_le _ _)
    | (rw [List.length_map]; assumption)
    | (dsimp only; assumption)
    | with_reducible apply ite_kept
    | split
    | dsimp only

theorem setD_kept {q : List Instr} {e : Fin 16} {n : Fin 8} {v : Half} {s : State} (h : Kept q s) : Kept q (setD s e n v) := by
  unfold setD
  repeat' first
    | with_reducible assumption
    | intro _
    | with_reducible apply updEng_kept
    | exact Nat.le_refl _
    | rfl
    | exact List.length_filter_le _ _
    | exact Nat.zero_le _
    | (rw [List.length_tail]; exact Nat.sub_le _ _)
    | (rw [List.length_map]; assumption)
    | (dsimp only; assumption)
    | with_reducible apply ite_kept
    | split
    | dsimp only

theorem setPtr_kept {q : List Instr} {e : Fin 16} {y : Bool} {p : Fin 4} {v : BitVec 14} {s : State} (h : Kept q s) : Kept q (setPtr s e y p v) := by
  unfold setPtr
  repeat' first
    | with_reducible assumption
    | intro _
    | with_reducible apply updEng_kept
    | exact Nat.le_refl _
    | rfl
    | exact List.length_filter_le _ _
    | exact Nat.zero_le _
    | (rw [List.length_tail]; exact Nat.sub_le _ _)
    | (rw [List.length_map]; assumption)
    | (dsimp only; assumption)
    | with_reducible apply ite_kept
    | split
    | dsimp only

theorem operandMod_kept {q : List Instr} {e : Fin 16} {y : Bool} {u : Int} {a1 : QAddr} {s : State} (h : Kept q s) : Kept q (operandMod s e y u a1) := by
  unfold operandMod
  repeat' first
    | with_reducible assumption
    | intro _
    | with_reducible apply setPtr_kept
    | with_reducible apply ite_kept
    | split
    | dsimp only

theorem updDct_kept {q : List Instr} {f : Dct → Dct} {s : State} (h : Kept q s) : Kept q (updDct s f) := by
  unfold updDct
  repeat' first
    | with_reducible assumption
    | intro _
    | with_reducible apply ite_kept
    | split
    | dsimp only
    | with_reducible apply Kept.mem_bytes
    | with_reducible apply Kept.wmem_bytes
    | with_reducible apply Kept.wmem_words
    | with_reducible apply Kept.wmem_word
    | with_reducible apply Kept.mk_other

theorem updSlot_kept {q : List Instr} {n : Fin 256} {f : Slot → Slot} {s : State} (h : Kept q s) : Kept q (updSlot s n f) := by
  unfold updSlot
  repeat' first
    | with_reducible assumption
    | intro _
    | with_reducible apply updDct_kept
    | with_reducible apply ite_kept
    | split
    | dsimp only

theorem setSt_kept {q : List Instr} {n : Fin 256} {lo : Nat} {w : Nat} {v : Nat} {s : State} (h : Kept q s) : Kept q (setSt s n lo w v) := by
  unfold setSt
  repeat' first
    | with_reducible assumption
    | intro _
    | with_reducible apply wrf_kept
    | with_reducible apply ite_kept
    | split
    | dsimp only

theorem setLimitsOf_kept {q : List Instr} {n : Fin 256} {t : LimitsTaken} {s : State} (h : Kept q s) : Kept q (setLimitsOf s n t) := by
  unfold setLimitsOf
  repeat' first
    | with_reducible assumption
    | intro _
    | with_reducible apply when_kept
    | with_reducible apply updSlot_kept
    | with_reducible apply wrb_kept
    | with_reducible apply ite_kept
    | split
    | dsimp only

theorem endMotion_kept {q : List Instr} {n : Fin 256} {p : Int} {code : Nat} {s : State} (h : Kept q s) : Kept q (endMotion s n p code) := by
  unfold endMotion
  repeat' first
    | with_reducible assumption
    | intro _
    | with_reducible apply setSt_kept
    | with_reducible apply updSlot_kept
    | with_reducible apply ite_kept
    | split
    | dsimp only

theorem reportReversal_kept {q : List Instr} {n : Fin 256} {p : Pos48} {s : State} (h : Kept q s) : Kept q (reportReversal s n p) := by
  unfold reportReversal
  repeat' first
    | with_reducible assumption
    | intro _
    | with_reducible apply updSlot_kept
    | with_reducible apply wrb_kept
    | with_reducible apply ite_kept
    | split
    | dsimp only

theorem settle_kept {q : List Instr} {n : Fin 256} {s : State} (h : Kept q s) : Kept q (settle s n) := by
  unfold settle
  repeat' first
    | with_reducible assumption
    | intro _
    | with_reducible apply endMotion_kept
    | with_reducible apply reportReversal_kept
    | with_reducible apply updSlot_kept
    | with_reducible apply takeNat_kept
    | with_reducible apply ite_kept
    | split
    | dsimp only
    | (refine takeNat_keptE ?_ (by assumption))

theorem startProf_kept {q : List Instr} {n : Fin 256} {p : Prof} {s : State} (h : Kept q s) : Kept q (startProf s n p) := by
  unfold startProf
  repeat' first
    | with_reducible assumption
    | intro _
    | with_reducible apply settle_kept
    | with_reducible apply updSlot_kept
    | with_reducible apply ite_kept
    | split
    | dsimp only

theorem advanceProf_kept {q : List Instr} {n : Fin 256} {p : Prof} {s : State} (h : Kept q s) : Kept q (advanceProf s n p) := by
  unfold advanceProf
  repeat' first
    | with_reducible assumption
    | intro _
    | with_reducible apply settle_kept
    | with_reducible apply updSlot_kept
    | with_reducible apply takeNat_kept
    | with_reducible apply ite_kept
    | split
    | dsimp only
    | (refine takeNat_keptE ?_ (by assumption))

theorem setPcmd_kept {q : List Instr} {n : Fin 256} {p : Pos48} {s : State} (h : Kept q s) : Kept q (setPcmd s n p) := by
  unfold setPcmd
  repeat' first
    | with_reducible assumption
    | intro _
    | with_reducible apply updSlot_kept
    | with_reducible apply ite_kept
    | split
    | dsimp only

theorem foldUse_kept {q : List Instr} {n : Fin 256} {s : State} (h : Kept q s) : Kept q (foldUse s n) := by
  unfold foldUse
  repeat' first
    | with_reducible assumption
    | intro _
    | with_reducible apply updSlot_kept
    | with_reducible apply ite_kept
    | split
    | dsimp only

theorem startStop_kept {q : List Instr} {n : Fin 256} {d : Nat} {j : Nat} {fin : ProfEnd} {s : State} (h : Kept q s) : Kept q (startStop s n d j fin) := by
  unfold startStop
  repeat' first
    | with_reducible assumption
    | intro _
    | with_reducible apply foldUse_kept
    | with_reducible apply takeNat_kept
    | with_reducible apply startProf_kept
    | with_reducible apply ite_kept
    | split
    | dsimp only
    | (refine takeNat_keptE ?_ (by assumption))

theorem camSwitchAt_kept {q : List Instr} {n : Fin 256} {k : Cam} {x : Int} {dm : Int} {t : Fin 64} {s : State} (h : Kept q s) : Kept q (camSwitchAt s n k x dm t).1 := by
  unfold camSwitchAt
  repeat' first
    | with_reducible assumption
    | intro _
    | with_reducible apply setSt_kept
    | with_reducible apply wrb_kept
    | split
    | dsimp only

theorem camSwitchAt_keptE {q : List Instr} {n : Fin 256} {k : Cam} {x : Int} {dm : Int} {t : Fin 64} {s tR : State} {xR : Cam} (h : Kept q s) (hE : camSwitchAt s n k x dm t = (tR, xR)) : Kept q tR := by
  have := camSwitchAt_kept (q := q) (n := n) (k := k) (x := x) (dm := dm) (t := t) h
  rw [hE] at this
  exact this

theorem camNext_kept {q : List Instr} {n : Fin 256} {k : Cam} {dm : Int} {s : State} (h : Kept q s) : Kept q (camNext s n k dm).1 := by
  unfold camNext
  repeat' first
    | with_reducible assumption
    | intro _
    | with_reducible apply camSwitchAt_kept
    | split
    | dsimp only
    | (refine camSwitchAt_keptE ?_ (by assumption))

theorem camNext_keptE {q : List Instr} {n : Fin 256} {k : Cam} {dm : Int} {s tR : State} {xR : Cam} (h : Kept q s) (hE : camNext s n k dm = (tR, xR)) : Kept q tR := by
  have := camNext_kept (q := q) (n := n) (k := k) (dm := dm) h
  rw [hE] at this
  exact this

theorem setCamState_kept {q : List Instr} {t : Fin 64} {v : Nat} {s : State} (h : Kept q s) : Kept q (setCamState s t v) := by
  unfold setCamState
  repeat' first
    | with_reducible assumption
    | intro _
    | with_reducible apply wrf_kept
    | with_reducible apply setCond_kept
    | with_reducible apply ite_kept
    | split
    | dsimp only

theorem camArm_kept {q : List Instr} {t : Fin 64} {s : State} (h : Kept q s) : Kept q (camArm s t) := by
  unfold camArm
  repeat' first
    | with_reducible assumption
    | intro _
    | with_reducible apply setCamState_kept
    | with_reducible apply when_kept
    | with_reducible apply ite_kept
    | split
    | dsimp only

theorem camDisarm_kept {q : List Instr} {t : Fin 64} {s : State} (h : Kept q s) : Kept q (camDisarm s t) := by
  unfold camDisarm
  repeat' first
    | with_reducible assumption
    | intro _
    | with_reducible apply setCamState_kept
    | with_reducible apply when_kept
    | with_reducible apply ite_kept
    | split
    | dsimp only

theorem camChecked_kept {q : List Instr} {t : Fin 64} {s : State} (h : Kept q s) : Kept q (camChecked s t) := by
  unfold camChecked
  repeat' first
    | with_reducible assumption
    | intro _
    | with_reducible apply setCamState_kept
    | with_reducible apply when_kept
    | with_reducible apply ite_kept
    | split
    | dsimp only

theorem camPageCheck_kept {q : List Instr} {t : Fin 64} {s : State} (h : Kept q s) : Kept q (camPageCheck s t) := by
  unfold camPageCheck
  repeat' first
    | with_reducible assumption
    | intro _
    | with_reducible apply setCamState_kept
    | with_reducible apply when_kept
    | with_reducible apply ite_kept
    | split
    | dsimp only

theorem trimCorrection_kept {q : List Instr} {k : Slot} {c : TrimCfg} {e : Int} {s : State} (h : Kept q s) : Kept q (trimCorrection s k c e).2 := by
  unfold trimCorrection
  repeat' first
    | with_reducible assumption
    | intro _
    | with_reducible apply takeInt_kept
    | split
    | dsimp only
    | (refine takeInt_keptE ?_ (by assumption))

theorem trimCorrection_keptE {q : List Instr} {k : Slot} {c : TrimCfg} {e : Int} {s tR : State} {xR : Int} (h : Kept q s) (hE : trimCorrection s k c e = (xR, tR)) : Kept q tR := by
  have := trimCorrection_kept (q := q) (k := k) (c := c) (e := e) h
  rw [hE] at this
  exact this

theorem trimCapture_kept {q : List Instr} {n : Fin 256} {c : TrimCfg} {mk : Pos48} {tc : Nat} {s : State} (h : Kept q s) : Kept q (trimCapture s n c mk tc) := by
  unfold trimCapture
  repeat' first
    | with_reducible assumption
    | intro _
    | with_reducible apply wrf_kept
    | with_reducible apply trimCorrection_kept
    | with_reducible apply incf_kept
    | with_reducible apply takeInt_kept
    | with_reducible apply when_kept
    | with_reducible apply updSlot_kept
    | with_reducible apply wrb_kept
    | with_reducible apply ite_kept
    | split
    | dsimp only
    | (refine trimCorrection_keptE ?_ (by assumption))
    | (refine takeInt_keptE ?_ (by assumption))

theorem trimTake_kept {q : List Instr} {n : Fin 256} {mk : Pos48} {s : State} (h : Kept q s) : Kept q (trimTake s n mk) := by
  unfold trimTake
  repeat' first
    | with_reducible assumption
    | intro _
    | with_reducible apply wrf_kept
    | with_reducible apply updSlot_kept
    | with_reducible apply trimCapture_kept
    | with_reducible apply ite_kept
    | split
    | dsimp only

theorem trimMove_kept {q : List Instr} {n : Fin 256} {s : State} (h : Kept q s) : Kept q (trimMove s n) := by
  unfold trimMove
  repeat' first
    | with_reducible assumption
    | intro _
    | with_reducible apply updSlot_kept
    | with_reducible apply ite_kept
    | split
    | dsimp only

theorem phaseNext_kept {q : List Instr} {n : Fin 256} {s : State} (h : Kept q s) : Kept q (phaseNext s n).1 := by
  unfold phaseNext
  repeat' first
    | with_reducible assumption
    | intro _
    | with_reducible apply setSt_kept
    | with_reducible apply updSlot_kept
    | with_reducible apply takeNat_kept
    | split
    | dsimp only
    | (refine takeNat_keptE ?_ (by assumption))

theorem phaseNext_keptE {q : List Instr} {n : Fin 256} {s tR : State} {xR : Bool} (h : Kept q s) (hE : phaseNext s n = (tR, xR)) : Kept q tR := by
  have := phaseNext_kept (q := q) (n := n) h
  rw [hE] at this
  exact this

theorem loadMeasured_kept {q : List Instr} {n : Fin 256} {s : State} (h : Kept q s) : Kept q (loadMeasured s n) := by
  unfold loadMeasured
  repeat' first
    | with_reducible assumption
    | intro _
    | with_reducible apply updSlot_kept
    | with_reducible apply ite_kept
    | split
    | dsimp only

theorem motion_kept {q : List Instr} {n : Fin 256} {f : State → Nat × State} {s : State} (h : Kept q s)
    (hf : ∀ t, Kept q t → Kept q (f t).2) : Kept q (motion s n f).2 := by
  unfold motion
  repeat' split
  · exact hf _ (setSt_kept (loadMeasured_kept h))
  · exact h
  · exact hf _ (setSt_kept h)

theorem takeMove_kept {q : List Instr} {n : Fin 256} {rel : Bool} {w : DctParams} {s : State} (h : Kept q s) : Kept q (takeMove s n rel w).2 := by
  unfold takeMove
  repeat' first
    | with_reducible assumption
    | intro _
    | with_reducible apply updSlot_kept
    | with_reducible apply takeNat_kept
    | with_reducible apply startProf_kept
    | with_reducible apply motion_kept
    | with_reducible apply setLimitsOf_kept
    | split
    | dsimp only
    | (refine takeNat_keptE ?_ (by assumption))
    | (refine motion_keptE ?_ (by assumption))

theorem takeMove_keptE {q : List Instr} {n : Fin 256} {rel : Bool} {w : DctParams} {s tR : State} {xR : Nat} (h : Kept q s) (hE : takeMove s n rel w = (xR, tR)) : Kept q tR := by
  have := takeMove_kept (q := q) (n := n) (rel := rel) (w := w) h
  rw [hE] at this
  exact this

theorem takeMoveAbs_kept {q : List Instr} {n : Fin 256} {w : DctParams} {s : State} (h : Kept q s) : Kept q (takeMoveAbs s n w).2 := by
  unfold takeMoveAbs
  repeat' first
    | with_reducible assumption
    | intro _
    | with_reducible apply takeMove_kept
    | split
    | dsimp only
    | (refine takeMove_keptE ?_ (by assumption))

theorem takeMoveAbs_keptE {q : List Instr} {n : Fin 256} {w : DctParams} {s tR : State} {xR : Nat} (h : Kept q s) (hE : takeMoveAbs s n w = (xR, tR)) : Kept q tR := by
  have := takeMoveAbs_kept (q := q) (n := n) (w := w) h
  rw [hE] at this
  exact this

theorem takeMoveRel_kept {q : List Instr} {n : Fin 256} {w : DctParams} {s : State} (h : Kept q s) : Kept q (takeMoveRel s n w).2 := by
  unfold takeMoveRel
  repeat' first
    | with_reducible assumption
    | intro _
    | with_reducible apply takeMove_kept
    | split
    | dsimp only
    | (refine takeMove_keptE ?_ (by assumption))

theorem takeMoveRel_keptE {q : List Instr} {n : Fin 256} {w : DctParams} {s tR : State} {xR : Nat} (h : Kept q s) (hE : takeMoveRel s n w = (xR, tR)) : Kept q tR := by
  have := takeMoveRel_kept (q := q) (n := n) (w := w) h
  rw [hE] at this
  exact this

theorem takeVelocity_kept {q : List Instr} {n : Fin 256} {w : DctParams} {s : State} (h : Kept q s) : Kept q (takeVelocity s n w).2 := by
  unfold takeVelocity
  repeat' first
    | with_reducible assumption
    | intro _
    | with_reducible apply takeNat_kept
    | with_reducible apply startProf_kept
    | with_reducible apply motion_kept
    | with_reducible apply setLimitsOf_kept
    | split
    | dsimp only
    | (refine takeNat_keptE ?_ (by assumption))
    | (refine motion_keptE ?_ (by assumption))

theorem takeVelocity_keptE {q : List Instr} {n : Fin 256} {w : DctParams} {s tR : State} {xR : Nat} (h : Kept q s) (hE : takeVelocity s n w = (xR, tR)) : Kept q tR := by
  have := takeVelocity_kept (q := q) (n := n) (w := w) h
  rw [hE] at this
  exact this

theorem takeSetLimits_kept {q : List Instr} {n : Fin 256} {w : DctParams} {s : State} (h : Kept q s) : Kept q (takeSetLimits s n w).2 := by
  unfold takeSetLimits
  repeat' first
    | with_reducible assumption
    | intro _
    | with_reducible apply takeNat_kept
    | with_reducible apply startProf_kept
    | with_reducible apply setLimitsOf_kept
    | split
    | dsimp only
    | (refine takeNat_keptE ?_ (by assumption))

theorem takeSetLimits_keptE {q : List Instr} {n : Fin 256} {w : DctParams} {s tR : State} {xR : Nat} (h : Kept q s) (hE : takeSetLimits s n w = (xR, tR)) : Kept q tR := by
  have := takeSetLimits_kept (q := q) (n := n) (w := w) h
  rw [hE] at this
  exact this

theorem takeAbort_kept {q : List Instr} {n : Fin 256} {w : DctParams} {s : State} (h : Kept q s) : Kept q (takeAbort s n w).2 := by
  unfold takeAbort
  repeat' first
    | with_reducible assumption
    | intro _
    | with_reducible apply startStop_kept
    | with_reducible apply wrb_kept
    | split
    | dsimp only

theorem takeAbort_keptE {q : List Instr} {n : Fin 256} {w : DctParams} {s tR : State} {xR : Nat} (h : Kept q s) (hE : takeAbort s n w = (xR, tR)) : Kept q tR := by
  have := takeAbort_kept (q := q) (n := n) (w := w) h
  rw [hE] at this
  exact this

theorem takeGearIn_kept {q : List Instr} {n : Fin 256} {w : DctParams} {s : State} (h : Kept q s) : Kept q (takeGearIn s n w).2 := by
  unfold takeGearIn
  repeat' first
    | with_reducible assumption
    | intro _
    | with_reducible apply updSlot_kept
    | with_reducible apply motion_kept
    | split
    | dsimp only
    | (refine motion_keptE ?_ (by assumption))

theorem takeGearIn_keptE {q : List Instr} {n : Fin 256} {w : DctParams} {s tR : State} {xR : Nat} (h : Kept q s) (hE : takeGearIn s n w = (xR, tR)) : Kept q tR := by
  have := takeGearIn_kept (q := q) (n := n) (w := w) h
  rw [hE] at this
  exact this

theorem takeGearRatio_kept {q : List Instr} {n : Fin 256} {w : DctParams} {s : State} (h : Kept q s) : Kept q (takeGearRatio s n w).2 := by
  unfold takeGearRatio
  repeat' first
    | with_reducible assumption
    | intro _
    | with_reducible apply updSlot_kept
    | split
    | dsimp only

theorem takeGearRatio_keptE {q : List Instr} {n : Fin 256} {w : DctParams} {s tR : State} {xR : Nat} (h : Kept q s) (hE : takeGearRatio s n w = (xR, tR)) : Kept q tR := by
  have := takeGearRatio_kept (q := q) (n := n) (w := w) h
  rw [hE] at this
  exact this

theorem takePhase_kept {q : List Instr} {n : Fin 256} {w : DctParams} {s : State} (h : Kept q s) : Kept q (takePhase s n w).2 := by
  unfold takePhase
  repeat' first
    | with_reducible assumption
    | intro _
    | with_reducible apply when_kept
    | with_reducible apply updSlot_kept
    | with_reducible apply takeNat_kept
    | with_reducible apply wrb_kept
    | split
    | dsimp only
    | (refine takeNat_keptE ?_ (by assumption))

theorem takePhase_keptE {q : List Instr} {n : Fin 256} {w : DctParams} {s tR : State} {xR : Nat} (h : Kept q s) (hE : takePhase s n w = (xR, tR)) : Kept q tR := by
  have := takePhase_kept (q := q) (n := n) (w := w) h
  rw [hE] at this
  exact this

theorem takeTrim_kept {q : List Instr} {n : Fin 256} {w : DctParams} {s : State} (h : Kept q s) : Kept q (takeTrim s n w).2 := by
  unfold takeTrim
  repeat' first
    | with_reducible assumption
    | intro _
    | with_reducible apply updSlot_kept
    | split
    | dsimp only

theorem takeTrim_keptE {q : List Instr} {n : Fin 256} {w : DctParams} {s tR : State} {xR : Nat} (h : Kept q s) (hE : takeTrim s n w = (xR, tR)) : Kept q tR := by
  have := takeTrim_kept (q := q) (n := n) (w := w) h
  rw [hE] at this
  exact this

theorem takeCamIn_kept {q : List Instr} {n : Fin 256} {w : DctParams} {s : State} (h : Kept q s) : Kept q (takeCamIn s n w).2 := by
  unfold takeCamIn
  repeat' first
    | with_reducible assumption
    | intro _
    | with_reducible apply updSlot_kept
    | with_reducible apply motion_kept
    | split
    | dsimp only
    | (refine motion_keptE ?_ (by assumption))

theorem takeCamIn_keptE {q : List Instr} {n : Fin 256} {w : DctParams} {s tR : State} {xR : Nat} (h : Kept q s) (hE : takeCamIn s n w = (xR, tR)) : Kept q tR := by
  have := takeCamIn_kept (q := q) (n := n) (w := w) h
  rw [hE] at this
  exact this

theorem takeCamSwitch_kept {q : List Instr} {n : Fin 256} {w : DctParams} {s : State} (h : Kept q s) : Kept q (takeCamSwitch s n w).2 := by
  unfold takeCamSwitch
  repeat' first
    | with_reducible assumption
    | intro _
    | with_reducible apply updSlot_kept
    | split
    | dsimp only

theorem takeCamSwitch_keptE {q : List Instr} {n : Fin 256} {w : DctParams} {s tR : State} {xR : Nat} (h : Kept q s) (hE : takeCamSwitch s n w = (xR, tR)) : Kept q tR := by
  have := takeCamSwitch_kept (q := q) (n := n) (w := w) h
  rw [hE] at this
  exact this

theorem takeDisengage_kept {q : List Instr} {n : Fin 256} {w : DctParams} {s : State} (h : Kept q s) : Kept q (takeDisengage s n w).2 := by
  unfold takeDisengage
  repeat' first
    | with_reducible assumption
    | intro _
    | with_reducible apply startStop_kept
    | split
    | dsimp only

theorem takeDisengage_keptE {q : List Instr} {n : Fin 256} {w : DctParams} {s tR : State} {xR : Nat} (h : Kept q s) (hE : takeDisengage s n w = (xR, tR)) : Kept q tR := by
  have := takeDisengage_kept (q := q) (n := n) (w := w) h
  rw [hE] at this
  exact this

theorem takeStepdir_kept {q : List Instr} {n : Fin 256} {w : DctParams} {s : State} (h : Kept q s) : Kept q (takeStepdir s n w).2 := by
  unfold takeStepdir
  repeat' first
    | with_reducible assumption
    | intro _
    | with_reducible apply updSlot_kept
    | with_reducible apply setPcmd_kept
    | with_reducible apply motion_kept
    | split
    | dsimp only
    | (refine motion_keptE ?_ (by assumption))

theorem takeStepdir_keptE {q : List Instr} {n : Fin 256} {w : DctParams} {s tR : State} {xR : Nat} (h : Kept q s) (hE : takeStepdir s n w = (xR, tR)) : Kept q tR := by
  have := takeStepdir_kept (q := q) (n := n) (w := w) h
  rw [hE] at this
  exact this

theorem recordResult_kept {q : List Instr} {n : Fin 256} {op : Nat} {w0ok : Bool} {w : DctParams} {s : State} (h : Kept q s) : Kept q (recordResult s n op w0ok w).2 := by
  unfold recordResult
  repeat' first
    | with_reducible assumption
    | intro _
    | with_reducible apply takeStepdir_kept
    | with_reducible apply takeTrim_kept
    | with_reducible apply takeDisengage_kept
    | with_reducible apply takeSetLimits_kept
    | with_reducible apply takeVelocity_kept
    | with_reducible apply takeMoveRel_kept
    | with_reducible apply takePhase_kept
    | with_reducible apply takeGearRatio_kept
    | with_reducible apply takeMoveAbs_kept
    | with_reducible apply takeCamIn_kept
    | with_reducible apply takeCamSwitch_kept
    | with_reducible apply takeGearIn_kept
    | with_reducible apply takeAbort_kept
    | split
    | dsimp only
    | (refine takeStepdir_keptE ?_ (by assumption))
    | (refine takeTrim_keptE ?_ (by assumption))
    | (refine takeDisengage_keptE ?_ (by assumption))
    | (refine takeSetLimits_keptE ?_ (by assumption))
    | (refine takeVelocity_keptE ?_ (by assumption))
    | (refine takeMoveRel_keptE ?_ (by assumption))
    | (refine takePhase_keptE ?_ (by assumption))
    | (refine takeGearRatio_keptE ?_ (by assumption))
    | (refine takeMoveAbs_keptE ?_ (by assumption))
    | (refine takeCamIn_keptE ?_ (by assumption))
    | (refine takeCamSwitch_keptE ?_ (by assumption))
    | (refine takeGearIn_keptE ?_ (by assumption))
    | (refine takeAbort_keptE ?_ (by assumption))

theorem recordResult_keptE {q : List Instr} {n : Fin 256} {op : Nat} {w0ok : Bool} {w : DctParams} {s tR : State} {xR : Nat} (h : Kept q s) (hE : recordResult s n op w0ok w = (xR, tR)) : Kept q tR := by
  have := recordResult_kept (q := q) (n := n) (op := op) (w0ok := w0ok) (w := w) h
  rw [hE] at this
  exact this

theorem recordAnswer_kept {q : List Instr} {src : DctSrc} {res : Nat} {s : State} (h : Kept q s) : Kept q (recordAnswer s src res) := by
  unfold recordAnswer
  repeat' first
    | with_reducible assumption
    | intro _
    | with_reducible apply wrf_kept
    | with_reducible apply ackTag_kept
    | with_reducible apply ite_kept
    | split
    | dsimp only

theorem takeRecord_kept {q : List Instr} {n : Fin 256} {r : DctRec} {s : State} (h : Kept q s) : Kept q (takeRecord s n r) := by
  unfold takeRecord
  repeat' first
    | with_reducible assumption
    | intro _
    | with_reducible apply recordAnswer_kept
    | with_reducible apply recordResult_kept
    | with_reducible apply setSt_kept
    | with_reducible apply updSlot_kept
    | with_reducible apply ite_kept
    | split
    | dsimp only
    | (refine recordResult_keptE ?_ (by assumption))

theorem putFb_kept {q : List Instr} {n : Fin 256} {i : Fin 16} {v : Half} {s : State} (h : Kept q s) : Kept q (putFb s n i v) := by
  unfold putFb
  repeat' first
    | with_reducible assumption
    | intro _
    | with_reducible apply when_kept
    | with_reducible apply mwr16_kept
    | with_reducible apply ite_kept
    | split
    | dsimp only
    | with_reducible apply Kept.mem_bytes
    | with_reducible apply Kept.wmem_bytes
    | with_reducible apply Kept.wmem_words
    | with_reducible apply Kept.wmem_word
    | with_reducible apply Kept.mk_other

theorem putFbFrom_kept {q : List Instr} {n : Fin 256} (vs : List Half) :
    ∀ {s : State} {i : Nat}, Kept q s → Kept q (putFbFrom s n i vs) := by
  induction vs with
  | nil => exact fun h => h
  | cons v r ih => exact fun h => ih (putFb_kept h)

theorem showSlot_kept {q : List Instr} {n : Fin 256} {s : State} (h : Kept q s) : Kept q (showSlot s n) := by
  unfold showSlot
  repeat' first
    | with_reducible assumption
    | intro _
    | with_reducible apply setSt_kept
    | with_reducible apply ite_kept
    | split
    | dsimp only

theorem writeSample_kept {q : List Instr} {n : Fin 256} {s : State} (h : Kept q s) : Kept q (writeSample s n) := by
  unfold writeSample
  repeat' first
    | with_reducible assumption
    | intro _
    | with_reducible apply showSlot_kept
    | with_reducible apply putFbFrom_kept
    | with_reducible apply ite_kept
    | split
    | dsimp only

theorem masterNext_kept {q : List Instr} {n : Fin 256} {s : State} (h : Kept q s) : Kept q (masterNext s n) := by
  unfold masterNext
  repeat' first
    | with_reducible assumption
    | intro _
    | with_reducible apply updSlot_kept
    | with_reducible apply wrb_kept
    | with_reducible apply ite_kept
    | split
    | dsimp only

theorem reversalAt_kept {q : List Instr} {n : Fin 256} {rev : Bool} {s : State} (h : Kept q s) : Kept q (reversalAt s n rev) := by
  unfold reversalAt
  repeat' first
    | with_reducible assumption
    | intro _
    | with_reducible apply reportReversal_kept
    | with_reducible apply when_kept
    | with_reducible apply ite_kept
    | split
    | dsimp only

theorem advanceSlot_kept {q : List Instr} {n : Fin 256} {mk : Pos48} {s : State} (h : Kept q s) : Kept q (advanceSlot s n mk) := by
  unfold advanceSlot
  repeat' first
    | with_reducible assumption
    | intro _
    | with_reducible apply advanceProf_kept
    | with_reducible apply reversalAt_kept
    | with_reducible apply trimMove_kept
    | with_reducible apply camNext_kept
    | with_reducible apply updSlot_kept
    | with_reducible apply phaseNext_kept
    | with_reducible apply trimTake_kept
    | with_reducible apply setPcmd_kept
    | with_reducible apply ite_kept
    | split
    | dsimp only
    | (refine camNext_keptE ?_ (by assumption))
    | (refine phaseNext_keptE ?_ (by assumption))

theorem quickStop_kept {q : List Instr} {n : Fin 256} {s : State} (h : Kept q s) : Kept q (quickStop s n) := by
  unfold quickStop
  repeat' first
    | with_reducible assumption
    | intro _
    | with_reducible apply startStop_kept
    | with_reducible apply updSlot_kept
    | with_reducible apply ite_kept
    | split
    | dsimp only

theorem takeNext_kept {q : List Instr} {n : Fin 256} {s : State} (h : Kept q s) : Kept q (takeNext s n) := by
  unfold takeNext
  repeat' first
    | with_reducible assumption
    | intro _
    | with_reducible apply raiseEvent_kept
    | with_reducible apply takeRecord_kept
    | with_reducible apply updSlot_kept
    | with_reducible apply takeNat_kept
    | with_reducible apply wrb_kept
    | with_reducible apply updDct_kept
    | with_reducible apply ite_kept
    | split
    | dsimp only
    | (refine takeNat_keptE ?_ (by assumption))

theorem evalSlot_kept {q : List Instr} {n : Fin 256} {s : State} (h : Kept q s) : Kept q (evalSlot s n) := by
  unfold evalSlot
  repeat' first
    | with_reducible assumption
    | intro _
    | with_reducible apply masterNext_kept
    | with_reducible apply takeNext_kept
    | with_reducible apply quickStop_kept
    | with_reducible apply updSlot_kept
    | with_reducible apply loadMeasured_kept
    | with_reducible apply advanceSlot_kept
    | with_reducible apply writeSample_kept
    | with_reducible apply ite_kept
    | split
    | dsimp only

theorem evalAll_kept {q : List Instr}  {s : State} (h : Kept q s) : Kept q (evalAll s) := by
  unfold evalAll
  repeat' first
    | with_reducible assumption
    | intro _
    | with_reducible apply forAll_kept
    | with_reducible apply takeNat_kept
    | with_reducible apply evalSlot_kept
    | with_reducible apply updDct_kept
    | with_reducible apply ite_kept
    | split
    | dsimp only
    | (refine takeNat_keptE ?_ (by assumption))

theorem dctPage_kept {q : List Instr}  {s : State} (h : Kept q s) : Kept q (dctPage s) := by
  unfold dctPage
  repeat' first
    | with_reducible assumption
    | intro _
    | with_reducible apply wrf_kept
    | with_reducible apply updDct_kept
    | with_reducible apply ite_kept
    | split
    | dsimp only

theorem deliverCapture_kept {q : List Instr} {c : Fin 16} {t : Nat} {s : State} (h : Kept q s) : Kept q (deliverCapture s c t) := by
  unfold deliverCapture
  repeat' first
    | with_reducible assumption
    | intro _
    | with_reducible apply forAll_kept
    | with_reducible apply when_kept
    | with_reducible apply updSlot_kept
    | with_reducible apply ite_kept
    | split
    | dsimp only

theorem portCommit_kept {q : List Instr} {c : Fin 16} {s : State} (h : Kept q s) : Kept q (portCommit s c) := by
  unfold portCommit
  repeat' first
    | with_reducible assumption
    | intro _
    | with_reducible apply wrf_kept
    | with_reducible apply wrb_kept
    | with_reducible apply updDct_kept
    | with_reducible apply ite_kept
    | split
    | dsimp only

theorem portWrite7_kept {q : List Instr} {c : Fin 16} {v : Word} {s : State} (h : Kept q s) : Kept q (portWrite7 s c v) := by
  unfold portWrite7
  repeat' first
    | with_reducible assumption
    | intro _
    | with_reducible apply portCommit_kept
    | with_reducible apply wr_kept
    | with_reducible apply wrb_kept
    | with_reducible apply ite_kept
    | split
    | dsimp only

theorem queueRecord_kept {q : List Instr} {q0 : Fin 8} {tag : Half} {w0 : Word} {w : DctParams} {s : State} (h : Kept q s) : Kept q (queueRecord s q0 tag w0 w) := by
  unfold queueRecord
  repeat' first
    | with_reducible assumption
    | intro _
    | with_reducible apply updSlot_kept
    | with_reducible apply ite_kept
    | split
    | dsimp only

theorem directRecord_kept {q : List Instr} {op : Nat} {n : Fin 256} {w : DctParams} {s : State} (h : Kept q s) : Kept q (directRecord op n w s) := by
  unfold directRecord
  repeat' first
    | with_reducible assumption
    | intro _
    | with_reducible apply takeRecord_kept
    | with_reducible apply updSlot_kept
    | with_reducible apply writeSample_kept
    | with_reducible apply ite_kept
    | split
    | dsimp only

end Sys2Proof.Machine
end

