-- ==== Sys2Proof/Laws/KeptWave.lean ====
section
/-! SUPPORT. What is kept (`Kept`) by each function of Machine/QuillCore.lean, Machine/AxisLib.lean, Machine/Wave.lean. -/

namespace Sys2Proof.Machine

theorem qMove_kept {q : List Instr} {e : Fin 16} {g : QEng} {y : Bool} {mv : Option QMove} {quiet : Bool} {s : State} (h : Kept q s) : Kept q (qMove s e g y mv quiet) := by
  unfold qMove
  repeat' first
    | with_reducible assumption
    | intro _
    | with_reducible apply qWrite_kept
    | with_reducible apply setD_kept
    | with_reducible apply setPtr_kept
    | with_reducible apply ite_kept
    | split
    | dsimp only

theorem writeReg_reps (g : QEng) (r : Fin 32) (v : Half) : (writeReg g r v).reps = g.reps := by
  unfold writeReg; repeat' split
  all_goals rfl

theorem writeReg_calls (g : QEng) (r : Fin 32) (v : Half) : (writeReg g r v).calls = g.calls := by
  unfold writeReg; repeat' split
  all_goals rfl

theorem writeSpec_reps (g : QEng) (c : Fin 14) (v : Half) : (writeSpec g c v).reps = g.reps := by
  unfold writeSpec; repeat' split
  all_goals rfl

theorem writeSpec_calls (g : QEng) (c : Fin 14) (v : Half) : (writeSpec g c v).calls = g.calls := by
  unfold writeSpec; repeat' split
  all_goals rfl

theorem parArith_stacks (op : POp) (f : PFmt) (g : QEng) :
    (parArith op f g).reps = g.reps ∧ (parArith op f g).calls = g.calls := by
  cases op <;> first | exact ⟨rfl, rfl⟩ | (unfold parArith opSat; dsimp only; split <;> exact ⟨rfl, rfl⟩)

theorem parEffect_kept {q : List Instr} {op : POp} {f : PFmt} {e : Fin 16} {s : State} (h : Kept q s) :
    Kept q (parEffect (parArith op) f e s) := by
  unfold parEffect
  exact when_kept (qMove_kept (qMove_kept (updEng_kept h (fun g => (parArith_stacks op f g).1 ▸ Nat.le_refl _)
    (fun g => (parArith_stacks op f g).2 ▸ Nat.le_refl _)))) (fun _ ht => wrb_kept ht)

theorem ldEffect_kept {q : List Instr} {reg : Fin 32} {y : Bool} {a : QAddr} {e : Fin 16} {s : State} (h : Kept q s) : Kept q (ldEffect reg y a e s) := by
  unfold ldEffect
  repeat' first
    | with_reducible assumption
    | intro _
    | (rw [writeReg_reps])
    | (rw [writeReg_calls])
    | (rw [writeSpec_reps])
    | (rw [writeSpec_calls])
    | with_reducible apply updEng_kept
    | with_reducible apply when_kept
    | with_reducible apply operandMod_kept
    | with_reducible apply wrb_kept
    | exact Nat.le_refl _
    | rfl
    | exact List.length_filter_le _ _
    | exact Nat.zero_le _
    | (rw [List.length_tail]; exact Nat.sub_le _ _)
    | (rw [List.length_map]; assumption)
    | (dsimp only; assumption)
    | with_reducible apply ite_kept
    | split
    | dsimp only

theorem stEffect_kept {q : List Instr} {reg : Fin 32} {y : Bool} {a : QAddr} {e : Fin 16} {s : State} (h : Kept q s) : Kept q (stEffect reg y a e s) := by
  unfold stEffect
  repeat' first
    | with_reducible assumption
    | intro _
    | with_reducible apply setSr_kept
    | with_reducible apply qWrite_kept
    | with_reducible apply operandMod_kept
    | with_reducible apply ite_kept
    | split
    | dsimp only

theorem ldiEffect_kept {q : List Instr} {reg : Fin 32} {imm : Half} {e : Fin 16} {s : State} (h : Kept q s) : Kept q (ldiEffect reg imm e s) := by
  unfold ldiEffect
  repeat' first
    | with_reducible assumption
    | intro _
    | (rw [writeReg_reps])
    | (rw [writeReg_calls])
    | (rw [writeSpec_reps])
    | (rw [writeSpec_calls])
    | with_reducible apply updEng_kept
    | exact Nat.le_refl _
    | rfl
    | exact List.length_filter_le _ _
    | exact Nat.zero_le _
    | (rw [List.length_tail]; exact Nat.sub_le _ _)
    | (rw [List.length_map]; assumption)
    | (dsimp only; assumption)
    | with_reducible apply ite_kept
    | split
    | dsimp only

theorem movrEffect_kept {q : List Instr} {dst : Fin 32} {src : Fin 32} {e : Fin 16} {s : State} (h : Kept q s) : Kept q (movrEffect dst src e s) := by
  unfold movrEffect
  repeat' first
    | with_reducible assumption
    | intro _
    | (rw [writeReg_reps])
    | (rw [writeReg_calls])
    | (rw [writeSpec_reps])
    | (rw [writeSpec_calls])
    | with_reducible apply setSr_kept
    | with_reducible apply updEng_kept
    | exact Nat.le_refl _
    | rfl
    | exact List.length_filter_le _ _
    | exact Nat.zero_le _
    | (rw [List.length_tail]; exact Nat.sub_le _ _)
    | (rw [List.length_map]; assumption)
    | (dsimp only; assumption)
    | with_reducible apply ite_kept
    | split
    | dsimp only

theorem movsEffect_kept {q : List Instr} {reg : Fin 32} {toSpecial : Bool} {spec : Fin 14} {e : Fin 16} {s : State} (h : Kept q s) : Kept q (movsEffect reg toSpecial spec e s) := by
  unfold movsEffect
  repeat' first
    | with_reducible assumption
    | intro _
    | (rw [writeReg_reps])
    | (rw [writeReg_calls])
    | (rw [writeSpec_reps])
    | (rw [writeSpec_calls])
    | with_reducible apply setSr_kept
    | with_reducible apply updEng_kept
    | exact Nat.le_refl _
    | rfl
    | exact List.length_filter_le _ _
    | exact Nat.zero_le _
    | (rw [List.length_tail]; exact Nat.sub_le _ _)
    | (rw [List.length_map]; assumption)
    | (dsimp only; assumption)
    | with_reducible apply ite_kept
    | split
    | dsimp only

theorem ldlEffect_kept {q : List Instr} {an : Fin 4} {y : Bool} {a : QAddr} {e : Fin 16} {s : State} (h : Kept q s) : Kept q (ldlEffect an y a e s) := by
  unfold ldlEffect
  repeat' first
    | with_reducible assumption
    | intro _
    | (rw [writeReg_reps])
    | (rw [writeReg_calls])
    | (rw [writeSpec_reps])
    | (rw [writeSpec_calls])
    | with_reducible apply updEng_kept
    | with_reducible apply operandMod_kept
    | exact Nat.le_refl _
    | rfl
    | exact List.length_filter_le _ _
    | exact Nat.zero_le _
    | (rw [List.length_tail]; exact Nat.sub_le _ _)
    | (rw [List.length_map]; assumption)
    | (dsimp only; assumption)
    | with_reducible apply ite_kept
    | split
    | dsimp only

theorem stlEffect_kept {q : List Instr} {an : Fin 4} {y : Bool} {a : QAddr} {e : Fin 16} {s : State} (h : Kept q s) : Kept q (stlEffect an y a e s) := by
  unfold stlEffect
  repeat' first
    | with_reducible assumption
    | intro _
    | with_reducible apply setSr_kept
    | with_reducible apply qWrite_kept
    | with_reducible apply operandMod_kept
    | with_reducible apply ite_kept
    | split
    | dsimp only

theorem addiEffect_kept {q : List Instr} {an : Fin 4} {imm : Half} {e : Fin 16} {s : State} (h : Kept q s) : Kept q (addiEffect an imm e s) := by
  unfold addiEffect
  repeat' first
    | with_reducible assumption
    | intro _
    | (rw [writeReg_reps])
    | (rw [writeReg_calls])
    | (rw [writeSpec_reps])
    | (rw [writeSpec_calls])
    | with_reducible apply updEng_kept
    | exact Nat.le_refl _
    | rfl
    | exact List.length_filter_le _ _
    | exact Nat.zero_le _
    | (rw [List.length_tail]; exact Nat.sub_le _ _)
    | (rw [List.length_map]; assumption)
    | (dsimp only; assumption)
    | with_reducible apply ite_kept
    | split
    | dsimp only

theorem perrEffect_kept {q : List Instr} {an : Fin 4} {p : Fin 4} {q0 : Fin 4} {inc : Bool} {e : Fin 16} {s : State} (h : Kept q s) : Kept q (perrEffect an p q0 inc e s) := by
  unfold perrEffect
  repeat' first
    | with_reducible assumption
    | intro _
    | (rw [writeReg_reps])
    | (rw [writeReg_calls])
    | (rw [writeSpec_reps])
    | (rw [writeSpec_calls])
    | with_reducible apply updEng_kept
    | with_reducible apply setPtr_kept
    | exact Nat.le_refl _
    | rfl
    | exact List.length_filter_le _ _
    | exact Nat.zero_le _
    | (rw [List.length_tail]; exact Nat.sub_le _ _)
    | (rw [List.length_map]; assumption)
    | (dsimp only; assumption)
    | with_reducible apply ite_kept
    | split
    | dsimp only

theorem gluEffect_kept {q : List Instr} {dd : Fin 8} {ds : Fin 8} {gb : Fin 4} {e : Fin 16} {s : State} (h : Kept q s) : Kept q (gluEffect dd ds gb e s) := by
  unfold gluEffect
  repeat' first
    | with_reducible assumption
    | intro _
    | with_reducible apply setD_kept
    | with_reducible apply ite_kept
    | split
    | dsimp only

theorem rotEffect_kept {q : List Instr} {inverse : Bool} {hiPair : Bool} {da : Fin 8} {db : Fin 8} {dth : Fin 8} {e : Fin 16} {s : State} (h : Kept q s) : Kept q (rotEffect inverse hiPair da db dth e s) := by
  unfold rotEffect
  repeat' first
    | with_reducible assumption
    | intro _
    | (rw [writeReg_reps])
    | (rw [writeReg_calls])
    | (rw [writeSpec_reps])
    | (rw [writeSpec_calls])
    | with_reducible apply updEng_kept
    | exact Nat.le_refl _
    | rfl
    | exact List.length_filter_le _ _
    | exact Nat.zero_le _
    | (rw [List.length_tail]; exact Nat.sub_le _ _)
    | (rw [List.length_map]; assumption)
    | (dsimp only; assumption)
    | with_reducible apply ite_kept
    | split
    | dsimp only

theorem jmpFlow_kept {q : List Instr} {cond : Fin 13} {target : BitVec 12} {e : Fin 16} {s : State} (h : Kept q s) : Kept q (jmpFlow cond target e s).1 := by
  unfold jmpFlow
  repeat' first
    | with_reducible assumption
    | intro _
    | (rw [writeReg_reps])
    | (rw [writeReg_calls])
    | (rw [writeSpec_reps])
    | (rw [writeSpec_calls])
    | with_reducible apply updEng_kept
    | exact Nat.le_refl _
    | rfl
    | exact List.length_filter_le _ _
    | exact Nat.zero_le _
    | (rw [List.length_tail]; exact Nat.sub_le _ _)
    | (rw [List.length_map]; assumption)
    | (dsimp only; assumption)
    | split
    | dsimp only

theorem jmpFlow_keptE {q : List Instr} {cond : Fin 13} {target : BitVec 12} {e : Fin 16} {s tR : State} {xR : QCtl} (h : Kept q s) (hE : jmpFlow cond target e s = (tR, xR)) : Kept q tR := by
  have := jmpFlow_kept (q := q) (cond := cond) (target := target) (e := e) h
  rw [hE] at this
  exact this

theorem callFlow_kept {q : List Instr} {c : Fin 13} {t : BitVec 12} {e : Fin 16} {s : State} (h : Kept q s) :
    Kept q (callFlow c t e s).1 := by
  unfold callFlow
  dsimp only
  repeat' split
  · exact h
  · exact h
  · refine updEng_kept_at h (h.reps e) ?_
    rename_i hn
    simp only [List.length_cons]
    unfold eng at hn
    omega
  · exact h

theorem retFlow_kept {q : List Instr} {c : Fin 13} {e : Fin 16} {s : State} (h : Kept q s) :
    Kept q (retFlow c e s).1 := by
  unfold retFlow
  dsimp only
  repeat' split
  · exact h
  · exact h
  · rename_i hc
    have hl := h.calls e
    unfold eng at hc
    rw [hc] at hl
    refine updEng_kept_at h (h.reps e) ?_
    simp only [List.length_cons] at hl
    dsimp only
    omega
  · exact h

theorem repFlow_kept {q : List Instr} {c : QCount} {l : BitVec 12} {e : Fin 16} {s : State} (h : Kept q s) :
    Kept q (repFlow c l e s).1 := by
  unfold repFlow
  dsimp only
  repeat' split
  · exact h
  · exact h
  · exact h
  · refine updEng_kept_at h ?_ (h.calls e)
    rename_i hn
    simp only [List.length_cons]
    unfold eng at hn
    omega

theorem finFlow_kept {q : List Instr} {e : Fin 16} {s : State} (h : Kept q s) : Kept q (finFlow e s).1 := by
  unfold finFlow
  repeat' first
    | with_reducible assumption
    | intro _
    | split
    | dsimp only

theorem finFlow_keptE {q : List Instr} {e : Fin 16} {s tR : State} {xR : QCtl} (h : Kept q s) (hE : finFlow e s = (tR, xR)) : Kept q tR := by
  have := finFlow_kept (q := q) (e := e) h
  rw [hE] at this
  exact this

theorem instrEffect_kept {q : List Instr} {i : QInstr} {e : Fin 16} {s : State} (h : Kept q s) :
    Kept q (instrEffect i e s).1 := by
  cases i
  all_goals first
    | exact parEffect_kept h
    | exact ldEffect_kept h
    | exact stEffect_kept h
    | exact ldiEffect_kept h
    | exact movrEffect_kept h
    | exact movsEffect_kept h
    | exact ldlEffect_kept h
    | exact stlEffect_kept h
    | exact addiEffect_kept h
    | exact perrEffect_kept h
    | exact gluEffect_kept h
    | exact rotEffect_kept h
    | exact jmpFlow_kept h
    | exact callFlow_kept h
    | exact retFlow_kept h
    | exact repFlow_kept h
    | exact finFlow_kept h

theorem updAx_kept {q : List Instr} {n : Fin 256} {f : AxisSt → AxisSt} {s : State} (h : Kept q s) : Kept q (updAx s n f) := by
  unfold updAx
  repeat' first
    | with_reducible assumption
    | intro _
    | with_reducible apply ite_kept
    | split
    | dsimp only
    | with_reducible apply Kept.mem_bytes
    | with_reducible apply Kept.wmem_bytes
    | with_reducible apply Kept.wmem_words
    | with_reducible apply Kept.wmem_word
    | with_reducible apply Kept.mk_other

theorem libStore_kept {q : List Instr} {e : Fin 16} {a : BitVec 14} {w : Tab 5 Half} {s : State} (h : Kept q s) : Kept q (libStore s e a w) := by
  unfold libStore
  repeat' first
    | with_reducible assumption
    | intro _
    | with_reducible apply qWrite_kept
    | with_reducible apply ite_kept
    | split
    | dsimp only

theorem libRun_kept {q : List Instr} {n : Fin 256} {s : State} (h : Kept q s) : Kept q (libRun s n) := by
  unfold libRun
  repeat' first
    | with_reducible assumption
    | intro _
    | with_reducible apply takeInt_kept
    | with_reducible apply libStore_kept
    | with_reducible apply updAx_kept
    | with_reducible apply ite_kept
    | split
    | dsimp only
    | (refine takeInt_keptE ?_ (by assumption))

theorem updGrp_kept {q : List Instr} {g : Fin 32} {f : GroupSt → GroupSt} {s : State} (h : Kept q s) : Kept q (updGrp s g f) := by
  unfold updGrp
  repeat' first
    | with_reducible assumption
    | intro _
    | with_reducible apply ite_kept
    | split
    | dsimp only
    | with_reducible apply Kept.mem_bytes
    | with_reducible apply Kept.wmem_bytes
    | with_reducible apply Kept.wmem_words
    | with_reducible apply Kept.wmem_word
    | with_reducible apply Kept.mk_other

theorem showInfl_kept {q : List Instr}  {s : State} (h : Kept q s) : Kept q (showInfl s) := by
  unfold showInfl
  repeat' first
    | with_reducible assumption
    | intro _
    | with_reducible apply wrf_kept
    | with_reducible apply when_kept
    | with_reducible apply ite_kept
    | split
    | dsimp only

theorem modeTakes_kept {q : List Instr} {e : Fin 16} {s : State} (h : Kept q s) : Kept q (modeTakes s e) := by
  unfold modeTakes
  repeat' first
    | with_reducible assumption
    | intro _
    | with_reducible apply updEng_kept
    | exact Nat.le_refl _
    | rfl
    | exact List.length_filter_le _ _
    | exact Nat.zero_le _
    | (rw [List.length_tail]; exact Nat.sub_le _ _)
    | (rw [List.length_map]; assumption)
    | (dsimp only; assumption)
    | with_reducible apply ite_kept
    | split
    | dsimp only

theorem modeIfIdle_kept {q : List Instr} {e : Fin 16} {s : State} (h : Kept q s) : Kept q (modeIfIdle s e) := by
  unfold modeIfIdle
  repeat' first
    | with_reducible assumption
    | intro _
    | with_reducible apply modeTakes_kept
    | with_reducible apply when_kept
    | with_reducible apply ite_kept
    | split
    | dsimp only

theorem modePage_kept {q : List Instr} {e : Fin 16} {s : State} (h : Kept q s) : Kept q (modePage s e) := by
  unfold modePage
  repeat' first
    | with_reducible assumption
    | intro _
    | with_reducible apply updEng_kept
    | with_reducible apply modeIfIdle_kept
    | exact Nat.le_refl _
    | rfl
    | exact List.length_filter_le _ _
    | exact Nat.zero_le _
    | (rw [List.length_tail]; exact Nat.sub_le _ _)
    | (rw [List.length_map]; assumption)
    | (dsimp only; assumption)
    | with_reducible apply ite_kept
    | split
    | dsimp only

theorem corrected_kept {q : List Instr} {e : Fin 16} {n : Nat} {s : State} (h : Kept q s) : Kept q (corrected s e n) := by
  unfold corrected
  repeat' first
    | with_reducible assumption
    | intro _
    | with_reducible apply wr_kept
    | with_reducible apply wrb_kept
    | with_reducible apply ite_kept
    | split
    | dsimp only

theorem serveRead_kept {q : List Instr} {e : Fin 16} {r : HeldRead} {s : State} (h : Kept q s) : Kept q (serveRead s e r) := by
  unfold serveRead
  repeat' first
    | with_reducible assumption
    | intro _
    | with_reducible apply respond_kept
    | with_reducible apply corrected_kept
    | with_reducible apply takeNat_kept
    | with_reducible apply ite_kept
    | split
    | dsimp only
    | (refine takeNat_keptE ?_ (by assumption))

theorem serveHeld_kept {q : List Instr} {e : Fin 16} {s : State} (h : Kept q s) : Kept q (serveHeld s e) := by
  unfold serveHeld
  repeat' first
    | with_reducible assumption
    | intro _
    | with_reducible apply forAll_kept
    | with_reducible apply updEng_kept
    | with_reducible apply serveRead_kept
    | exact Nat.le_refl _
    | rfl
    | exact List.length_filter_le _ _
    | exact Nat.zero_le _
    | (rw [List.length_tail]; exact Nat.sub_le _ _)
    | (rw [List.length_map]; assumption)
    | (dsimp only; assumption)
    | with_reducible apply ite_kept
    | split
    | dsimp only

theorem fallIdle_kept {q : List Instr} {e : Fin 16} {s : State} (h : Kept q s) : Kept q (fallIdle s e) := by
  unfold fallIdle
  repeat' first
    | with_reducible assumption
    | intro _
    | with_reducible apply modeIfIdle_kept
    | with_reducible apply serveHeld_kept
    | with_reducible apply ite_kept
    | split
    | dsimp only

theorem modeWrite_kept {q : List Instr} {e : Fin 16} {m : BitVec 2} {s : State} (h : Kept q s) : Kept q (modeWrite s e m) := by
  unfold modeWrite
  repeat' first
    | with_reducible assumption
    | intro _
    | with_reducible apply wrf_kept
    | with_reducible apply updEng_kept
    | with_reducible apply modeIfIdle_kept
    | exact Nat.le_refl _
    | rfl
    | exact List.length_filter_le _ _
    | exact Nat.zero_le _
    | (rw [List.length_tail]; exact Nat.sub_le _ _)
    | (rw [List.length_map]; assumption)
    | (dsimp only; assumption)
    | with_reducible apply ite_kept
    | split
    | dsimp only

theorem axisStatus_kept {q : List Instr} {n : Fin 256} {w4 : Half} {s : State} (h : Kept q s) : Kept q (axisStatus s n w4) := by
  unfold axisStatus
  repeat' first
    | with_reducible assumption
    | intro _
    | with_reducible apply assertSource_kept
    | with_reducible apply when_kept
    | with_reducible apply wr_kept
    | with_reducible apply ite_kept
    | split
    | dsimp only

theorem releaseAxis_kept {q : List Instr} {n : Fin 256} {s : State} (h : Kept q s) : Kept q (releaseAxis s n) := by
  unfold releaseAxis
  repeat' first
    | with_reducible assumption
    | intro _
    | with_reducible apply updAx_kept
    | with_reducible apply axisStatus_kept
    | with_reducible apply ite_kept
    | split
    | dsimp only

theorem releaseGroup_kept {q : List Instr} {g : Fin 32} {s : State} (h : Kept q s) : Kept q (releaseGroup s g) := by
  unfold releaseGroup
  repeat' first
    | with_reducible assumption
    | intro _
    | with_reducible apply wrf_kept
    | with_reducible apply forAll_kept
    | with_reducible apply raiseEvent_kept
    | with_reducible apply folEvent_kept
    | with_reducible apply updGrp_kept
    | with_reducible apply releaseAxis_kept
    | with_reducible apply ite_kept
    | split
    | dsimp only

theorem releaseEntries_kept {q : List Instr} {g : Fin 32} (l : List (Fin 256)) :
    ∀ {s : State}, Kept q s → Kept q (releaseEntries g l s) := by
  induction l with
  | nil => exact fun h => h
  | cons n r ih =>
    intro s h
    unfold releaseEntries
    split
    · exact ih (raiseEvent_kept (updAx_kept h))
    · exact ih h
    · exact h

theorem groupRun_kept {q : List Instr} {g : Fin 32} {s : State} (h : Kept q s) : Kept q (groupRun s g) := by
  unfold groupRun
  repeat' first
    | with_reducible assumption
    | intro _
    | with_reducible apply releaseEntries_kept
    | with_reducible apply when_kept
    | with_reducible apply showInfl_kept
    | with_reducible apply releaseGroup_kept
    | with_reducible apply ite_kept
    | split
    | dsimp only

theorem dispatchAxis_kept {q : List Instr} {e : Fin 16} {n : Fin 256} {s : State} (h : Kept q s) : Kept q (dispatchAxis s e n) := by
  unfold dispatchAxis
  repeat' first
    | with_reducible assumption
    | intro _
    | with_reducible apply updEng_kept
    | with_reducible apply updAx_kept
    | exact Nat.le_refl _
    | rfl
    | exact List.length_filter_le _ _
    | exact Nat.zero_le _
    | (rw [List.length_tail]; exact Nat.sub_le _ _)
    | (rw [List.length_map]; assumption)
    | (dsimp only; assumption)
    | with_reducible apply ite_kept
    | split
    | dsimp only
    | with_reducible apply Kept.mem_bytes
    | with_reducible apply Kept.wmem_bytes
    | with_reducible apply Kept.wmem_words
    | with_reducible apply Kept.wmem_word
    | with_reducible apply Kept.mk_other

theorem draftBlind_kept {q : List Instr} {mode : BitVec 2} {s : State} (h : Kept q s) : Kept q (draftBlind mode s).2 := by
  unfold draftBlind
  repeat' first
    | with_reducible assumption
    | intro _
    | with_reducible apply takeInt_kept
    | with_reducible apply takeNat_kept
    | split
    | dsimp only
    | (refine takeInt_keptE ?_ (by assumption))
    | (refine takeNat_keptE ?_ (by assumption))

theorem draftBlind_keptE {q : List Instr} {mode : BitVec 2} {s tR : State} {xR : Tab 5 Half} (h : Kept q s) (hE : draftBlind mode s = (xR, tR)) : Kept q tR := by
  have := draftBlind_kept (q := q) (mode := mode) h
  rw [hE] at this
  exact this

theorem draftOut_kept {q : List Instr} {d : DraftAxis} {s : State} (h : Kept q s) : Kept q (draftOut d s).2 := by
  unfold draftOut
  repeat' first
    | with_reducible assumption
    | intro _
    | with_reducible apply draftBlind_kept
    | split
    | dsimp only
    | (refine draftBlind_keptE ?_ (by assumption))

theorem draftOut_keptE {q : List Instr} {d : DraftAxis} {s tR : State} {xR : (Tab 5 Half × DraftAxis)} (h : Kept q s) (hE : draftOut d s = (xR, tR)) : Kept q tR := by
  have := draftOut_kept (q := q) (d := d) h
  rw [hE] at this
  exact this

theorem runDraft_kept {q : List Instr} {e : Fin 16} {n : Fin 256} {s : State} (h : Kept q s) : Kept q (runDraft s e n) := by
  unfold runDraft
  repeat' first
    | with_reducible assumption
    | intro _
    | with_reducible apply updEng_kept
    | with_reducible apply updAx_kept
    | with_reducible apply draftOut_kept
    | exact Nat.le_refl _
    | rfl
    | exact List.length_filter_le _ _
    | exact Nat.zero_le _
    | (rw [List.length_tail]; exact Nat.sub_le _ _)
    | (rw [List.length_map]; assumption)
    | (dsimp only; assumption)
    | with_reducible apply ite_kept
    | split
    | dsimp only
    | (refine draftOut_keptE ?_ (by assumption))
    | with_reducible apply Kept.mem_bytes
    | with_reducible apply Kept.wmem_bytes
    | with_reducible apply Kept.wmem_words
    | with_reducible apply Kept.wmem_word
    | with_reducible apply Kept.mk_other

theorem dispatchNext_kept {q : List Instr} {e : Fin 16} {s : State} (h : Kept q s) : Kept q (dispatchNext s e) := by
  unfold dispatchNext
  repeat' first
    | with_reducible assumption
    | intro _
    | with_reducible apply runDraft_kept
    | with_reducible apply dispatchAxis_kept
    | with_reducible apply updEng_kept
    | with_reducible apply modeIfIdle_kept
    | exact Nat.le_refl _
    | rfl
    | exact List.length_filter_le _ _
    | exact Nat.zero_le _
    | (rw [List.length_tail]; exact Nat.sub_le _ _)
    | (rw [List.length_map]; assumption)
    | (dsimp only; assumption)
    | with_reducible apply ite_kept
    | split
    | dsimp only

theorem recordStop_kept {q : List Instr} {e : Fin 16} {cause : Nat} {s : State} (h : Kept q s) : Kept q (recordStop s e cause) := by
  unfold recordStop
  repeat' first
    | with_reducible assumption
    | intro _
    | with_reducible apply wr_kept
    | with_reducible apply ite_kept
    | split
    | dsimp only

theorem stopProgram_kept {q : List Instr} {e : Fin 16} {cause : Nat} {s : State} (h : Kept q s) : Kept q (stopProgram s e cause) := by
  unfold stopProgram
  repeat' first
    | with_reducible assumption
    | intro _
    | with_reducible apply assertSource_kept
    | with_reducible apply updEng_kept
    | with_reducible apply fallIdle_kept
    | with_reducible apply updAx_kept
    | with_reducible apply recordStop_kept
    | exact Nat.le_refl _
    | rfl
    | exact List.length_filter_le _ _
    | exact Nat.zero_le _
    | (rw [List.length_tail]; exact Nat.sub_le _ _)
    | (rw [List.length_map]; assumption)
    | (dsimp only; assumption)
    | with_reducible apply ite_kept
    | split
    | dsimp only

theorem stopLasting_kept {q : List Instr} {e : Fin 16} {cause : Nat} {s : State} (h : Kept q s) : Kept q (stopLasting s e cause) := by
  unfold stopLasting
  repeat' first
    | with_reducible assumption
    | intro _
    | with_reducible apply incf_kept
    | with_reducible apply stopProgram_kept
    | with_reducible apply wrb_kept
    | with_reducible apply ite_kept
    | split
    | dsimp only

theorem engineError_kept {q : List Instr} {e : Fin 16} {cause : Nat} {s : State} (h : Kept q s) : Kept q (engineError s e cause) := by
  unfold engineError
  repeat' first
    | with_reducible assumption
    | intro _
    | with_reducible apply updEng_kept
    | with_reducible apply newInstant_kept
    | with_reducible apply stopLasting_kept
    | exact Nat.le_refl _
    | rfl
    | exact List.length_filter_le _ _
    | exact Nat.zero_le _
    | (rw [List.length_tail]; exact Nat.sub_le _ _)
    | (rw [List.length_map]; assumption)
    | (dsimp only; assumption)
    | with_reducible apply ite_kept
    | split
    | dsimp only

theorem retryGood_kept {q : List Instr} {e : Fin 16} {s : State} (h : Kept q s) : Kept q (retryGood s e) := by
  unfold retryGood
  repeat' first
    | with_reducible assumption
    | intro _
    | with_reducible apply assertSource_kept
    | with_reducible apply incf_kept
    | with_reducible apply wrb_kept
    | with_reducible apply ite_kept
    | split
    | dsimp only

theorem attemptGood_kept {q : List Instr} {e : Fin 16} {s : State} (h : Kept q s) : Kept q (attemptGood s e) := by
  unfold attemptGood
  repeat' first
    | with_reducible assumption
    | intro _
    | with_reducible apply retryGood_kept
    | with_reducible apply updEng_kept
    | exact Nat.le_refl _
    | rfl
    | exact List.length_filter_le _ _
    | exact Nat.zero_le _
    | (rw [List.length_tail]; exact Nat.sub_le _ _)
    | (rw [List.length_map]; assumption)
    | (dsimp only; assumption)
    | with_reducible apply ite_kept
    | split
    | dsimp only

theorem finProgram_kept {q : List Instr} {e : Fin 16} {s : State} (h : Kept q s) : Kept q (finProgram s e) := by
  unfold finProgram
  exact groupRun_kept (fallIdle_kept (updEng_kept (updAx_kept (libRun_kept (newInstant_kept h))) (fun _ => Nat.le_refl _) (fun _ => Nat.le_refl _)))

theorem loopBack_le (pc : BitVec 12) (l : List RepLevel) : (loopBack pc l).2.length ≤ l.length := by
  induction l with
  | nil => exact Nat.le_refl _
  | cons x r ih =>
    unfold loopBack
    repeat' split
    · exact Nat.le_refl _
    · exact Nat.le_trans ih (Nat.le_succ _)
    · exact Nat.le_refl _

theorem loopSkip_le (e : BitVec 12) (l : List RepLevel) : (loopSkip e l).2.length ≤ l.length := by
  induction l with
  | nil => exact Nat.le_refl _
  | cons x r ih =>
    unfold loopSkip
    repeat' split
    · exact Nat.le_refl _
    · exact Nat.le_trans ih (Nat.le_succ _)
    · exact Nat.succ_le_succ ih

theorem advance_kept {q : List Instr} {e : Fin 16} {c : QCtl} {s : State} (h : Kept q s) : Kept q (advance s e c) := by
  cases c with
  | adv => exact updEng_kept_at h (Nat.le_trans (loopBack_le _ _) (h.reps e)) (h.calls e)
  | asIf l => exact updEng_kept_at h (Nat.le_trans (loopSkip_le _ _) (h.reps e)) (h.calls e)
  | goto t => exact updEng_kept h (fun _ => Nat.le_refl _) (fun _ => Nat.le_refl _)
  | stop k => exact stopProgram_kept (newInstant_kept h)
  | fin =>
    unfold advance
    dsimp only
    split
    · exact h
    · exact finProgram_kept h

theorem runInstr_kept {q : List Instr} {e : Fin 16} {det : Detect} {i : QInstr} {s : State} (h : Kept q s) : Kept q (runInstr e det i s) := by
  unfold runInstr
  repeat' first
    | with_reducible assumption
    | intro _
    | with_reducible apply advance_kept
    | with_reducible apply engineError_kept
    | with_reducible apply instrEffect_kept
    | with_reducible apply corrected_kept
    | with_reducible apply attemptGood_kept
    | with_reducible apply ite_kept
    | split
    | dsimp only
    | (refine instrEffect_keptE ?_ (by assumption))

theorem runIllegal_kept {q : List Instr} {e : Fin 16} {det : Detect} {s : State} (h : Kept q s) : Kept q (runIllegal s e det) := by
  unfold runIllegal
  repeat' first
    | with_reducible assumption
    | intro _
    | with_reducible apply engineError_kept
    | with_reducible apply corrected_kept
    | with_reducible apply attemptGood_kept
    | with_reducible apply newInstant_kept
    | with_reducible apply stopProgram_kept
    | with_reducible apply ite_kept
    | split
    | dsimp only

theorem stepEffect_kept {q : List Instr} {e : Fin 16} {s : State} (h : Kept q s) : Kept q (stepEffect s e) := by
  unfold stepEffect
  repeat' first
    | with_reducible assumption
    | intro _
    | with_reducible apply advance_kept
    | with_reducible apply instrEffect_kept
    | with_reducible apply stopProgram_kept
    | with_reducible apply ite_kept
    | split
    | dsimp only
    | (refine instrEffect_keptE ?_ (by assumption))

theorem stepTries_kept {q : List Instr} {e : Fin 16} {l : List Detect} {s : State} (h : Kept q s) : Kept q (stepTries s e l) := by
  unfold stepTries
  repeat' first
    | with_reducible assumption
    | intro _
    | with_reducible apply retryGood_kept
    | with_reducible apply stepEffect_kept
    | with_reducible apply corrected_kept
    | with_reducible apply stopLasting_kept
    | with_reducible apply ite_kept
    | split
    | dsimp only

theorem debugStep_kept {q : List Instr} {e : Fin 16} {s : State} (h : Kept q s) : Kept q (debugStep s e) := by
  unfold debugStep
  repeat' first
    | with_reducible assumption
    | intro _
    | with_reducible apply wrf_kept
    | with_reducible apply updEng_kept
    | with_reducible apply stepTries_kept
    | with_reducible apply newInstant_kept
    | exact Nat.le_refl _
    | rfl
    | exact List.length_filter_le _ _
    | exact Nat.zero_le _
    | (rw [List.length_tail]; exact Nat.sub_le _ _)
    | (rw [List.length_map]; assumption)
    | (dsimp only; assumption)
    | with_reducible apply ite_kept
    | split
    | dsimp only

theorem cancelEngine_kept {q : List Instr} {e : Fin 16} {s : State} (h : Kept q s) : Kept q (cancelEngine s e) := by
  unfold cancelEngine
  repeat' first
    | with_reducible assumption
    | intro _
    | with_reducible apply updEng_kept
    | with_reducible apply fallIdle_kept
    | with_reducible apply stopLasting_kept
    | exact Nat.le_refl _
    | rfl
    | exact List.length_filter_le _ _
    | exact Nat.zero_le _
    | (rw [List.length_tail]; exact Nat.sub_le _ _)
    | (rw [List.length_map]; assumption)
    | (dsimp only; assumption)
    | with_reducible apply ite_kept
    | split
    | dsimp only

theorem slackGroup_kept {q : List Instr} {en : Bool} {e : Fin 32 × Int} {s : State} (h : Kept q s) : Kept q (slackGroup en s e) := by
  unfold slackGroup
  repeat' first
    | with_reducible assumption
    | intro _
    | with_reducible apply wrf_kept
    | with_reducible apply when_kept
    | with_reducible apply ite_kept
    | split
    | dsimp only

theorem slackStats_kept {q : List Instr}  {s : State} (h : Kept q s) : Kept q (slackStats s) := by
  unfold slackStats
  repeat' first
    | with_reducible assumption
    | intro _
    | with_reducible apply slackGroup_kept
    | with_reducible apply forAll_kept
    | with_reducible apply incf_kept
    | with_reducible apply when_kept
    | with_reducible apply wr_kept
    | with_reducible apply ite_kept
    | split
    | dsimp only

theorem engineEnd_kept {q : List Instr} {e : Fin 16} {s : State} (h : Kept q s) : Kept q (engineEnd s e) := by
  unfold engineEnd
  repeat' first
    | with_reducible assumption
    | intro _
    | with_reducible apply cancelEngine_kept
    | with_reducible apply updEng_kept
    | with_reducible apply modeIfIdle_kept
    | exact Nat.le_refl _
    | rfl
    | exact List.length_filter_le _ _
    | exact Nat.zero_le _
    | (rw [List.length_tail]; exact Nat.sub_le _ _)
    | (rw [List.length_map]; assumption)
    | (dsimp only; assumption)
    | with_reducible apply ite_kept
    | split
    | dsimp only

theorem waveEnd_kept {q : List Instr}  {s : State} (h : Kept q s) : Kept q (waveEnd s) := by
  unfold waveEnd
  repeat' first
    | with_reducible assumption
    | intro _
    | with_reducible apply forAll_kept
    | with_reducible apply slackStats_kept
    | with_reducible apply engineEnd_kept
    | with_reducible apply ite_kept
    | split
    | dsimp only

theorem mwrHalves_kept {q : List Instr} (vs : List Half) : ∀ {s : State} {a : Nat}, Kept q s → Kept q (mwrHalves s a vs) := by
  induction vs with
  | nil => exact fun h => h
  | cons v r ih => exact fun h => ih (mwr16_kept h)

theorem writeDescriptor_kept {q : List Instr}  {s : State} (h : Kept q s) : Kept q (writeDescriptor s) := by
  unfold writeDescriptor
  repeat' first
    | with_reducible assumption
    | intro _
    | with_reducible apply mwrHalves_kept
    | with_reducible apply forAll_kept
    | with_reducible apply when_kept
    | with_reducible apply ite_kept
    | split
    | dsimp only

theorem entryBegin_kept {q : List Instr} {n : Fin 256} {s : State} (h : Kept q s) : Kept q (entryBegin s n) := by
  unfold entryBegin
  repeat' first
    | with_reducible assumption
    | intro _
    | with_reducible apply updAx_kept
    | with_reducible apply ite_kept
    | split
    | dsimp only

theorem waveOpen_kept {q : List Instr}  {s : State} (h : Kept q s) : Kept q (waveOpen s) := by
  unfold waveOpen
  repeat' first
    | with_reducible assumption
    | intro _
    | with_reducible apply ite_kept
    | split
    | dsimp only
    | with_reducible apply Kept.mem_bytes
    | with_reducible apply Kept.wmem_bytes
    | with_reducible apply Kept.wmem_words
    | with_reducible apply Kept.wmem_word
    | with_reducible apply Kept.mk_other

theorem waveBegin_kept {q : List Instr} {s : State} (h : Kept q s) : Kept q (waveBegin s) := by
  unfold waveBegin
  refine forAll_kept (showInfl_kept (forAll_kept (forAll_kept (waveOpen_kept h) ?_) ?_)) ?_
  · exact fun t g ht => forAll_kept (updGrp_kept ht) (fun _ _ hu => entryBegin_kept hu)
  · exact fun t e ht => updEng_kept ht (fun _ => Nat.le_refl _) (fun _ => Nat.le_refl _)
  · exact fun t g ht => when_kept (groupRun_kept ht) (fun _ hu => updGrp_kept hu)

theorem draftBegin_kept {q : List Instr}  {s : State} (h : Kept q s) : Kept q (draftBegin s) := by
  unfold draftBegin
  repeat' first
    | with_reducible assumption
    | intro _
    | with_reducible apply forAll_kept
    | with_reducible apply updEng_kept
    | with_reducible apply waveOpen_kept
    | with_reducible apply updAx_kept
    | exact Nat.le_refl _
    | rfl
    | exact List.length_filter_le _ _
    | exact Nat.zero_le _
    | (rw [List.length_tail]; exact Nat.sub_le _ _)
    | (rw [List.length_map]; assumption)
    | (dsimp only; assumption)
    | with_reducible apply ite_kept
    | split
    | dsimp only
    | with_reducible apply Kept.mem_bytes
    | with_reducible apply Kept.wmem_bytes
    | with_reducible apply Kept.wmem_words
    | with_reducible apply Kept.wmem_word
    | with_reducible apply Kept.mk_other

theorem repeatGroup_kept {q : List Instr} {g : Fin 32} {s : State} (h : Kept q s) : Kept q (repeatGroup s g) := by
  unfold repeatGroup
  repeat' first
    | with_reducible assumption
    | intro _
    | with_reducible apply assertSource_kept
    | with_reducible apply forAll_kept
    | with_reducible apply incf_kept
    | with_reducible apply when_kept
    | with_reducible apply folEvent_kept
    | with_reducible apply updGrp_kept
    | with_reducible apply updAx_kept
    | with_reducible apply wrb_kept
    | with_reducible apply ite_kept
    | split
    | dsimp only

theorem waveRelease_kept {q : List Instr}  {s : State} (h : Kept q s) : Kept q (waveRelease s) := by
  unfold waveRelease
  repeat' first
    | with_reducible assumption
    | intro _
    | with_reducible apply forAll_kept
    | with_reducible apply repeatGroup_kept
    | with_reducible apply when_kept
    | with_reducible apply showInfl_kept
    | with_reducible apply updAx_kept
    | with_reducible apply ite_kept
    | split
    | dsimp only
    | with_reducible apply Kept.mem_bytes
    | with_reducible apply Kept.wmem_bytes
    | with_reducible apply Kept.wmem_words
    | with_reducible apply Kept.wmem_word
    | with_reducible apply Kept.mk_other

theorem slackClear_kept {q : List Instr}  {s : State} (h : Kept q s) : Kept q (slackClear s) := by
  unfold slackClear
  repeat' first
    | with_reducible assumption
    | intro _
    | with_reducible apply wrf_kept
    | with_reducible apply forAll_kept
    | with_reducible apply wr_kept
    | with_reducible apply ite_kept
    | split
    | dsimp only

end Sys2Proof.Machine
end

