-- ==== Sys2Proof/Laws/KeptPlenil.lean ====
section
/-! SUPPORT. What is kept (`Kept`) by each function of Machine/PlenilFrames.lean, Machine/Banks.lean, Machine/Plenil.lean. -/

namespace Sys2Proof.Machine

theorem updPln_kept {q : List Instr} {f : Pln → Pln} {s : State} (h : Kept q s) : Kept q (updPln s f) := by
  unfold updPln
  repeat' first
    | with_reducible assumption
    | intro _
    | with_reducible apply ite_kept
    | split
    | dsimp only
    | with_reducible apply Kept.mem_bytes
    | with_reducible apply Kept.wmem_bytes
    | with_reducible apply Kept.wmem_words
    | with_reducible apply Kept.wmem_word
    | with_reducible apply Kept.mk_other

theorem updCh_kept {q : List Instr} {c : Bool} {f : ChSt → ChSt} {s : State} (h : Kept q s) : Kept q (updCh s c f) := by
  unfold updCh
  repeat' first
    | with_reducible assumption
    | intro _
    | with_reducible apply updPln_kept
    | with_reducible apply ite_kept
    | split
    | dsimp only

theorem updPort_kept {q : List Instr} {p : Fin 4} {f : PortSt → PortSt} {s : State} (h : Kept q s) : Kept q (updPort s p f) := by
  unfold updPort
  repeat' first
    | with_reducible assumption
    | intro _
    | with_reducible apply updPln_kept
    | with_reducible apply ite_kept
    | split
    | dsimp only

theorem updNode_kept {q : List Instr} {n : Fin 256} {f : NodeSt → NodeSt} {s : State} (h : Kept q s) : Kept q (updNode s n f) := by
  unfold updNode
  repeat' first
    | with_reducible assumption
    | intro _
    | with_reducible apply updPln_kept
    | with_reducible apply ite_kept
    | split
    | dsimp only

theorem bankEnd_kept {q : List Instr} {g : Fin 32} {q0 : BankReq} {r : Nat} {s : State} (h : Kept q s) : Kept q (bankEnd s g q0 r) := by
  unfold bankEnd
  repeat' first
    | with_reducible assumption
    | intro _
    | with_reducible apply wrf_kept
    | with_reducible apply answer_kept
    | with_reducible apply updGrp_kept
    | with_reducible apply wrb_kept
    | with_reducible apply ite_kept
    | split
    | dsimp only

theorem bankRequest_kept {q : List Instr} {g : Fin 32} {target : Bool} {atSwitch : Bool} {src : ReqSrc} {s : State} (h : Kept q s) : Kept q (bankRequest s g target atSwitch src) := by
  unfold bankRequest
  repeat' first
    | with_reducible assumption
    | intro _
    | with_reducible apply bankEnd_kept
    | with_reducible apply updGrp_kept
    | with_reducible apply wrb_kept
    | with_reducible apply ite_kept
    | split
    | dsimp only

theorem setBankReady_kept {q : List Instr} {n : Fin 256} {b : Bool} {v : Bool} {s : State} (h : Kept q s) : Kept q (setBankReady s n b v) := by
  unfold setBankReady
  repeat' first
    | with_reducible assumption
    | intro _
    | with_reducible apply wrb_kept
    | with_reducible apply ite_kept
    | split
    | dsimp only

theorem setLoad_kept {q : List Instr} {n : Fin 256} {v : Nat} {s : State} (h : Kept q s) : Kept q (setLoad s n v) := by
  unfold setLoad
  repeat' first
    | with_reducible assumption
    | intro _
    | with_reducible apply wrf_kept
    | with_reducible apply ite_kept
    | split
    | dsimp only

theorem bankDecide_kept {q : List Instr} {g : Fin 32} {q0 : BankReq} {s : State} (h : Kept q s) : Kept q (bankDecide s g q0) := by
  unfold bankDecide
  repeat' first
    | with_reducible assumption
    | intro _
    | with_reducible apply forAll_kept
    | with_reducible apply incf_kept
    | with_reducible apply bankEnd_kept
    | with_reducible apply wrb_kept
    | with_reducible apply ite_kept
    | split
    | dsimp only

theorem bankSwaps_kept {q : List Instr}  {s : State} (h : Kept q s) : Kept q (bankSwaps s) := by
  unfold bankSwaps
  repeat' first
    | with_reducible assumption
    | intro _
    | with_reducible apply forAll_kept
    | with_reducible apply bankDecide_kept
    | with_reducible apply ite_kept
    | split
    | dsimp only

theorem bankAbandon_kept {q : List Instr}  {s : State} (h : Kept q s) : Kept q (bankAbandon s) := by
  unfold bankAbandon
  repeat' first
    | with_reducible assumption
    | intro _
    | with_reducible apply forAll_kept
    | with_reducible apply bankEnd_kept
    | with_reducible apply ite_kept
    | split
    | dsimp only

theorem bankBoundary_kept {q : List Instr}  {s : State} (h : Kept q s) : Kept q (bankBoundary s) := by
  unfold bankBoundary
  repeat' first
    | with_reducible assumption
    | intro _
    | with_reducible apply forAll_kept
    | with_reducible apply updGrp_kept
    | with_reducible apply ite_kept
    | split
    | dsimp only

theorem updLoads_kept {q : List Instr} {f : List BankLoad → List BankLoad} {s : State} (h : Kept q s) : Kept q (updLoads s f) := by
  unfold updLoads
  repeat' first
    | with_reducible assumption
    | intro _
    | with_reducible apply ite_kept
    | split
    | dsimp only
    | with_reducible apply Kept.mem_bytes
    | with_reducible apply Kept.wmem_bytes
    | with_reducible apply Kept.wmem_words
    | with_reducible apply Kept.wmem_word
    | with_reducible apply Kept.mk_other

theorem loadEnd_kept {q : List Instr} {l : BankLoad} {v : Nat} {result : Nat} {s : State} (h : Kept q s) : Kept q (loadEnd s l v result) := by
  unfold loadEnd
  repeat' first
    | with_reducible assumption
    | intro _
    | with_reducible apply setLoad_kept
    | with_reducible apply answer_kept
    | with_reducible apply ite_kept
    | split
    | dsimp only

theorem loadOffer_kept {q : List Instr} {l : BankLoad} {s : State} (h : Kept q s) : Kept q (loadOffer s l).1 := by
  unfold loadOffer
  repeat' first
    | with_reducible assumption
    | intro _
    | with_reducible apply loadEnd_kept
    | with_reducible apply setLoad_kept
    | with_reducible apply setBankReady_kept
    | split
    | dsimp only

theorem loadOffer_keptE {q : List Instr} {l : BankLoad} {s tR : State} {xR : Option BankLoad} (h : Kept q s) (hE : loadOffer s l = (tR, xR)) : Kept q tR := by
  have := loadOffer_kept (q := q) (l := l) h
  rw [hE] at this
  exact this

theorem loadCheck_kept {q : List Instr} {l : BankLoad} {s : State} (h : Kept q s) : Kept q (loadCheck s l) := by
  unfold loadCheck
  repeat' first
    | with_reducible assumption
    | intro _
    | with_reducible apply loadEnd_kept
    | with_reducible apply setBankReady_kept
    | with_reducible apply ite_kept
    | split
    | dsimp only

theorem bankLoads_kept {q : List Instr}  {s : State} (h : Kept q s) : Kept q (bankLoads s) := by
  unfold bankLoads
  repeat' first
    | with_reducible assumption
    | intro _
    | with_reducible apply updLoads_kept
    | with_reducible apply forAll_kept
    | with_reducible apply loadOffer_kept
    | with_reducible apply loadCheck_kept
    | with_reducible apply ite_kept
    | split
    | dsimp only
    | (refine loadOffer_keptE ?_ (by assumption))

theorem loadWord_kept {q : List Instr} {n : Fin 256} {b : Bool} {fixed : Bool} {s : State} (h : Kept q s) : Kept q (loadWord s n b fixed) := by
  unfold loadWord
  repeat' first
    | with_reducible assumption
    | intro _
    | with_reducible apply updLoads_kept
    | with_reducible apply corrected_kept
    | with_reducible apply mwr16_kept
    | with_reducible apply ite_kept
    | split
    | dsimp only

theorem loadRequest_kept {q : List Instr} {n : Fin 256} {b : Bool} {addr : Word} {src : ReqSrc} {s : State} (h : Kept q s) : Kept q (loadRequest s n b addr src) := by
  unfold loadRequest
  repeat' first
    | with_reducible assumption
    | intro _
    | with_reducible apply updLoads_kept
    | with_reducible apply ite_kept
    | split
    | dsimp only

theorem setNodeBit_kept {q : List Instr} {n : Fin 256} {i : Nat} {b : Bool} {s : State} (h : Kept q s) : Kept q (setNodeBit s n i b) := by
  unfold setNodeBit
  repeat' first
    | with_reducible assumption
    | intro _
    | with_reducible apply wrb_kept
    | with_reducible apply ite_kept
    | split
    | dsimp only

theorem forAxes_kept {q : List Instr} {n : Fin 256} {f : AxisSt → AxisSt} {s : State} (h : Kept q s) : Kept q (forAxes s n f) := by
  unfold forAxes
  repeat' first
    | with_reducible assumption
    | intro _
    | with_reducible apply forAll_kept
    | with_reducible apply updAx_kept
    | with_reducible apply ite_kept
    | split
    | dsimp only

theorem lossSources_kept {q : List Instr} {n : Fin 256} {s : State} (h : Kept q s) : Kept q (lossSources s n) := by
  unfold lossSources
  repeat' first
    | with_reducible assumption
    | intro _
    | with_reducible apply forAll_kept
    | with_reducible apply setCond_kept
    | with_reducible apply ite_kept
    | split
    | dsimp only

theorem nodeLoss_kept {q : List Instr} {n : Fin 256} {s : State} (h : Kept q s) : Kept q (nodeLoss s n) := by
  unfold nodeLoss
  repeat' first
    | with_reducible assumption
    | intro _
    | with_reducible apply setNodeBit_kept
    | with_reducible apply forAxes_kept
    | with_reducible apply lossSources_kept
    | with_reducible apply ite_kept
    | split
    | dsimp only

theorem lossEnds_kept {q : List Instr} {n : Fin 256} {s : State} (h : Kept q s) : Kept q (lossEnds s n) := by
  unfold lossEnds
  repeat' first
    | with_reducible assumption
    | intro _
    | with_reducible apply setNodeBit_kept
    | with_reducible apply forAxes_kept
    | with_reducible apply lossSources_kept
    | with_reducible apply ite_kept
    | split
    | dsimp only

theorem resumeNode_kept {q : List Instr} {n : Fin 256} {s : State} (h : Kept q s) : Kept q (resumeNode s n) := by
  unfold resumeNode
  repeat' first
    | with_reducible assumption
    | intro _
    | with_reducible apply lossEnds_kept
    | with_reducible apply wrb_kept
    | with_reducible apply ite_kept
    | split
    | dsimp only

theorem nodeFreeze_kept {q : List Instr} {n : Fin 256} {s : State} (h : Kept q s) : Kept q (nodeFreeze s n) := by
  unfold nodeFreeze
  repeat' first
    | with_reducible assumption
    | intro _
    | with_reducible apply wrf_kept
    | with_reducible apply setNodeBit_kept
    | with_reducible apply when_kept
    | with_reducible apply nodeLoss_kept
    | with_reducible apply updNode_kept
    | with_reducible apply ite_kept
    | split
    | dsimp only

theorem edgeViolation_kept {q : List Instr} {n : Fin 256} {s : State} (h : Kept q s) : Kept q (edgeViolation s n) := by
  unfold edgeViolation
  repeat' first
    | with_reducible assumption
    | intro _
    | with_reducible apply incf_kept
    | with_reducible apply setNodeBit_kept
    | with_reducible apply updNode_kept
    | with_reducible apply ite_kept
    | split
    | dsimp only

theorem lateFrame_kept {q : List Instr}  {s : State} (h : Kept q s) : Kept q (lateFrame s) := by
  unfold lateFrame
  repeat' first
    | with_reducible assumption
    | intro _
    | with_reducible apply incf_kept
    | with_reducible apply ite_kept
    | split
    | dsimp only

theorem queueTodo_kept {q : List Instr} {n : Fin 256} {l : List (AcycOwner × Byte × List Byte)} {s : State} (h : Kept q s) : Kept q (queueTodo s n l) := by
  unfold queueTodo
  repeat' first
    | with_reducible assumption
    | intro _
    | with_reducible apply updNode_kept
    | with_reducible apply ite_kept
    | split
    | dsimp only

theorem writeOthers_kept {q : List Instr} {n : Fin 256} {s : State} (h : Kept q s) : Kept q (writeOthers s n) := by
  unfold writeOthers
  repeat' first
    | with_reducible assumption
    | intro _
    | with_reducible apply forAll_kept
    | with_reducible apply queueTodo_kept
    | with_reducible apply ite_kept
    | split
    | dsimp only

theorem startCmd_kept {q : List Instr} {n : Fin 256} {owner : AcycOwner} {op : Byte} {la : Byte} {data : List Byte} {s : State} (h : Kept q s) : Kept q (startCmd s n owner op la data) := by
  unfold startCmd
  repeat' first
    | with_reducible assumption
    | intro _
    | with_reducible apply updNode_kept
    | with_reducible apply ite_kept
    | split
    | dsimp only

theorem issueTodo_kept {q : List Instr} {n : Fin 256} {s : State} (h : Kept q s) : Kept q (issueTodo s n) := by
  unfold issueTodo
  repeat' first
    | with_reducible assumption
    | intro _
    | with_reducible apply startCmd_kept
    | with_reducible apply updNode_kept
    | with_reducible apply ite_kept
    | split
    | dsimp only

theorem ringAdvance_kept {q : List Instr} {n : Fin 4} (k : Nat) : ∀ {s : State}, Kept q s → Kept q (ringAdvance n k s) := by
  induction k with
  | zero => exact fun h => h
  | succ k ih =>
    intro s h
    unfold ringAdvance
    dsimp only
    split
    · exact ih (wrf_kept (updPln_kept h))
    · exact h

theorem ringEnd_kept {q : List Instr} {q0 : Fin 4} {i : Nat} {result : Nat} {tag : Half} {s : State} (h : Kept q s) : Kept q (ringEnd s q0 i result tag) := by
  unfold ringEnd
  repeat' first
    | with_reducible assumption
    | intro _
    | with_reducible apply ringAdvance_kept
    | with_reducible apply mwr32_kept
    | with_reducible apply when_kept
    | with_reducible apply updPln_kept
    | with_reducible apply ite_kept
    | split
    | dsimp only

theorem ringTake1_kept {q : List Instr} {n : Fin 4} {s t : State} (h : Kept q s) (e : ringTake1 s n = some t) : Kept q t := by
  unfold ringTake1 at e
  dsimp only at e
  repeat' split at e
  · cases e
  · cases e; exact ringEnd_kept (wrb_kept h)
  · cases e; exact ringEnd_kept h
  · cases e
  · cases e; exact startCmd_kept h

theorem ringTake_kept {q : List Instr} {n : Fin 4} (k : Nat) : ∀ {s : State}, Kept q s → Kept q (ringTake n k s) := by
  induction k with
  | zero => exact fun h => h
  | succ k ih =>
    intro s h
    unfold ringTake
    split
    · rename_i t e
      exact ih (ringTake1_kept h e)
    · exact h

theorem ringsTake_kept {q : List Instr}  {s : State} (h : Kept q s) : Kept q (ringsTake s) := by
  unfold ringsTake
  repeat' first
    | with_reducible assumption
    | intro _
    | with_reducible apply forAll_kept
    | with_reducible apply ringTake_kept
    | with_reducible apply ite_kept
    | split
    | dsimp only

theorem joinFail_kept {q : List Instr} {n : Fin 256} {s : State} (h : Kept q s) : Kept q (joinFail s n) := by
  unfold joinFail
  repeat' first
    | with_reducible assumption
    | intro _
    | with_reducible apply wrf_kept
    | with_reducible apply setNodeBit_kept
    | with_reducible apply updNode_kept
    | with_reducible apply ite_kept
    | split
    | dsimp only

theorem acycDone_kept {q : List Instr} {n : Fin 256} {k : AcycCmd} {result : Nat} {data : List Byte} {s : State} (h : Kept q s) : Kept q (acycDone s n k result data) := by
  unfold acycDone
  repeat' first
    | with_reducible assumption
    | intro _
    | with_reducible apply ringsTake_kept
    | with_reducible apply issueTodo_kept
    | with_reducible apply when_kept
    | with_reducible apply joinFail_kept
    | with_reducible apply ringEnd_kept
    | with_reducible apply updNode_kept
    | with_reducible apply ite_kept
    | split
    | dsimp only
    | with_reducible apply Kept.mem_bytes
    | with_reducible apply Kept.wmem_bytes
    | with_reducible apply Kept.wmem_words
    | with_reducible apply Kept.wmem_word
    | with_reducible apply Kept.mk_other

theorem acycFail_kept {q : List Instr} {n : Fin 256} {k : AcycCmd} {s : State} (h : Kept q s) : Kept q (acycFail s n k) := by
  unfold acycFail
  repeat' first
    | with_reducible assumption
    | intro _
    | with_reducible apply ringsTake_kept
    | with_reducible apply acycDone_kept
    | with_reducible apply setNodeBit_kept
    | with_reducible apply updNode_kept
    | with_reducible apply ite_kept
    | split
    | dsimp only

theorem acycResend_kept {q : List Instr} {n : Fin 256} {s : State} (h : Kept q s) : Kept q (acycResend s n) := by
  unfold acycResend
  repeat' first
    | with_reducible assumption
    | intro _
    | with_reducible apply acycFail_kept
    | with_reducible apply updNode_kept
    | with_reducible apply ite_kept
    | split
    | dsimp only

theorem acycBusyResend_kept {q : List Instr} {n : Fin 256} {s : State} (h : Kept q s) : Kept q (acycBusyResend s n) := by
  unfold acycBusyResend
  repeat' first
    | with_reducible assumption
    | intro _
    | with_reducible apply updNode_kept
    | with_reducible apply ite_kept
    | split
    | dsimp only

theorem acycResponse_kept {q : List Instr} {c : Bool} {f : RxFrame} {s : State} (h : Kept q s) : Kept q (acycResponse s c f) := by
  unfold acycResponse
  repeat' first
    | with_reducible assumption
    | intro _
    | with_reducible apply acycFail_kept
    | with_reducible apply lateFrame_kept
    | with_reducible apply acycDone_kept
    | with_reducible apply updNode_kept
    | with_reducible apply ite_kept
    | split
    | dsimp only

theorem joinRequest_kept {q : List Instr} {c : Bool} {f : RxFrame} {s : State} (h : Kept q s) : Kept q (joinRequest s c f) := by
  unfold joinRequest
  repeat' first
    | with_reducible assumption
    | intro _
    | with_reducible apply lateFrame_kept
    | with_reducible apply updPln_kept
    | with_reducible apply ite_kept
    | split
    | dsimp only

theorem putGrant_kept {q : List Instr} {r : JoinReq} {id : Nat} {result : Nat} {slot : Nat} {inst : AB (Option Nat)} {axes : List (Fin 256)} {s : State} (h : Kept q s) : Kept q (putGrant s r id result slot inst axes) := by
  unfold putGrant
  repeat' first
    | with_reducible assumption
    | intro _
    | with_reducible apply wrf_kept
    | with_reducible apply updPln_kept
    | with_reducible apply ite_kept
    | split
    | dsimp only

theorem grantNode_kept {q : List Instr} {r : JoinReq} {n : Fin 256} {slots : List (Fin 8 × Nat)} {s : State} (h : Kept q s) : Kept q (grantNode s r n slots) := by
  unfold grantNode
  repeat' first
    | with_reducible assumption
    | intro _
    | with_reducible apply queueTodo_kept
    | with_reducible apply issueTodo_kept
    | with_reducible apply setNodeBit_kept
    | with_reducible apply updNode_kept
    | with_reducible apply ite_kept
    | split
    | dsimp only

theorem decideJoin_kept {q : List Instr} {r : JoinReq} {s : State} (h : Kept q s) : Kept q (decideJoin s r).1 := by
  unfold decideJoin
  repeat' first
    | with_reducible assumption
    | intro _
    | with_reducible apply putGrant_kept
    | with_reducible apply grantNode_kept
    | split
    | dsimp only

theorem decideJoin_keptE {q : List Instr} {r : JoinReq} {s tR : State} {xR : Bool} (h : Kept q s) (hE : decideJoin s r = (tR, xR)) : Kept q tR := by
  have := decideJoin_kept (q := q) (r := r) h
  rw [hE] at this
  exact this

theorem decideJoins_kept {q : List Instr} (l : List JoinReq) :
    ∀ {k : Nat} {s : State}, Kept q s → Kept q (decideJoins l k s) := by
  induction l with
  | nil => exact fun h => h
  | cons r l ih =>
    intro k s h
    unfold decideJoins
    split
    · exact h
    · exact ih (decideJoin_kept h)

theorem joinDecision_kept {q : List Instr}  {s : State} (h : Kept q s) : Kept q (joinDecision s) := by
  unfold joinDecision
  repeat' first
    | with_reducible assumption
    | intro _
    | with_reducible apply forAll_kept
    | with_reducible apply updPln_kept
    | with_reducible apply decideJoins_kept
    | with_reducible apply updNode_kept
    | with_reducible apply ite_kept
    | split
    | dsimp only

theorem removeMember_kept {q : List Instr} {n : Fin 256} {s : State} (h : Kept q s) : Kept q (removeMember s n) := by
  unfold removeMember
  repeat' first
    | with_reducible assumption
    | intro _
    | with_reducible apply queueTodo_kept
    | with_reducible apply issueTodo_kept
    | with_reducible apply setNodeBit_kept
    | with_reducible apply forAxes_kept
    | with_reducible apply ite_kept
    | split
    | dsimp only

theorem removeNode_kept {q : List Instr} {n : Fin 256} {s : State} (h : Kept q s) : Kept q (removeNode s n) := by
  unfold removeNode
  repeat' first
    | with_reducible assumption
    | intro _
    | with_reducible apply removeMember_kept
    | with_reducible apply updNode_kept
    | with_reducible apply wrb_kept
    | with_reducible apply ite_kept
    | split
    | dsimp only

theorem endMember_kept {q : List Instr} {n : Fin 256} {s : State} (h : Kept q s) : Kept q (endMember s n) := by
  unfold endMember
  repeat' first
    | with_reducible assumption
    | intro _
    | with_reducible apply ringsTake_kept
    | with_reducible apply setNodeBit_kept
    | with_reducible apply when_kept
    | with_reducible apply forAxes_kept
    | with_reducible apply wr_kept
    | with_reducible apply lossEnds_kept
    | with_reducible apply ringEnd_kept
    | with_reducible apply updNode_kept
    | with_reducible apply ite_kept
    | split
    | dsimp only

theorem beginMember_kept {q : List Instr} {n : Fin 256} {s : State} (h : Kept q s) : Kept q (beginMember s n) := by
  unfold beginMember
  repeat' first
    | with_reducible assumption
    | intro _
    | with_reducible apply wrf_kept
    | with_reducible apply incf_kept
    | with_reducible apply issueTodo_kept
    | with_reducible apply setNodeBit_kept
    | with_reducible apply when_kept
    | with_reducible apply joinFail_kept
    | with_reducible apply forAxes_kept
    | with_reducible apply writeOthers_kept
    | with_reducible apply removeMember_kept
    | with_reducible apply updNode_kept
    | with_reducible apply ite_kept
    | split
    | dsimp only

theorem retime_kept {q : List Instr} {n : Fin 256} {s : State} (h : Kept q s) : Kept q (retime s n) := by
  unfold retime
  repeat' first
    | with_reducible assumption
    | intro _
    | with_reducible apply issueTodo_kept
    | with_reducible apply updPln_kept
    | with_reducible apply writeOthers_kept
    | with_reducible apply updNode_kept
    | with_reducible apply ite_kept
    | split
    | dsimp only

theorem membersPage_kept {q : List Instr}  {s : State} (h : Kept q s) : Kept q (membersPage s) := by
  unfold membersPage
  repeat' first
    | with_reducible assumption
    | intro _
    | with_reducible apply wrf_kept
    | with_reducible apply retime_kept
    | with_reducible apply forAll_kept
    | with_reducible apply updPln_kept
    | with_reducible apply beginMember_kept
    | with_reducible apply endMember_kept
    | with_reducible apply ite_kept
    | split
    | dsimp only

theorem joinQsClears_kept {q : List Instr}  {s : State} (h : Kept q s) : Kept q (joinQsClears s) := by
  unfold joinQsClears
  repeat' first
    | with_reducible assumption
    | intro _
    | with_reducible apply forAll_kept
    | with_reducible apply when_kept
    | with_reducible apply forAxes_kept
    | with_reducible apply ite_kept
    | split
    | dsimp only

theorem swResult_kept {q : List Instr} {r : Nat} {s : State} (h : Kept q s) : Kept q (swResult s r) := by
  unfold swResult
  repeat' first
    | with_reducible assumption
    | intro _
    | with_reducible apply wrf_kept
    | with_reducible apply ite_kept
    | split
    | dsimp only

theorem swPhase_kept {q : List Instr} {p : Nat} {s : State} (h : Kept q s) : Kept q (swPhase s p) := by
  unfold swPhase
  repeat' first
    | with_reducible assumption
    | intro _
    | with_reducible apply wrf_kept
    | with_reducible apply ite_kept
    | split
    | dsimp only

theorem switchRequest_kept {q : List Instr} {k : Fin 8} {src : ReqSrc} {s : State} (h : Kept q s) : Kept q (switchRequest s k src) := by
  unfold switchRequest
  repeat' first
    | with_reducible assumption
    | intro _
    | with_reducible apply swResult_kept
    | with_reducible apply swPhase_kept
    | with_reducible apply updPln_kept
    | with_reducible apply answer_kept
    | with_reducible apply hstIrq_kept
    | with_reducible apply ite_kept
    | split
    | dsimp only

theorem setSw_kept {q : List Instr} {w : Option SwitchSt} {s : State} (h : Kept q s) : Kept q (setSw s w) := by
  unfold setSw
  repeat' first
    | with_reducible assumption
    | intro _
    | with_reducible apply updPln_kept
    | with_reducible apply ite_kept
    | split
    | dsimp only

theorem switchSettle_kept {q : List Instr}  {s : State} (h : Kept q s) : Kept q (switchSettle s) := by
  unfold switchSettle
  repeat' first
    | with_reducible assumption
    | intro _
    | with_reducible apply wrf_kept
    | with_reducible apply swResult_kept
    | with_reducible apply swPhase_kept
    | with_reducible apply raiseEvent_kept
    | with_reducible apply when_kept
    | with_reducible apply bankAbandon_kept
    | with_reducible apply answer_kept
    | with_reducible apply hstIrq_kept
    | with_reducible apply setSw_kept
    | with_reducible apply ite_kept
    | split
    | dsimp only

theorem switchBoundary_kept {q : List Instr} {w : SwitchSt} {s : State} (h : Kept q s) : Kept q (switchBoundary s w) := by
  unfold switchBoundary
  repeat' first
    | with_reducible assumption
    | intro _
    | with_reducible apply wrf_kept
    | with_reducible apply forAll_kept
    | with_reducible apply swPhase_kept
    | with_reducible apply bankBoundary_kept
    | with_reducible apply endMember_kept
    | with_reducible apply setSw_kept
    | with_reducible apply ite_kept
    | split
    | dsimp only

theorem switchPage_kept {q : List Instr}  {s : State} (h : Kept q s) : Kept q (switchPage s) := by
  unfold switchPage
  repeat' first
    | with_reducible assumption
    | intro _
    | with_reducible apply forAll_kept
    | with_reducible apply swPhase_kept
    | with_reducible apply setSw_kept
    | with_reducible apply updNode_kept
    | with_reducible apply ite_kept
    | split
    | dsimp only

theorem axisRecord_kept {q : List Instr} {n : Fin 256} {unlocked : Bool} {r : List Byte} {s : State} (h : Kept q s) : Kept q (axisRecord s n unlocked r) := by
  unfold axisRecord
  repeat' first
    | with_reducible assumption
    | intro _
    | with_reducible apply assertSource_kept
    | with_reducible apply when_kept
    | with_reducible apply updAx_kept
    | with_reducible apply ite_kept
    | split
    | dsimp only

theorem axisRecords_kept {q : List Instr} {n : Fin 256} {u : Bool} (k : Nat) :
    ∀ {b : List Byte} {s : State}, Kept q s → Kept q (axisRecords n u k b s) := by
  induction k with
  | zero => exact fun h => h
  | succ k ih => exact fun h => ih (axisRecord_kept h)

theorem uplinkAccept_kept {q : List Instr} {c : Bool} {n : Fin 256} {b : List Byte} {s : State} (h : Kept q s) : Kept q (uplinkAccept s c n b) := by
  unfold uplinkAccept
  repeat' first
    | with_reducible assumption
    | intro _
    | with_reducible apply setNodeBit_kept
    | with_reducible apply when_kept
    | with_reducible apply axisRecords_kept
    | with_reducible apply updNode_kept
    | with_reducible apply ite_kept
    | split
    | dsimp only

theorem uplinkFits_kept {q : List Instr} {c : Bool} {n : Fin 256} {b : List Byte} {x : SlotFit} {s : State}
    (h : Kept q s) : Kept q (uplinkFits s c n b x) := by
  cases x with
  | inside => exact uplinkAccept_kept h
  | early => exact edgeViolation_kept h
  | late => exact ite_kept h (edgeViolation_kept h)

theorem uplinkSlot_kept {q : List Instr} {c : Bool} {n : Fin 256} {b : List Byte} {x : Option ScrSlot} {s : State}
    (h : Kept q s) : Kept q (uplinkSlot s c n b x) := by
  cases x with
  | some t => exact uplinkFits_kept h
  | none => exact h

theorem uplink_kept {q : List Instr} {c : Bool} {f : RxFrame} {s : State} (h : Kept q s) : Kept q (uplink s c f) := by
  unfold uplink
  repeat' first
    | with_reducible assumption
    | intro _
    | with_reducible apply uplinkSlot_kept
    | with_reducible apply ite_kept
    | split
    | dsimp only

theorem viewCopy_kept {q : List Instr}  {s : State} (h : Kept q s) : Kept q (viewCopy s) := by
  unfold viewCopy
  repeat' first
    | with_reducible assumption
    | intro _
    | with_reducible apply ite_kept
    | split
    | dsimp only
    | with_reducible apply Kept.mem_bytes
    | with_reducible apply Kept.wmem_bytes
    | with_reducible apply Kept.wmem_words
    | with_reducible apply Kept.wmem_word
    | with_reducible apply Kept.mk_other

theorem viewPublish_kept {q : List Instr}  {s : State} (h : Kept q s) : Kept q (viewPublish s) := by
  unfold viewPublish
  repeat' first
    | with_reducible assumption
    | intro _
    | with_reducible apply wr_kept
    | with_reducible apply ite_kept
    | split
    | dsimp only

end Sys2Proof.Machine
end

