-- ==== Sys2Proof/Laws/KeptFeedback.lean ====
section
/-! SUPPORT. What is kept (`Kept`) by each function of Machine/Feedback.lean, Machine/Mailbox.lean, Machine/Redundancy.lean, Machine/NetTime.lean. -/

namespace Sys2Proof.Machine

theorem updLf_kept {q : List Instr} {n : Fin 8} {f : LfCh → LfCh} {s : State} (h : Kept q s) : Kept q (updLf s n f) := by
  unfold updLf
  repeat' first
    | with_reducible assumption
    | intro _
    | with_reducible apply ite_kept
    | split
    | dsimp only
    | with_reducible apply Kept.mem_bytes
    | with_reducible apply Kept.wmem_bytes
    | with_reducible apply Kept.wmem_words
    | with_reducible apply Kept.wmem_word
    | with_reducible apply Kept.mk_other

theorem lfTrack_kept {q : List Instr} {n : Fin 8} {s : State} (h : Kept q s) : Kept q (lfTrack s n) := by
  unfold lfTrack
  repeat' first
    | with_reducible assumption
    | intro _
    | with_reducible apply updLf_kept
    | with_reducible apply wrb_kept
    | with_reducible apply ite_kept
    | split
    | dsimp only

theorem lfCount_kept {q : List Instr} {n : Fin 8} {d : Int} {s : State} (h : Kept q s) : Kept q (lfCount s n d) := by
  unfold lfCount
  repeat' first
    | with_reducible assumption
    | intro _
    | with_reducible apply lfTrack_kept
    | with_reducible apply updLf_kept
    | with_reducible apply ite_kept
    | split
    | dsimp only

theorem lfFault_kept {q : List Instr} {n : Fin 8} {cause : Nat} {s : State} (h : Kept q s) : Kept q (lfFault s n cause) := by
  unfold lfFault
  repeat' first
    | with_reducible assumption
    | intro _
    | with_reducible apply wrf_kept
    | with_reducible apply assertSource_kept
    | with_reducible apply ite_kept
    | split
    | dsimp only

theorem lfIllPage_kept {q : List Instr} {n : Fin 8} {s : State} (h : Kept q s) : Kept q (lfIllPage s n) := by
  unfold lfIllPage
  repeat' first
    | with_reducible assumption
    | intro _
    | with_reducible apply incf_kept
    | with_reducible apply lfFault_kept
    | with_reducible apply ite_kept
    | split
    | dsimp only

theorem lfIllegal_kept {q : List Instr} {n : Fin 8} {s : State} (h : Kept q s) : Kept q (lfIllegal s n) := by
  unfold lfIllegal
  repeat' first
    | with_reducible assumption
    | intro _
    | with_reducible apply incf_kept
    | with_reducible apply lfIllPage_kept
    | with_reducible apply wrb_kept
    | with_reducible apply ite_kept
    | split
    | dsimp only

theorem setLf_kept {q : List Instr} {n : Fin 8} {a : Bool} {b : Bool} {z : Bool} {s : State} (h : Kept q s) : Kept q (setLf s n a b z) := by
  unfold setLf
  repeat' first
    | with_reducible assumption
    | intro _
    | with_reducible apply ite_kept
    | split
    | dsimp only
    | with_reducible apply Kept.mem_bytes
    | with_reducible apply Kept.wmem_bytes
    | with_reducible apply Kept.wmem_words
    | with_reducible apply Kept.wmem_word
    | with_reducible apply Kept.mk_other

theorem sampleLines_kept {q : List Instr} {n : Nat} {s : State} (h : Kept q s) : Kept q (sampleLines s n) := by
  unfold sampleLines
  repeat' first
    | with_reducible assumption
    | intro _
    | with_reducible apply folSample_kept
    | with_reducible apply ite_kept
    | split
    | dsimp only

theorem quadrature_kept {q : List Instr} {n : Fin 8} {a : Bool} {b : Bool} {s : State} (h : Kept q s) : Kept q (quadrature s n a b) := by
  unfold quadrature
  repeat' first
    | with_reducible assumption
    | intro _
    | with_reducible apply lfIllegal_kept
    | with_reducible apply setLf_kept
    | with_reducible apply lfCount_kept
    | with_reducible apply sampleLines_kept
    | with_reducible apply ite_kept
    | split
    | dsimp only

theorem hall_kept {q : List Instr} {n : Fin 8} {code : BitVec 3} {s : State} (h : Kept q s) : Kept q (hall s n code) := by
  unfold hall
  repeat' first
    | with_reducible assumption
    | intro _
    | with_reducible apply wrf_kept
    | with_reducible apply incf_kept
    | with_reducible apply lfIllegal_kept
    | with_reducible apply lfIllPage_kept
    | with_reducible apply when_kept
    | with_reducible apply setLf_kept
    | with_reducible apply lfCount_kept
    | with_reducible apply sampleLines_kept
    | with_reducible apply wrb_kept
    | with_reducible apply ite_kept
    | split
    | dsimp only

theorem index_kept {q : List Instr} {n : Fin 8} {s : State} (h : Kept q s) : Kept q (index s n) := by
  unfold index
  repeat' first
    | with_reducible assumption
    | intro _
    | with_reducible apply wrf_kept
    | with_reducible apply incf_kept
    | with_reducible apply takeInt_kept
    | with_reducible apply lfTrack_kept
    | with_reducible apply setLf_kept
    | with_reducible apply lfFault_kept
    | with_reducible apply updLf_kept
    | with_reducible apply sampleLines_kept
    | with_reducible apply wrb_kept
    | with_reducible apply ite_kept
    | split
    | dsimp only
    | (refine takeInt_keptE ?_ (by assumption))

theorem setCk_kept {q : List Instr} {n : Fin 8} {b : Bool} {s : State} (h : Kept q s) : Kept q (setCk s n b) := by
  unfold setCk
  repeat' first
    | with_reducible assumption
    | intro _
    | with_reducible apply ite_kept
    | split
    | dsimp only
    | with_reducible apply Kept.mem_bytes
    | with_reducible apply Kept.wmem_bytes
    | with_reducible apply Kept.wmem_words
    | with_reducible apply Kept.wmem_word
    | with_reducible apply Kept.mk_other

theorem ssi_kept {q : List Instr} {n : Fin 8} {startLow : Bool} {raw : Word} {errBit : Bool} {s : State} (h : Kept q s) : Kept q (ssi s n startLow raw errBit) := by
  unfold ssi
  repeat' first
    | with_reducible assumption
    | intro _
    | with_reducible apply setCk_kept
    | with_reducible apply incf_kept
    | with_reducible apply lfTrack_kept
    | with_reducible apply lfFault_kept
    | with_reducible apply updLf_kept
    | with_reducible apply wrb_kept
    | with_reducible apply ite_kept
    | split
    | dsimp only

theorem stepLine_kept {q : List Instr} {n : Fin 8} {level : Bool} {b : Bool} {s : State} (h : Kept q s) : Kept q (stepLine s n level b) := by
  unfold stepLine
  repeat' first
    | with_reducible assumption
    | intro _
    | with_reducible apply when_kept
    | with_reducible apply setLf_kept
    | with_reducible apply updLf_kept
    | with_reducible apply lfCount_kept
    | with_reducible apply sampleLines_kept
    | with_reducible apply wrb_kept
    | with_reducible apply ite_kept
    | split
    | dsimp only

theorem ssiStart_kept {q : List Instr} {n : Fin 8} {s : State} (h : Kept q s) : Kept q (ssiStart s n) := by
  unfold ssiStart
  repeat' first
    | with_reducible assumption
    | intro _
    | with_reducible apply setCk_kept
    | with_reducible apply when_kept
    | with_reducible apply updLf_kept
    | with_reducible apply ite_kept
    | split
    | dsimp only

theorem lfEnable_kept {q : List Instr} {n : Fin 8} {s : State} (h : Kept q s) : Kept q (lfEnable s n) := by
  unfold lfEnable
  repeat' first
    | with_reducible assumption
    | intro _
    | with_reducible apply wrf_kept
    | with_reducible apply setCk_kept
    | with_reducible apply lfTrack_kept
    | with_reducible apply updLf_kept
    | with_reducible apply wrb_kept
    | with_reducible apply ite_kept
    | split
    | dsimp only

theorem lfModes_kept {q : List Instr}  {s : State} (h : Kept q s) : Kept q (lfModes old s) := by
  unfold lfModes
  repeat' first
    | with_reducible assumption
    | intro _
    | with_reducible apply forAll_kept
    | with_reducible apply lfEnable_kept
    | with_reducible apply ite_kept
    | split
    | dsimp only

theorem lfLatch_kept {q : List Instr} {n : Fin 8} {s : State} (h : Kept q s) : Kept q (lfLatch s n) := by
  unfold lfLatch
  repeat' first
    | with_reducible assumption
    | intro _
    | with_reducible apply updLf_kept
    | with_reducible apply wr_kept
    | with_reducible apply ssiStart_kept
    | with_reducible apply wrb_kept
    | with_reducible apply ite_kept
    | split
    | dsimp only

theorem nodeInstant_kept {q : List Instr}  {s : State} (h : Kept q s) : Kept q (nodeInstant s) := by
  unfold nodeInstant
  repeat' first
    | with_reducible assumption
    | intro _
    | with_reducible apply forAll_kept
    | with_reducible apply lfLatch_kept
    | with_reducible apply when_kept
    | with_reducible apply updDct_kept
    | with_reducible apply ite_kept
    | split
    | dsimp only

theorem lfPage_kept {q : List Instr}  {s : State} (h : Kept q s) : Kept q (lfPage s) := by
  unfold lfPage
  repeat' first
    | with_reducible assumption
    | intro _
    | with_reducible apply wrf_kept
    | with_reducible apply forAll_kept
    | with_reducible apply ite_kept
    | split
    | dsimp only

theorem lfClear_kept {q : List Instr} {v : Word} {s : State} (h : Kept q s) : Kept q (lfClear s v) := by
  unfold lfClear
  repeat' first
    | with_reducible assumption
    | intro _
    | with_reducible apply wrf_kept
    | with_reducible apply forAll_kept
    | with_reducible apply endCond_kept
    | with_reducible apply wrb_kept
    | with_reducible apply ite_kept
    | split
    | dsimp only

theorem capLevel_kept {q : List Instr} {n : Fin 16} {s : State} (h : Kept q s) : Kept q (capLevel s n) := by
  unfold capLevel
  repeat' first
    | with_reducible assumption
    | intro _
    | with_reducible apply wrf_kept
    | with_reducible apply ite_kept
    | split
    | dsimp only

theorem capPush_kept {q : List Instr} {n : Fin 16} {l : List Word} {s : State} (h : Kept q s) :
    Kept q (if 8 ≤ s.cap[n].fifo.length then wrb (incf s (Reg.CAP_STAT n) 16 8) (Reg.CAP_STAT n) 31 true
      else capLevel (updCap s n (fun k => { k with fifo := k.fifo ++ [l] })) n) := by
  split
  · exact wrb_kept (incf_kept h)
  · rename_i hn
    exact capLevel_kept (updCap_kept_at h (by rw [List.length_append]; exact Nat.succ_le_of_lt (Nat.lt_of_not_le hn)))

theorem captureEdge_kept {q : List Instr} {n : Fin 16} {t : Nat} {s : State} (h : Kept q s) :
    Kept q (captureEdge s n t) := by
  unfold captureEdge
  extract_lets
  with_reducible apply folEvent_kept
  with_reducible apply raiseEvent_kept
  with_reducible apply newInstant_kept
  with_reducible apply deliverCapture_kept
  refine updCap_kept ?_ (fun _ => Nat.le_refl _)
  with_reducible apply capPush_kept
  exact wr_kept (incf_kept (updCap_kept h (fun _ => Nat.le_refl _)))

theorem captureLine_kept {q : List Instr} {n : Fin 16} {level : Bool} {s : State} (h : Kept q s) : Kept q (captureLine s n level) := by
  unfold captureLine
  repeat' first
    | with_reducible assumption
    | intro _
    | with_reducible apply incf_kept
    | with_reducible apply captureEdge_kept
    | with_reducible apply sampleLines_kept
    | with_reducible apply ite_kept
    | split
    | dsimp only
    | with_reducible apply Kept.mem_bytes
    | with_reducible apply Kept.wmem_bytes
    | with_reducible apply Kept.wmem_words
    | with_reducible apply Kept.wmem_word
    | with_reducible apply Kept.mk_other

theorem capRemove_kept {q : List Instr} {n : Fin 16} {s : State} (h : Kept q s) : Kept q (capRemove s n) := by
  unfold capRemove
  repeat' first
    | with_reducible assumption
    | intro _
    | with_reducible apply capLevel_kept
    | with_reducible apply updCap_kept
    | exact Nat.le_refl _
    | rfl
    | exact List.length_filter_le _ _
    | exact Nat.zero_le _
    | (rw [List.length_tail]; exact Nat.sub_le _ _)
    | (rw [List.length_map]; assumption)
    | (dsimp only; assumption)
    | with_reducible apply ite_kept
    | split
    | dsimp only

theorem lfConvert_kept {q : List Instr} {d : Int} {s : State} (h : Kept q s) : Kept q (lfConvert s d) := by
  unfold lfConvert
  repeat' first
    | with_reducible assumption
    | intro _
    | with_reducible apply forAll_kept
    | with_reducible apply updCap_kept
    | with_reducible apply updSlot_kept
    | with_reducible apply updLf_kept
    | with_reducible apply updDct_kept
    | exact Nat.le_refl _
    | rfl
    | exact List.length_filter_le _ _
    | exact Nat.zero_le _
    | (rw [List.length_tail]; exact Nat.sub_le _ _)
    | (rw [List.length_map]; assumption)
    | (dsimp only; assumption)
    | with_reducible apply ite_kept
    | split
    | dsimp only

theorem lineChange_kept {q : List Instr} {lf : Bool} {idx : Fin 24} {level : Bool} {s : State} (h : Kept q s) : Kept q (lineChange s lf idx level) := by
  unfold lineChange
  repeat' first
    | with_reducible assumption
    | intro _
    | with_reducible apply setLf_kept
    | with_reducible apply sampleLines_kept
    | with_reducible apply ite_kept
    | split
    | dsimp only
    | with_reducible apply Kept.mem_bytes
    | with_reducible apply Kept.wmem_bytes
    | with_reducible apply Kept.wmem_words
    | with_reducible apply Kept.wmem_word
    | with_reducible apply Kept.mk_other

theorem putMailbox_kept {q : List Instr} {m : Master} {b : Mailbox} {s : State} (h : Kept q s) : Kept q (putMailbox s m b) := by
  unfold putMailbox
  repeat' first
    | with_reducible assumption
    | intro _
    | with_reducible apply updHst_kept
    | exact Nat.le_refl _
    | rfl
    | exact List.length_filter_le _ _
    | exact Nat.zero_le _
    | (rw [List.length_tail]; exact Nat.sub_le _ _)
    | (rw [List.length_map]; assumption)
    | (dsimp only; assumption)
    | with_reducible apply ite_kept
    | split
    | dsimp only

theorem mbSelect_kept {q : List Instr} {m : Master} {sel : Nat} {s : State} (h : Kept q s) : Kept q (mbSelect s m sel) := by
  unfold mbSelect
  repeat' first
    | with_reducible assumption
    | intro _
    | with_reducible apply putMailbox_kept
    | with_reducible apply wrb_kept
    | with_reducible apply ite_kept
    | split
    | dsimp only

theorem mbArrives_kept {q : List Instr} {m : Master} {s : State} (h : Kept q s) : Kept q (mbArrives s m) := by
  unfold mbArrives
  repeat' first
    | with_reducible assumption
    | intro _
    | with_reducible apply wrf_kept
    | with_reducible apply putMailbox_kept
    | with_reducible apply wrb_kept
    | with_reducible apply ite_kept
    | split
    | dsimp only

theorem mbRead_kept {q : List Instr} {m : Master} {i : Nat} {s : State} (h : Kept q s) : Kept q (mbRead s m i).2 := by
  unfold mbRead
  repeat' first
    | with_reducible assumption
    | intro _
    | with_reducible apply capRemove_kept
    | with_reducible apply putMailbox_kept
    | with_reducible apply when_kept
    | with_reducible apply wrb_kept
    | split
    | dsimp only

theorem mbRead_keptE {q : List Instr} {m : Master} {i : Nat} {s tR : State} {xR : Word} (h : Kept q s) (hE : mbRead s m i = (xR, tR)) : Kept q tR := by
  have := mbRead_kept (q := q) (m := m) (i := i) h
  rw [hE] at this
  exact this

theorem setPortState_kept {q : List Instr} {p : Fin 4} {v : Nat} {s : State} (h : Kept q s) : Kept q (setPortState s p v) := by
  unfold setPortState
  repeat' first
    | with_reducible assumption
    | intro _
    | with_reducible apply wrf_kept
    | with_reducible apply ite_kept
    | split
    | dsimp only

theorem setChState_kept {q : List Instr} {c : Bool} {v : Nat} {s : State} (h : Kept q s) : Kept q (setChState s c v) := by
  unfold setChState
  repeat' first
    | with_reducible assumption
    | intro _
    | with_reducible apply wrf_kept
    | with_reducible apply setCond_kept
    | with_reducible apply ite_kept
    | split
    | dsimp only

theorem wrapBegin_kept {q : List Instr} {c : Bool} {s : State} (h : Kept q s) : Kept q (wrapBegin s c) := by
  unfold wrapBegin
  repeat' first
    | with_reducible assumption
    | intro _
    | with_reducible apply assertSource_kept
    | with_reducible apply incf_kept
    | with_reducible apply setChState_kept
    | with_reducible apply when_kept
    | with_reducible apply updCh_kept
    | with_reducible apply wrb_kept
    | with_reducible apply ite_kept
    | split
    | dsimp only

theorem wrapEnd_kept {q : List Instr} {c : Bool} {s : State} (h : Kept q s) : Kept q (wrapEnd s c) := by
  unfold wrapEnd
  repeat' first
    | with_reducible assumption
    | intro _
    | with_reducible apply wrf_kept
    | with_reducible apply setChState_kept
    | with_reducible apply when_kept
    | with_reducible apply updCh_kept
    | with_reducible apply wrb_kept
    | with_reducible apply ite_kept
    | split
    | dsimp only

theorem wrapHeals_kept {q : List Instr} {c : Bool} {s : State} (h : Kept q s) : Kept q (wrapHeals s c) := by
  unfold wrapHeals
  repeat' first
    | with_reducible assumption
    | intro _
    | with_reducible apply wrapEnd_kept
    | with_reducible apply ite_kept
    | split
    | dsimp only

theorem wrapLeave_kept {q : List Instr} {c : Bool} {s : State} (h : Kept q s) : Kept q (wrapLeave s c) := by
  unfold wrapLeave
  repeat' first
    | with_reducible assumption
    | intro _
    | with_reducible apply wrapHeals_kept
    | with_reducible apply updCh_kept
    | with_reducible apply ite_kept
    | split
    | dsimp only

theorem portDown_kept {q : List Instr} {p : Fin 4} {s : State} (h : Kept q s) : Kept q (portDown s p) := by
  unfold portDown
  repeat' first
    | with_reducible assumption
    | intro _
    | with_reducible apply setPortState_kept
    | with_reducible apply wrf_kept
    | with_reducible apply wrapBegin_kept
    | with_reducible apply updPort_kept
    | with_reducible apply updCh_kept
    | with_reducible apply wrb_kept
    | with_reducible apply ite_kept
    | split
    | dsimp only

theorem laneSync_kept {q : List Instr} {p : Fin 4} {lanes : BitVec 4} {aligned : Bool} {s : State} (h : Kept q s) : Kept q (laneSync s p lanes aligned) := by
  unfold laneSync
  repeat' first
    | with_reducible assumption
    | intro _
    | with_reducible apply setPortState_kept
    | with_reducible apply wrf_kept
    | with_reducible apply portDown_kept
    | with_reducible apply ite_kept
    | split
    | dsimp only

theorem delayResponse_kept {q : List Instr} {p : Fin 4} {elapsed : Nat} {s : State} (h : Kept q s) : Kept q (delayResponse s p elapsed) := by
  unfold delayResponse
  repeat' first
    | with_reducible assumption
    | intro _
    | with_reducible apply setPortState_kept
    | with_reducible apply wrf_kept
    | with_reducible apply updPort_kept
    | with_reducible apply ite_kept
    | split
    | dsimp only

theorem delayRequest_kept {q : List Instr} {p : Fin 4} {seq : Byte} {s : State} (h : Kept q s) : Kept q (delayRequest s p seq) := by
  unfold delayRequest
  repeat' first
    | with_reducible assumption
    | intro _
    | with_reducible apply updPort_kept
    | with_reducible apply ite_kept
    | split
    | dsimp only

theorem portPage_kept {q : List Instr} {p : Fin 4} {s : State} (h : Kept q s) : Kept q (portPage s p) := by
  unfold portPage
  repeat' first
    | with_reducible assumption
    | intro _
    | with_reducible apply wrf_kept
    | with_reducible apply updPort_kept
    | with_reducible apply ite_kept
    | split
    | dsimp only

theorem portErr_kept {q : List Instr} {p : Fin 4} {lo : Nat} {s : State} (h : Kept q s) : Kept q (portErr s p lo) := by
  unfold portErr
  repeat' first
    | with_reducible assumption
    | intro _
    | with_reducible apply incf_kept
    | with_reducible apply ite_kept
    | split
    | dsimp only

theorem countFrame_kept {q : List Instr} {p : Fin 4} {f : RxFrame} {s : State} (h : Kept q s) : Kept q (countFrame s p f) := by
  unfold countFrame
  repeat' first
    | with_reducible assumption
    | intro _
    | with_reducible apply wrf_kept
    | with_reducible apply portErr_kept
    | with_reducible apply ite_kept
    | split
    | dsimp only

theorem countDrop_kept {q : List Instr} {p : Fin 4} {f : RxFrame} {s : State} (h : Kept q s) : Kept q (countDrop s p f) := by
  unfold countDrop
  repeat' first
    | with_reducible assumption
    | intro _
    | with_reducible apply portErr_kept
    | with_reducible apply when_kept
    | with_reducible apply ite_kept
    | split
    | dsimp only

theorem sendOn_kept {q : List Instr} {p : Fin 4} {e : Fin 4} {residence : Nat} {f : List Byte} {s : State} (h : Kept q s) : Kept q (sendOn s p e residence f) := by
  unfold sendOn
  repeat' first
    | with_reducible assumption
    | intro _
    | with_reducible apply wrf_kept
    | with_reducible apply updPort_kept
    | with_reducible apply ite_kept
    | split
    | dsimp only

theorem ownReverse_kept {q : List Instr} {c : Bool} {b : List Byte} {s : State} (h : Kept q s) : Kept q (ownReverse s c b) := by
  unfold ownReverse
  repeat' first
    | with_reducible assumption
    | intro _
    | with_reducible apply wrf_kept
    | with_reducible apply wrapBegin_kept
    | with_reducible apply ite_kept
    | split
    | dsimp only

theorem frameForward_kept {q : List Instr} {p : Fin 4} {f : RxFrame} {residence : Nat} {s : State} (h : Kept q s) : Kept q (frameForward s p f residence) := by
  unfold frameForward
  repeat' first
    | with_reducible assumption
    | intro _
    | with_reducible apply countDrop_kept
    | with_reducible apply countFrame_kept
    | with_reducible apply portErr_kept
    | with_reducible apply when_kept
    | with_reducible apply sendOn_kept
    | with_reducible apply updCh_kept
    | with_reducible apply ownReverse_kept
    | with_reducible apply ite_kept
    | split
    | dsimp only

theorem checkFailed_kept {q : List Instr} {c : Bool} {k : Nat} {s : State} (h : Kept q s) : Kept q (checkFailed s c k) := by
  unfold checkFailed
  repeat' first
    | with_reducible assumption
    | intro _
    | with_reducible apply updCh_kept
    | with_reducible apply ite_kept
    | split
    | dsimp only

theorem setpointReturn_kept {q : List Instr} {c : Bool} {f : RxFrame} {s : State} (h : Kept q s) : Kept q (setpointReturn s c f) := by
  unfold setpointReturn
  repeat' first
    | with_reducible assumption
    | intro _
    | with_reducible apply wrf_kept
    | with_reducible apply assertSource_kept
    | with_reducible apply incf_kept
    | with_reducible apply when_kept
    | with_reducible apply updCh_kept
    | with_reducible apply checkFailed_kept
    | with_reducible apply ite_kept
    | split
    | dsimp only

theorem txFailure_kept {q : List Instr} {c : Bool} {i : Nat} {early : Bool} {s : State} (h : Kept q s) : Kept q (txFailure s c i early) := by
  unfold txFailure
  repeat' first
    | with_reducible assumption
    | intro _
    | with_reducible apply incf_kept
    | with_reducible apply updCh_kept
    | with_reducible apply checkFailed_kept
    | with_reducible apply ite_kept
    | split
    | dsimp only

theorem releaseChannel_kept {q : List Instr} {c : Bool} {s : State} (h : Kept q s) : Kept q (releaseChannel s c) := by
  unfold releaseChannel
  repeat' first
    | with_reducible assumption
    | intro _
    | with_reducible apply wrf_kept
    | with_reducible apply setChState_kept
    | with_reducible apply when_kept
    | with_reducible apply updCh_kept
    | with_reducible apply wrb_kept
    | with_reducible apply ite_kept
    | split
    | dsimp only

theorem withdrawWrite_kept {q : List Instr} {c : Bool} {s : State} (h : Kept q s) : Kept q (withdrawWrite s c) := by
  unfold withdrawWrite
  repeat' first
    | with_reducible assumption
    | intro _
    | with_reducible apply updCh_kept
    | with_reducible apply wrb_kept
    | with_reducible apply ite_kept
    | split
    | dsimp only

theorem rejoinWrite_kept {q : List Instr} {c : Bool} {s : State} (h : Kept q s) : Kept q (rejoinWrite s c) := by
  unfold rejoinWrite
  repeat' first
    | with_reducible assumption
    | intro _
    | with_reducible apply wrf_kept
    | with_reducible apply updCh_kept
    | with_reducible apply ite_kept
    | split
    | dsimp only

theorem chCtlWrite_kept {q : List Instr} {v : Word} {s : State} (h : Kept q s) : Kept q (chCtlWrite s v) := by
  unfold chCtlWrite
  repeat' first
    | with_reducible assumption
    | intro _
    | with_reducible apply when_kept
    | with_reducible apply withdrawWrite_kept
    | with_reducible apply rejoinWrite_kept
    | with_reducible apply ite_kept
    | split
    | dsimp only

theorem stopsRejoin_kept {q : List Instr} {c : Bool} {s : State} (h : Kept q s) : Kept q (stopsRejoin s c) := by
  unfold stopsRejoin
  repeat' first
    | with_reducible assumption
    | intro _
    | with_reducible apply ite_kept
    | split
    | dsimp only
    | with_reducible apply Kept.mem_bytes
    | with_reducible apply Kept.wmem_bytes
    | with_reducible apply Kept.wmem_words
    | with_reducible apply Kept.wmem_word
    | with_reducible apply Kept.mk_other

theorem probePage_kept {q : List Instr} {c : Bool} {s : State} (h : Kept q s) : Kept q (probePage s c) := by
  unfold probePage
  repeat' first
    | with_reducible assumption
    | intro _
    | with_reducible apply wrf_kept
    | with_reducible apply setChState_kept
    | with_reducible apply stopsRejoin_kept
    | with_reducible apply updCh_kept
    | with_reducible apply ite_kept
    | split
    | dsimp only

theorem channelPage_kept {q : List Instr} {c : Bool} {s : State} (h : Kept q s) : Kept q (channelPage s c) := by
  unfold channelPage
  repeat' first
    | with_reducible assumption
    | intro _
    | with_reducible apply probePage_kept
    | with_reducible apply updCh_kept
    | with_reducible apply wrapLeave_kept
    | with_reducible apply ite_kept
    | split
    | dsimp only

theorem returnCheck_kept {q : List Instr} {c : Bool} {s : State} (h : Kept q s) : Kept q (returnCheck s c) := by
  unfold returnCheck
  repeat' first
    | with_reducible assumption
    | intro _
    | with_reducible apply incf_kept
    | with_reducible apply ite_kept
    | split
    | dsimp only

theorem portsDown_kept {q : List Instr}  {s : State} (h : Kept q s) : Kept q (portsDown s) := by
  unfold portsDown
  repeat' first
    | with_reducible assumption
    | intro _
    | with_reducible apply forAll_kept
    | with_reducible apply portDown_kept
    | with_reducible apply ite_kept
    | split
    | dsimp only

theorem setCsState_kept {q : List Instr} {v : Nat} {s : State} (h : Kept q s) : Kept q (setCsState s v) := by
  unfold setCsState
  repeat' first
    | with_reducible assumption
    | intro _
    | with_reducible apply wrf_kept
    | with_reducible apply ite_kept
    | split
    | dsimp only

theorem integrate_kept {q : List Instr}  {s : State} (h : Kept q s) : Kept q (integrate s) := by
  unfold integrate
  repeat' first
    | with_reducible assumption
    | intro _
    | with_reducible apply setCsState_kept
    | with_reducible apply updPln_kept
    | with_reducible apply ite_kept
    | split
    | dsimp only

theorem setMaster_kept {q : List Instr} {b : Bool} {n : Nat} {s : State} (h : Kept q s) : Kept q (setMaster s b n) := by
  unfold setMaster
  repeat' first
    | with_reducible assumption
    | intro _
    | with_reducible apply wrf_kept
    | with_reducible apply ite_kept
    | split
    | dsimp only

theorem showValid_kept {q : List Instr}  {s : State} (h : Kept q s) : Kept q (showValid s) := by
  unfold showValid
  repeat' first
    | with_reducible assumption
    | intro _
    | with_reducible apply wrb_kept
    | with_reducible apply ite_kept
    | split
    | dsimp only

theorem activeChange_kept {q : List Instr}  {s : State} (h : Kept q s) : Kept q (activeChange s) := by
  unfold activeChange
  repeat' first
    | with_reducible assumption
    | intro _
    | with_reducible apply showLocked_kept
    | with_reducible apply tpConvert_kept
    | with_reducible apply incf_kept
    | with_reducible apply updBase_kept
    | with_reducible apply lfConvert_kept
    | with_reducible apply wrb_kept
    | with_reducible apply ite_kept
    | split
    | dsimp only

theorem appoint_kept {q : List Instr}  {s : State} (h : Kept q s) : Kept q (appoint s) := by
  unfold appoint
  repeat' first
    | with_reducible assumption
    | intro _
    | with_reducible apply showValid_kept
    | with_reducible apply updPln_kept
    | with_reducible apply setMaster_kept
    | with_reducible apply ite_kept
    | split
    | dsimp only

theorem showMaster_kept {q : List Instr}  {s : State} (h : Kept q s) : Kept q (showMaster s) := by
  unfold showMaster
  repeat' first
    | with_reducible assumption
    | intro _
    | with_reducible apply setCsState_kept
    | with_reducible apply when_kept
    | with_reducible apply ite_kept
    | split
    | dsimp only

theorem mastersStroke_kept {q : List Instr}  {s : State} (h : Kept q s) : Kept q (mastersStroke s) := by
  unfold mastersStroke
  repeat' first
    | with_reducible assumption
    | intro _
    | with_reducible apply showLocked_kept
    | with_reducible apply showValid_kept
    | with_reducible apply when_kept
    | with_reducible apply updPln_kept
    | with_reducible apply wrb_kept
    | with_reducible apply ite_kept
    | split
    | dsimp only

theorem holdover_kept {q : List Instr}  {s : State} (h : Kept q s) : Kept q (holdover s) := by
  unfold holdover
  repeat' first
    | with_reducible assumption
    | intro _
    | with_reducible apply setCsState_kept
    | with_reducible apply showLocked_kept
    | with_reducible apply showValid_kept
    | with_reducible apply setMaster_kept
    | with_reducible apply wrb_kept
    | with_reducible apply ite_kept
    | split
    | dsimp only

theorem takeMasters_kept {q : List Instr} {k : List Byte} {s : State} (h : Kept q s) : Kept q (takeMasters s k) := by
  unfold takeMasters
  repeat' first
    | with_reducible assumption
    | intro _
    | with_reducible apply showMaster_kept
    | with_reducible apply setMaster_kept
    | with_reducible apply wrb_kept
    | with_reducible apply ite_kept
    | split
    | dsimp only

theorem measure_kept {q : List Instr} {x : Bool} {c : Bool} {b : List Byte} {t : BTime} {ofs : Int} {s : State} (h : Kept q s) : Kept q (measure s x c b t ofs) := by
  unfold measure
  repeat' first
    | with_reducible assumption
    | intro _
    | with_reducible apply updPln_kept
    | with_reducible apply phaseMeasure_kept
    | with_reducible apply ite_kept
    | split
    | dsimp only

theorem followGrid_kept {q : List Instr} {b : List Byte} {t : BTime} {s : State} (h : Kept q s) : Kept q (followGrid s b t) := by
  unfold followGrid
  repeat' first
    | with_reducible assumption
    | intro _
    | with_reducible apply wrf_kept
    | with_reducible apply setCsState_kept
    | with_reducible apply when_kept
    | with_reducible apply updPln_kept
    | with_reducible apply updBase_kept
    | with_reducible apply ite_kept
    | split
    | dsimp only

theorem learnActive_kept {q : List Instr} {act : Bool} {s : State} (h : Kept q s) : Kept q (learnActive s act) := by
  unfold learnActive
  repeat' first
    | with_reducible assumption
    | intro _
    | with_reducible apply activeChange_kept
    | with_reducible apply wrb_kept
    | with_reducible apply ite_kept
    | split
    | dsimp only

theorem integrateCopy_kept {q : List Instr} {c : Bool} {b : List Byte} {k : List Byte} {act : Bool} {s : State} (h : Kept q s) : Kept q (integrateCopy s c b k act) := by
  unfold integrateCopy
  repeat' first
    | with_reducible assumption
    | intro _
    | with_reducible apply learnActive_kept
    | with_reducible apply followGrid_kept
    | with_reducible apply takeMasters_kept
    | with_reducible apply measure_kept
    | with_reducible apply ite_kept
    | split
    | dsimp only

theorem strokeTurn_kept {q : List Instr} {b : List Byte} {s : State} (h : Kept q s) : Kept q (strokeTurn s b) := by
  unfold strokeTurn
  repeat' first
    | with_reducible assumption
    | intro _
    | with_reducible apply wrf_kept
    | with_reducible apply phaseStroke_kept
    | with_reducible apply ite_kept
    | split
    | dsimp only

theorem refCopy_kept {q : List Instr} {c : Bool} {f : RxFrame} {s : State} (h : Kept q s) : Kept q (refCopy s c f) := by
  unfold refCopy
  repeat' first
    | with_reducible assumption
    | intro _
    | with_reducible apply integrateCopy_kept
    | with_reducible apply when_kept
    | with_reducible apply strokeTurn_kept
    | with_reducible apply takeMasters_kept
    | with_reducible apply measure_kept
    | with_reducible apply activeChange_kept
    | with_reducible apply integrate_kept
    | with_reducible apply ite_kept
    | split
    | dsimp only

theorem yieldLead_kept {q : List Instr}  {s : State} (h : Kept q s) : Kept q (yieldLead s) := by
  unfold yieldLead
  repeat' first
    | with_reducible assumption
    | intro _
    | with_reducible apply showValid_kept
    | with_reducible apply setMaster_kept
    | with_reducible apply integrate_kept
    | with_reducible apply ite_kept
    | split
    | dsimp only

theorem coldstart_kept {q : List Instr} {c : Bool} {f : RxFrame} {s : State} (h : Kept q s) : Kept q (coldstart s c f) := by
  unfold coldstart
  repeat' first
    | with_reducible assumption
    | intro _
    | with_reducible apply lateFrame_kept
    | with_reducible apply updPln_kept
    | with_reducible apply yieldLead_kept
    | with_reducible apply integrate_kept
    | with_reducible apply ite_kept
    | split
    | dsimp only

theorem coldStartBegin_kept {q : List Instr}  {s : State} (h : Kept q s) : Kept q (coldStartBegin s) := by
  unfold coldStartBegin
  repeat' first
    | with_reducible assumption
    | intro _
    | with_reducible apply setCsState_kept
    | with_reducible apply updPln_kept
    | with_reducible apply updBase_kept
    | with_reducible apply ite_kept
    | split
    | dsimp only

theorem coldStartLead_kept {q : List Instr}  {s : State} (h : Kept q s) : Kept q (coldStartLead s) := by
  unfold coldStartLead
  repeat' first
    | with_reducible assumption
    | intro _
    | with_reducible apply setCsState_kept
    | with_reducible apply showLocked_kept
    | with_reducible apply incf_kept
    | with_reducible apply showValid_kept
    | with_reducible apply updPln_kept
    | with_reducible apply setMaster_kept
    | with_reducible apply updBase_kept
    | with_reducible apply wrb_kept
    | with_reducible apply ite_kept
    | split
    | dsimp only

theorem stopsSent_kept {q : List Instr}  {s : State} (h : Kept q s) : Kept q (stopsSent s) := by
  unfold stopsSent
  repeat' first
    | with_reducible assumption
    | intro _
    | with_reducible apply forAll_kept
    | with_reducible apply updNode_kept
    | with_reducible apply ite_kept
    | split
    | dsimp only

theorem sendTrain_kept {q : List Instr} {period : Nat} {s : State} (h : Kept q s) : Kept q (sendTrain s period) := by
  unfold sendTrain
  repeat' first
    | with_reducible assumption
    | intro _
    | with_reducible apply forAll_kept
    | with_reducible apply when_kept
    | with_reducible apply updPln_kept
    | with_reducible apply stopsSent_kept
    | with_reducible apply updAx_kept
    | with_reducible apply updCh_kept
    | with_reducible apply updNode_kept
    | with_reducible apply ite_kept
    | split
    | dsimp only

end Sys2Proof.Machine
end

