-- ==== Sys2Proof/Laws/KeptCodex.lean ====
section
/-! SUPPORT. What is kept (`Kept`) by each function of Machine/Codex.lean, Machine/Queues.lean, Machine/ServiceBus.lean. -/

namespace Sys2Proof.Machine

theorem updStw_kept {q : List Instr} {f : Stw → Stw} {s : State} (h : Kept q s) : Kept q (updStw s f) := by
  unfold updStw
  repeat' first
    | with_reducible assumption
    | intro _
    | with_reducible apply ite_kept
    | split
    | dsimp only
    | with_reducible apply Kept.mem_bytes
    | with_reducible apply Kept.wmem_bytes
    | with_reducible apply Kept.wmem_words
    | with_reducible apply Kept.wmem_word
    | with_reducible apply Kept.mk_other

theorem setStage_kept {q : List Instr} {n : Nat} {s : State} (h : Kept q s) : Kept q (setStage s n) := by
  unfold setStage
  repeat' first
    | with_reducible assumption
    | intro _
    | with_reducible apply wrf_kept
    | with_reducible apply ite_kept
    | split
    | dsimp only

theorem stageFor_kept {q : List Instr} {most : Nat} {s : State} (h : Kept q s) : Kept q (stageFor s most) := by
  unfold stageFor
  repeat' first
    | with_reducible assumption
    | intro _
    | with_reducible apply takeNat_kept
    | with_reducible apply ite_kept
    | split
    | dsimp only
    | (refine takeNat_keptE ?_ (by assumption))
    | with_reducible apply Kept.mem_bytes
    | with_reducible apply Kept.wmem_bytes
    | with_reducible apply Kept.wmem_words
    | with_reducible apply Kept.wmem_word
    | with_reducible apply Kept.mk_other

theorem codexStart_kept {q : List Instr}  {s : State} (h : Kept q s) : Kept q (codexStart s) := by
  unfold codexStart
  repeat' first
    | with_reducible assumption
    | intro _
    | with_reducible apply wrb_kept
    | with_reducible apply ite_kept
    | split
    | dsimp only

theorem codexIdle_kept {q : List Instr}  {s : State} (h : Kept q s) : Kept q (codexIdle s) := by
  unfold codexIdle
  repeat' first
    | with_reducible assumption
    | intro _
    | with_reducible apply when_kept
    | with_reducible apply hstIrq_kept
    | with_reducible apply wrb_kept
    | with_reducible apply ite_kept
    | split
    | dsimp only

theorem codexResult_kept {q : List Instr} {r : Nat} {sect : Nat} {s : State} (h : Kept q s) : Kept q (codexResult s r sect) := by
  unfold codexResult
  repeat' first
    | with_reducible assumption
    | intro _
    | with_reducible apply wrf_kept
    | with_reducible apply ite_kept
    | split
    | dsimp only

theorem codexEnd_kept {q : List Instr} {r : Nat} {sect : Nat} {s : State} (h : Kept q s) : Kept q (codexEnd s r sect) := by
  unfold codexEnd
  repeat' first
    | with_reducible assumption
    | intro _
    | with_reducible apply codexResult_kept
    | with_reducible apply codexIdle_kept
    | with_reducible apply updStw_kept
    | with_reducible apply ite_kept
    | split
    | dsimp only

theorem domainsOn_kept {q : List Instr} {m : Word} {s : State} (h : Kept q s) : Kept q (domainsOn s m) := by
  unfold domainsOn
  repeat' first
    | with_reducible assumption
    | intro _
    | with_reducible apply orReg_kept
    | with_reducible apply ite_kept
    | split
    | dsimp only

theorem storeHalves_kept {q : List Instr} {e : Fin 16} {y : Bool} {l : List (BitVec 14 × Half)} {s : State} (h : Kept q s) : Kept q (storeHalves s e y l) := by
  unfold storeHalves
  repeat' first
    | with_reducible assumption
    | intro _
    | with_reducible apply forAll_kept
    | with_reducible apply mwr16_kept
    | with_reducible apply ite_kept
    | split
    | dsimp only

theorem loadEngine_kept {q : List Instr} {e : Fin 16} {k : EngineSec} {s : State} (h : Kept q s) : Kept q (loadEngine s e k) := by
  unfold loadEngine
  repeat' first
    | with_reducible assumption
    | intro _
    | with_reducible apply forAll_kept
    | with_reducible apply mwrWords_kept
    | with_reducible apply storeHalves_kept
    | with_reducible apply updAx_kept
    | with_reducible apply ite_kept
    | split
    | dsimp only
    | with_reducible apply Kept.mem_bytes
    | with_reducible apply Kept.wmem_bytes
    | with_reducible apply Kept.wmem_words
    | with_reducible apply Kept.wmem_word
    | with_reducible apply Kept.mk_other

theorem loadAxes_kept {q : List Instr} {a : AxesSec} {s : State} (h : Kept q s) : Kept q (loadAxes s a) := by
  unfold loadAxes
  repeat' first
    | with_reducible assumption
    | intro _
    | with_reducible apply forAll_kept
    | with_reducible apply wr_kept
    | with_reducible apply updAx_kept
    | with_reducible apply ite_kept
    | split
    | dsimp only
    | with_reducible apply Kept.mem_bytes
    | with_reducible apply Kept.wmem_bytes
    | with_reducible apply Kept.wmem_words
    | with_reducible apply Kept.wmem_word
    | with_reducible apply Kept.mk_other

theorem loadY_kept {q : List Instr} {e : Fin 16} {b : BitVec 14} {l : List Half} {s : State} (h : Kept q s) : Kept q (loadY s e b l) := by
  unfold loadY
  repeat' first
    | with_reducible assumption
    | intro _
    | with_reducible apply storeHalves_kept
    | with_reducible apply ite_kept
    | split
    | dsimp only

theorem loadBanks_kept {q : List Instr} {k : BankSec} {s : State} (h : Kept q s) : Kept q (loadBanks s k) := by
  unfold loadBanks
  repeat' first
    | with_reducible assumption
    | intro _
    | with_reducible apply loadY_kept
    | with_reducible apply forAll_kept
    | with_reducible apply setBankReady_kept
    | with_reducible apply ite_kept
    | split
    | dsimp only

theorem loadDuctus_kept {q : List Instr} {k : DuctusSec} {s : State} (h : Kept q s) : Kept q (loadDuctus s k) := by
  unfold loadDuctus
  repeat' first
    | with_reducible assumption
    | intro _
    | with_reducible apply forAll_kept
    | with_reducible apply updSlot_kept
    | with_reducible apply wr_kept
    | with_reducible apply wrb_kept
    | with_reducible apply ite_kept
    | split
    | dsimp only

theorem loadRegs_kept {q : List Instr} {l : List (Nat × Word)} {s : State} (h : Kept q s) : Kept q (loadRegs s l) := by
  unfold loadRegs
  repeat' first
    | with_reducible assumption
    | intro _
    | with_reducible apply forAll_kept
    | with_reducible apply when_kept
    | with_reducible apply wr_kept
    | with_reducible apply taskConfigured_kept
    | with_reducible apply ite_kept
    | split
    | dsimp only

theorem fieldCleared_kept {q : List Instr}  {s : State} (h : Kept q s) : Kept q (fieldCleared s) := by
  unfold fieldCleared
  repeat' first
    | with_reducible assumption
    | intro _
    | with_reducible apply forAll_kept
    | with_reducible apply wr_kept
    | with_reducible apply ite_kept
    | split
    | dsimp only

theorem loadField_kept {q : List Instr} {l : List (Nat × Word)} {s : State} (h : Kept q s) : Kept q (loadField s l) := by
  unfold loadField
  repeat' first
    | with_reducible assumption
    | intro _
    | with_reducible apply lfModes_kept
    | with_reducible apply fieldCleared_kept
    | with_reducible apply loadRegs_kept
    | with_reducible apply ite_kept
    | split
    | dsimp only

theorem loadRoute_kept {q : List Instr} {r : RouteSec} {s : State} (h : Kept q s) : Kept q (loadRoute s r) := by
  unfold loadRoute
  repeat' first
    | with_reducible assumption
    | intro _
    | with_reducible apply forAll_kept
    | with_reducible apply updStw_kept
    | with_reducible apply loadField_kept
    | with_reducible apply ite_kept
    | split
    | dsimp only
    | with_reducible apply Kept.mem_bytes
    | with_reducible apply Kept.wmem_bytes
    | with_reducible apply Kept.wmem_words
    | with_reducible apply Kept.wmem_word
    | with_reducible apply Kept.mk_other

theorem loadScript_kept {q : List Instr} {n : Nat} {k : Script} {s : State} (h : Kept q s) : Kept q (loadScript s n k) := by
  unfold loadScript
  repeat' first
    | with_reducible assumption
    | intro _
    | with_reducible apply updPln_kept
    | with_reducible apply wrb_kept
    | with_reducible apply ite_kept
    | split
    | dsimp only

theorem scriptMembers_kept {q : List Instr} {k : Fin 8} {s : State} (h : Kept q s) : Kept q (scriptMembers s k) := by
  unfold scriptMembers
  repeat' first
    | with_reducible assumption
    | intro _
    | with_reducible apply forAll_kept
    | with_reducible apply queueTodo_kept
    | with_reducible apply issueTodo_kept
    | with_reducible apply updNode_kept
    | with_reducible apply ite_kept
    | split
    | dsimp only

theorem loadScriptFor_kept {q : List Instr} {k : Fin 8} {s : State} (h : Kept q s) : Kept q (loadScriptFor s k) := by
  unfold loadScriptFor
  repeat' first
    | with_reducible assumption
    | intro _
    | with_reducible apply scriptMembers_kept
    | with_reducible apply ite_kept
    | split
    | dsimp only

theorem loadReact_kept {q : List Instr} {w : List Word} {s : State} (h : Kept q s) : Kept q (loadReact s w) := by
  unfold loadReact
  repeat' first
    | with_reducible assumption
    | intro _
    | with_reducible apply forAll_kept
    | with_reducible apply updMgn_kept
    | with_reducible apply wr_kept
    | with_reducible apply wrb_kept
    | with_reducible apply ite_kept
    | split
    | dsimp only

theorem loadCam_kept {q : List Instr} {t : Nat} {b : List Byte} {s : State} (h : Kept q s) : Kept q (loadCam s t b) := by
  unfold loadCam
  repeat' first
    | with_reducible assumption
    | intro _
    | with_reducible apply ite_kept
    | split
    | dsimp only
    | with_reducible apply Kept.mem_bytes
    | with_reducible apply Kept.wmem_bytes
    | with_reducible apply Kept.wmem_words
    | with_reducible apply Kept.wmem_word
    | with_reducible apply Kept.mk_other

theorem loadApp_kept {q : List Instr} {c : Nat} {b : List Byte} {s : State} (h : Kept q s) : Kept q (loadApp s c b) := by
  unfold loadApp
  repeat' first
    | with_reducible assumption
    | intro _
    | with_reducible apply ite_kept
    | split
    | dsimp only
    | with_reducible apply Kept.mem_bytes
    | with_reducible apply Kept.wmem_bytes
    | with_reducible apply Kept.wmem_words
    | with_reducible apply Kept.wmem_word
    | with_reducible apply Kept.mk_other

theorem loadSect_kept {q : List Instr} {α : Type} {g : Img} {typ : Nat} {f : List Byte → Option α}
    {put : State → α → State} {s : State} (h : Kept q s) (hp : ∀ t v, Kept q t → Kept q (put t v)) :
    Kept q (loadSect s g typ f put) := by
  unfold loadSect
  split
  · exact hp _ _ h
  · exact h

theorem loadSections_kept {q : List Instr} {g : Img} {s : State} (h : Kept q s) : Kept q (loadSections s g) := by
  unfold loadSections
  repeat' first
    | with_reducible assumption
    | intro _
    | with_reducible apply wrf_kept
    | with_reducible apply loadY_kept
    | with_reducible apply domainsOn_kept
    | with_reducible apply loadApp_kept
    | with_reducible apply forAll_kept
    | with_reducible apply loadBanks_kept
    | with_reducible apply loadDuctus_kept
    | with_reducible apply loadCam_kept
    | with_reducible apply loadScriptFor_kept
    | with_reducible apply loadAxes_kept
    | with_reducible apply loadReact_kept
    | with_reducible apply loadScript_kept
    | with_reducible apply loadRoute_kept
    | with_reducible apply loadSect_kept
    | with_reducible apply loadRegs_kept
    | with_reducible apply loadEngine_kept
    | with_reducible apply updStw_kept
    | with_reducible apply ite_kept
    | split
    | dsimp only

theorem sendTables_kept {q : List Instr}  {s : State} (h : Kept q s) : Kept q (sendTables s) := by
  unfold sendTables
  repeat' first
    | with_reducible assumption
    | intro _
    | with_reducible apply forAll_kept
    | with_reducible apply queueTodo_kept
    | with_reducible apply issueTodo_kept
    | with_reducible apply ite_kept
    | split
    | dsimp only

theorem modeSet_kept {q : List Instr} {e : Fin 16} {m : BitVec 2} {s : State} (h : Kept q s) : Kept q (modeSet s e m) := by
  unfold modeSet
  repeat' first
    | with_reducible assumption
    | intro _
    | with_reducible apply modeWrite_kept
    | with_reducible apply when_kept
    | with_reducible apply ite_kept
    | split
    | dsimp only

theorem draftStart_kept {q : List Instr} {l : List DraftAxis} {k : Script} {s : State} (h : Kept q s) : Kept q (draftStart s l k) := by
  unfold draftStart
  repeat' first
    | with_reducible assumption
    | intro _
    | with_reducible apply wrf_kept
    | with_reducible apply domainsOn_kept
    | with_reducible apply forAll_kept
    | with_reducible apply setPeriod_kept
    | with_reducible apply updPln_kept
    | with_reducible apply coldStartBegin_kept
    | with_reducible apply modeSet_kept
    | with_reducible apply wrb_kept
    | with_reducible apply ite_kept
    | split
    | dsimp only
    | with_reducible apply Kept.mem_bytes
    | with_reducible apply Kept.wmem_bytes
    | with_reducible apply Kept.wmem_words
    | with_reducible apply Kept.wmem_word
    | with_reducible apply Kept.mk_other

theorem imageTaken_kept {q : List Instr} {b : List Byte} {g : Img} {s : State} (h : Kept q s) : Kept q (imageTaken s b g) := by
  unfold imageTaken
  repeat' first
    | with_reducible assumption
    | intro _
    | with_reducible apply wrf_kept
    | with_reducible apply setStage_kept
    | with_reducible apply updPln_kept
    | with_reducible apply draftStart_kept
    | with_reducible apply loadSect_kept
    | with_reducible apply wr_kept
    | with_reducible apply updStw_kept
    | with_reducible apply ite_kept
    | split
    | dsimp only

theorem slotErr_kept {q : List Instr} {source : Nat} {e : Nat} {s : State} (h : Kept q s) : Kept q (slotErr s source e) := by
  unfold slotErr
  repeat' first
    | with_reducible assumption
    | intro _
    | with_reducible apply wrf_kept
    | with_reducible apply when_kept
    | with_reducible apply ite_kept
    | split
    | dsimp only

theorem imagePlace_kept {q : List Instr} {b : List Byte} {s : State} (h : Kept q s) : Kept q (imagePlace s b) :=
  (takeNat_kept h).mem_mk (Memory.wf_writeBytes _ _ _ (takeNat_kept h).mem)

theorem tryImage_kept {q : List Instr} {b : List Byte} {source : Nat} {s : State} (h : Kept q s) : Kept q (tryImage s b source).1 := by
  unfold tryImage
  repeat' first
    | with_reducible assumption
    | intro _
    | with_reducible apply wrf_kept
    | with_reducible apply imageTaken_kept
    | with_reducible apply codexResult_kept
    | with_reducible apply slotErr_kept
    | with_reducible apply updStw_kept
    | split
    | dsimp only

theorem tryImage_keptE {q : List Instr} {b : List Byte} {source : Nat} {s tR : State} {xR : Bool} (h : Kept q s) (hE : tryImage s b source = (tR, xR)) : Kept q tR := by
  have := tryImage_kept (q := q) (b := b) (source := source) h
  rw [hE] at this
  exact this

theorem waitForHost_kept {q : List Instr}  {s : State} (h : Kept q s) : Kept q (waitForHost s) := by
  unfold waitForHost
  repeat' first
    | with_reducible assumption
    | intro _
    | with_reducible apply wrf_kept
    | with_reducible apply domainsOn_kept
    | with_reducible apply setStage_kept
    | with_reducible apply codexIdle_kept
    | with_reducible apply ite_kept
    | split
    | dsimp only

theorem trySlots_kept {q : List Instr} {dir : List Byte} (l : List (Nat × List Byte)) :
    ∀ {s : State}, Kept q s → Kept q (trySlots dir l s) := by
  induction l with
  | nil => exact fun h => waitForHost_kept h
  | cons e l ih => exact fun h => ite_kept (tryImage_kept (imagePlace_kept h)) (ih (tryImage_kept (imagePlace_kept h)))

theorem bootRead_kept {q : List Instr} {dir : List Byte} {a : List Byte} {b : List Byte} {s : State} (h : Kept q s) : Kept q (bootRead s dir a b) := by
  unfold bootRead
  repeat' first
    | with_reducible assumption
    | intro _
    | with_reducible apply codexStart_kept
    | with_reducible apply domainsOn_kept
    | with_reducible apply setStage_kept
    | with_reducible apply trySlots_kept
    | with_reducible apply waitForHost_kept
    | with_reducible apply ite_kept
    | split
    | dsimp only

theorem setLocks_kept {q : List Instr}  {s : State} (h : Kept q s) : Kept q (setLocks s) := by
  unfold setLocks
  repeat' first
    | with_reducible assumption
    | intro _
    | with_reducible apply forAll_kept
    | with_reducible apply wrb_kept
    | with_reducible apply ite_kept
    | split
    | dsimp only

theorem enginesService_kept {q : List Instr}  {s : State} (h : Kept q s) : Kept q (enginesService s) := by
  unfold enginesService
  repeat' first
    | with_reducible assumption
    | intro _
    | with_reducible apply forAll_kept
    | with_reducible apply modeSet_kept
    | with_reducible apply ite_kept
    | split
    | dsimp only

theorem banksFirst_kept {q : List Instr}  {s : State} (h : Kept q s) : Kept q (banksFirst s) := by
  unfold banksFirst
  repeat' first
    | with_reducible assumption
    | intro _
    | with_reducible apply forAll_kept
    | with_reducible apply wrb_kept
    | with_reducible apply ite_kept
    | split
    | dsimp only
    | with_reducible apply Kept.mem_bytes
    | with_reducible apply Kept.wmem_bytes
    | with_reducible apply Kept.wmem_words
    | with_reducible apply Kept.wmem_word
    | with_reducible apply Kept.mk_other

theorem draftScriptEnds_kept {q : List Instr}  {s : State} (h : Kept q s) : Kept q (draftScriptEnds s) := by
  unfold draftScriptEnds
  repeat' first
    | with_reducible assumption
    | intro _
    | with_reducible apply updPln_kept
    | with_reducible apply scriptMembers_kept
    | with_reducible apply wrb_kept
    | with_reducible apply ite_kept
    | split
    | dsimp only

theorem fullServiceBegin_kept {q : List Instr}  {s : State} (h : Kept q s) : Kept q (fullServiceBegin s) := by
  unfold fullServiceBegin
  repeat' first
    | with_reducible assumption
    | intro _
    | with_reducible apply wrf_kept
    | with_reducible apply scSetRun_kept
    | with_reducible apply forAll_kept
    | with_reducible apply banksFirst_kept
    | with_reducible apply draftScriptEnds_kept
    | with_reducible apply setStage_kept
    | with_reducible apply setPeriod_kept
    | with_reducible apply when_kept
    | with_reducible apply wr_kept
    | with_reducible apply updStw_kept
    | with_reducible apply updAx_kept
    | with_reducible apply codexEnd_kept
    | with_reducible apply wrb_kept
    | with_reducible apply ite_kept
    | split
    | dsimp only
    | with_reducible apply Kept.mem_bytes
    | with_reducible apply Kept.wmem_bytes
    | with_reducible apply Kept.wmem_words
    | with_reducible apply Kept.wmem_word
    | with_reducible apply Kept.mk_other

theorem transitionStart_kept {q : List Instr} {attempts : Nat} {s : State} (h : Kept q s) : Kept q (transitionStart s attempts) := by
  unfold transitionStart
  repeat' first
    | with_reducible assumption
    | intro _
    | with_reducible apply setStage_kept
    | with_reducible apply swPhase_kept
    | with_reducible apply updPln_kept
    | with_reducible apply ite_kept
    | split
    | dsimp only

theorem transitionRequest_kept {q : List Instr}  {s : State} (h : Kept q s) : Kept q (transitionRequest s) := by
  unfold transitionRequest
  repeat' first
    | with_reducible assumption
    | intro _
    | with_reducible apply wrf_kept
    | with_reducible apply transitionStart_kept
    | with_reducible apply enginesService_kept
    | with_reducible apply setStage_kept
    | with_reducible apply setPeriod_kept
    | with_reducible apply setLocks_kept
    | with_reducible apply updStw_kept
    | with_reducible apply coldStartBegin_kept
    | with_reducible apply codexEnd_kept
    | with_reducible apply ite_kept
    | split
    | dsimp only

theorem periodAhead_kept {q : List Instr}  {s : State} (h : Kept q s) : Kept q (periodAhead s) := by
  unfold periodAhead
  repeat' first
    | with_reducible assumption
    | intro _
    | with_reducible apply wrf_kept
    | with_reducible apply ite_kept
    | split
    | dsimp only

theorem transitionSettled_kept {q : List Instr}  {s : State} (h : Kept q s) : Kept q (transitionSettled s) := by
  unfold transitionSettled
  repeat' first
    | with_reducible assumption
    | intro _
    | with_reducible apply enginesService_kept
    | with_reducible apply setLocks_kept
    | with_reducible apply periodAhead_kept
    | with_reducible apply ite_kept
    | split
    | dsimp only

theorem servicePage_kept {q : List Instr} {w : Option SwitchSt} {s : State} (h : Kept q s) : Kept q (servicePage s w) := by
  unfold servicePage
  repeat' first
    | with_reducible assumption
    | intro _
    | with_reducible apply transitionStart_kept
    | with_reducible apply setStage_kept
    | with_reducible apply updStw_kept
    | with_reducible apply fullServiceBegin_kept
    | with_reducible apply codexEnd_kept
    | with_reducible apply ite_kept
    | split
    | dsimp only

theorem partTake_kept {q : List Instr} {g : Img} {s : State} (h : Kept q s) : Kept q (partTake s g) := by
  unfold partTake
  repeat' first
    | with_reducible assumption
    | intro _
    | with_reducible apply loadApp_kept
    | with_reducible apply forAll_kept
    | with_reducible apply loadCam_kept
    | with_reducible apply loadScript_kept
    | with_reducible apply wr_kept
    | with_reducible apply updStw_kept
    | with_reducible apply scriptMembers_kept
    | with_reducible apply codexEnd_kept
    | with_reducible apply wrb_kept
    | with_reducible apply ite_kept
    | split
    | dsimp only

theorem reactTakes_kept {q : List Instr}  {s : State} (h : Kept q s) : Kept q (reactTakes s) := by
  unfold reactTakes
  repeat' first
    | with_reducible assumption
    | intro _
    | with_reducible apply wrf_kept
    | with_reducible apply loadReact_kept
    | with_reducible apply wr_kept
    | with_reducible apply updStw_kept
    | with_reducible apply codexEnd_kept
    | with_reducible apply ite_kept
    | split
    | dsimp only

theorem codexLoad_kept {q : List Instr}  {s : State} (h : Kept q s) : Kept q (codexLoad s) := by
  unfold codexLoad
  repeat' first
    | with_reducible assumption
    | intro _
    | with_reducible apply wrf_kept
    | with_reducible apply codexStart_kept
    | with_reducible apply imageTaken_kept
    | with_reducible apply codexResult_kept
    | with_reducible apply partTake_kept
    | with_reducible apply updStw_kept
    | with_reducible apply codexEnd_kept
    | with_reducible apply ite_kept
    | split
    | dsimp only

theorem codexTransition_kept {q : List Instr}  {s : State} (h : Kept q s) : Kept q (codexTransition s) := by
  unfold codexTransition
  repeat' first
    | with_reducible assumption
    | intro _
    | with_reducible apply codexStart_kept
    | with_reducible apply transitionStart_kept
    | with_reducible apply codexResult_kept
    | with_reducible apply updStw_kept
    | with_reducible apply ite_kept
    | split
    | dsimp only

theorem blocksReset_kept {q : List Instr} {s : State} (h : Kept q s) : Kept q (blocksReset s) := by
  have h1 := dropRegs_kept (p := restartReg) h
  exact ⟨h1.1, h1.2, h1.3, h1.4, reset_reps, reset_calls, reset_fifo, reset_trace, h1.9⟩

theorem restartReset_kept {q : List Instr} {s : State} (h : Kept q s) : Kept q (restartReset s) := by
  unfold restartReset
  extract_lets u v
  have h2 : Kept q u := blocksReset_kept (forAll_kept h (fun _ _ ht => serveHeld_kept ht))
  clear_value u
  exact stwApply_kept (forAll_kept (updMgn_kept (wrb_kept (wrb_kept h2))) (fun _ _ ht => endCond_kept ht))

theorem codexRestart_kept {q : List Instr} {v : Word} {s : State} (h : Kept q s) : Kept q (codexRestart s v) := by
  unfold codexRestart
  repeat' first
    | with_reducible assumption
    | intro _
    | with_reducible apply wrf_kept
    | with_reducible apply codexStart_kept
    | with_reducible apply setStage_kept
    | with_reducible apply codexResult_kept
    | with_reducible apply stageFor_kept
    | with_reducible apply wr_kept
    | with_reducible apply updStw_kept
    | with_reducible apply restartReset_kept
    | with_reducible apply wrb_kept
    | with_reducible apply ite_kept
    | split
    | dsimp only

theorem stageTick_kept {q : List Instr}  {s : State} (h : Kept q s) : Kept q (stageTick s) := by
  unfold stageTick
  repeat' first
    | with_reducible assumption
    | intro _
    | with_reducible apply domainsOn_kept
    | with_reducible apply setStage_kept
    | with_reducible apply tryImage_kept
    | with_reducible apply stageFor_kept
    | with_reducible apply waitForHost_kept
    | with_reducible apply ite_kept
    | split
    | dsimp only
    | (refine tryImage_keptE ?_ (by assumption))

theorem codexCmd_kept {q : List Instr} {v : Word} {s : State} (h : Kept q s) : Kept q (codexCmd s v) := by
  unfold codexCmd
  repeat' first
    | with_reducible assumption
    | intro _
    | with_reducible apply codexRestart_kept
    | with_reducible apply when_kept
    | with_reducible apply codexTransition_kept
    | with_reducible apply codexLoad_kept
    | with_reducible apply ite_kept
    | split
    | dsimp only

theorem draftJog_kept {q : List Instr} {v : Word} {s : State} (h : Kept q s) : Kept q (draftJog s v) := by
  unfold draftJog
  repeat' first
    | with_reducible assumption
    | intro _
    | with_reducible apply ite_kept
    | split
    | dsimp only
    | with_reducible apply Kept.mem_bytes
    | with_reducible apply Kept.wmem_bytes
    | with_reducible apply Kept.wmem_words
    | with_reducible apply Kept.wmem_word
    | with_reducible apply Kept.mk_other

theorem qStep_kept {q : List Instr} {q0 : Fin 8} {s : State} (h : Kept q s) : Kept q (qStep s q0) := by
  unfold qStep
  repeat' first
    | with_reducible assumption
    | intro _
    | with_reducible apply wrf_kept
    | with_reducible apply ite_kept
    | split
    | dsimp only

theorem passEntry_kept {q : List Instr} {n : Fin 8} {k : TakenEntry} {s : State} (h : Kept q s) :
    Kept q (passEntry s n k) := by
  unfold passEntry
  dsimp only
  repeat' split
  · exact queueRecord_kept h
  · exact loadRequest_kept h
  · exact ackTag_kept h
  · exact bankRequest_kept h
  · exact switchRequest_kept h
  · exact ackTag_kept h

theorem acceptEntry_kept {q : List Instr} {n : Fin 8} {k : TakenEntry} {s : State} (h : Kept q s) :
    Kept q (acceptEntry s n k) := updQueue_kept h (fun _ _ => List.length_take_le _ _)

theorem repeatEntry_kept {q : List Instr} {q0 : Fin 8} {k : TakenEntry} {t : TagRec} {s : State} (h : Kept q s) : Kept q (repeatEntry s q0 k t) := by
  unfold repeatEntry
  repeat' first
    | with_reducible assumption
    | intro _
    | with_reducible apply updQueue_kept
    | with_reducible apply ackEntry_kept
    | exact Nat.le_refl _
    | rfl
    | exact List.length_filter_le _ _
    | exact Nat.zero_le _
    | (rw [List.length_tail]; exact Nat.sub_le _ _)
    | (rw [List.length_map]; assumption)
    | (dsimp only; assumption)
    | with_reducible apply ite_kept
    | split
    | dsimp only

theorem takeEntry_kept {q : List Instr} {q0 : Fin 8} {k : TakenEntry} {s : State} (h : Kept q s) : Kept q (takeEntry s q0 k) := by
  unfold takeEntry
  repeat' first
    | with_reducible assumption
    | intro _
    | with_reducible apply repeatEntry_kept
    | with_reducible apply qStep_kept
    | with_reducible apply passEntry_kept
    | with_reducible apply acceptEntry_kept
    | with_reducible apply ackTag_kept
    | with_reducible apply ite_kept
    | split
    | dsimp only

theorem queueTake_kept {q : List Instr} {q0 : Fin 8} {s : State} (h : Kept q s) : Kept q (queueTake s q0) := by
  unfold queueTake
  repeat' first
    | with_reducible assumption
    | intro _
    | with_reducible apply takeEntry_kept
    | with_reducible apply ite_kept
    | split
    | dsimp only

theorem entryTake_kept {q : List Instr} {q0 : Fin 8} {k : TakenEntry} {s : State} (h : Kept q s) : Kept q (entryTake s q0 k) := by
  unfold entryTake
  repeat' first
    | with_reducible assumption
    | intro _
    | with_reducible apply takeEntry_kept
    | with_reducible apply ite_kept
    | split
    | dsimp only

theorem queueReset_kept {q : List Instr} {q0 : Fin 8} {en : Bool} {s : State} (h : Kept q s) : Kept q (queueReset s q0 en) := by
  unfold queueReset
  repeat' first
    | with_reducible assumption
    | intro _
    | with_reducible apply wrf_kept
    | with_reducible apply updQueue_kept
    | with_reducible apply wrb_kept
    | exact Nat.le_refl _
    | rfl
    | exact List.length_filter_le _ _
    | exact Nat.zero_le _
    | (rw [List.length_tail]; exact Nat.sub_le _ _)
    | (rw [List.length_map]; assumption)
    | (dsimp only; assumption)
    | with_reducible apply ite_kept
    | split
    | dsimp only

theorem updSb_kept {q : List Instr} {k : Fin 4} {f : SbCt → SbCt} {s : State} (h : Kept q s) : Kept q (updSb s k f) := by
  unfold updSb
  repeat' first
    | with_reducible assumption
    | intro _
    | with_reducible apply ite_kept
    | split
    | dsimp only
    | with_reducible apply Kept.mem_bytes
    | with_reducible apply Kept.wmem_bytes
    | with_reducible apply Kept.wmem_words
    | with_reducible apply Kept.wmem_word
    | with_reducible apply Kept.mk_other

theorem sbAct_kept {q : List Instr} {k : Fin 4} {v : Nat} {s : State} (h : Kept q s) : Kept q (sbAct s k v) := by
  unfold sbAct
  repeat' first
    | with_reducible assumption
    | intro _
    | with_reducible apply wrf_kept
    | with_reducible apply ite_kept
    | split
    | dsimp only

theorem sbCfgErr_kept {q : List Instr} {k : Fin 4} {s : State} (h : Kept q s) : Kept q (sbCfgErr s k) := by
  unfold sbCfgErr
  repeat' first
    | with_reducible assumption
    | intro _
    | with_reducible apply wrb_kept
    | with_reducible apply ite_kept
    | split
    | dsimp only

theorem sbShowTriple_kept {q : List Instr} {k : Fin 4} {s : State} (h : Kept q s) : Kept q (sbShowTriple s k) := by
  unfold sbShowTriple
  repeat' first
    | with_reducible assumption
    | intro _
    | with_reducible apply wrb_kept
    | with_reducible apply ite_kept
    | split
    | dsimp only

theorem sbToInit_kept {q : List Instr} {k : Fin 4} {s : State} (h : Kept q s) : Kept q (sbToInit s k) := by
  unfold sbToInit
  repeat' first
    | with_reducible assumption
    | intro _
    | with_reducible apply wrf_kept
    | with_reducible apply updSb_kept
    | with_reducible apply sbAct_kept
    | with_reducible apply ite_kept
    | split
    | dsimp only

theorem sbSetMode_kept {q : List Instr} {k : Fin 4} {m : Nat} {s : State} (h : Kept q s) : Kept q (sbSetMode s k m) := by
  unfold sbSetMode
  repeat' first
    | with_reducible assumption
    | intro _
    | with_reducible apply wrf_kept
    | with_reducible apply sbToInit_kept
    | with_reducible apply updSb_kept
    | with_reducible apply sbAct_kept
    | with_reducible apply ite_kept
    | split
    | dsimp only

theorem sbRecover_kept {q : List Instr} {k : Fin 4} {s : State} (h : Kept q s) : Kept q (sbRecover s k) := by
  unfold sbRecover
  repeat' first
    | with_reducible assumption
    | intro _
    | with_reducible apply wrf_kept
    | with_reducible apply updSb_kept
    | with_reducible apply ite_kept
    | split
    | dsimp only

theorem sbSequence_kept {q : List Instr} {k : Fin 4} {s : State} (h : Kept q s) : Kept q (sbSequence s k) := by
  unfold sbSequence
  repeat' first
    | with_reducible assumption
    | intro _
    | with_reducible apply wrf_kept
    | with_reducible apply updSb_kept
    | with_reducible apply takeNat_kept
    | with_reducible apply ite_kept
    | split
    | dsimp only
    | (refine takeNat_keptE ?_ (by assumption))

theorem sbCtlWrite_kept {q : List Instr} {k : Fin 4} {v : Word} {s : State} (h : Kept q s) : Kept q (sbCtlWrite s k v) := by
  unfold sbCtlWrite
  repeat' first
    | with_reducible assumption
    | intro _
    | with_reducible apply sbCfgErr_kept
    | with_reducible apply sbSetMode_kept
    | with_reducible apply sbRecover_kept
    | with_reducible apply wr_kept
    | with_reducible apply sbShowTriple_kept
    | with_reducible apply ite_kept
    | split
    | dsimp only

theorem sbTimingWrite_kept {q : List Instr} {k : Fin 4} {a : Nat} {v : Word} {s : State} (h : Kept q s) : Kept q (sbTimingWrite s k a v) := by
  unfold sbTimingWrite
  repeat' first
    | with_reducible assumption
    | intro _
    | with_reducible apply sbCfgErr_kept
    | with_reducible apply wr_kept
    | with_reducible apply sbShowTriple_kept
    | with_reducible apply ite_kept
    | split
    | dsimp only

theorem sbFrameEnd_kept {q : List Instr} {k : Fin 4} {s : State} (h : Kept q s) : Kept q (sbFrameEnd s k) := by
  unfold sbFrameEnd
  repeat' first
    | with_reducible assumption
    | intro _
    | with_reducible apply sbToInit_kept
    | with_reducible apply sbAct_kept
    | with_reducible apply ite_kept
    | split
    | dsimp only

theorem sbPush_kept {q : List Instr} {k : Fin 4} {s : State} (h : Kept q s) : Kept q (sbPush s k) := by
  unfold sbPush
  repeat' first
    | with_reducible assumption
    | intro _
    | with_reducible apply wrf_kept
    | with_reducible apply wrb_kept
    | with_reducible apply ite_kept
    | split
    | dsimp only

theorem sbUrgReq_kept {q : List Instr} {k : Fin 4} {s : State} (h : Kept q s) : Kept q (sbUrgReq s k) := by
  unfold sbUrgReq
  repeat' first
    | with_reducible assumption
    | intro _
    | with_reducible apply wrb_kept
    | with_reducible apply ite_kept
    | split
    | dsimp only

theorem sbRemove_kept {q : List Instr} {k : Fin 4} {urg : Bool} {res : Nat} {s : State} (h : Kept q s) : Kept q (sbRemove s k urg res) := by
  unfold sbRemove
  repeat' first
    | with_reducible assumption
    | intro _
    | with_reducible apply wrf_kept
    | with_reducible apply wrb_kept
    | with_reducible apply ite_kept
    | split
    | dsimp only

theorem sbWithdraw_kept {q : List Instr} {k : Fin 4} {s : State} (h : Kept q s) : Kept q (sbWithdraw s k) := by
  unfold sbWithdraw
  repeat' first
    | with_reducible assumption
    | intro _
    | with_reducible apply updSb_kept
    | with_reducible apply ite_kept
    | split
    | dsimp only

theorem sbCancel_kept {q : List Instr} {k : Fin 4} {urg : Bool} {s : State} (h : Kept q s) : Kept q (sbCancel s k urg) := by
  unfold sbCancel
  repeat' first
    | with_reducible assumption
    | intro _
    | with_reducible apply updSb_kept
    | with_reducible apply sbRemove_kept
    | with_reducible apply ite_kept
    | split
    | dsimp only

theorem sbFlush_kept {q : List Instr} {k : Fin 4} {s : State} (h : Kept q s) : Kept q (sbFlush s k) := by
  unfold sbFlush
  repeat' first
    | with_reducible assumption
    | intro _
    | with_reducible apply wrf_kept
    | with_reducible apply when_kept
    | with_reducible apply sbCancel_kept
    | with_reducible apply ite_kept
    | split
    | dsimp only

theorem sbTxcWrite_kept {q : List Instr} {k : Fin 4} {v : Word} {s : State} (h : Kept q s) : Kept q (sbTxcWrite s k v) := by
  unfold sbTxcWrite
  repeat' first
    | with_reducible assumption
    | intro _
    | with_reducible apply sbFlush_kept
    | with_reducible apply when_kept
    | with_reducible apply sbUrgReq_kept
    | with_reducible apply sbPush_kept
    | with_reducible apply sbCancel_kept
    | with_reducible apply ite_kept
    | split
    | dsimp only

theorem sbOffer_kept {q : List Instr} {k : Fin 4} {s : State} (h : Kept q s) : Kept q (sbOffer s k) := by
  unfold sbOffer
  repeat' first
    | with_reducible assumption
    | intro _
    | with_reducible apply updSb_kept
    | with_reducible apply sbAct_kept
    | with_reducible apply ite_kept
    | split
    | dsimp only

theorem sbLost_kept {q : List Instr} {k : Fin 4} {s : State} (h : Kept q s) : Kept q (sbLost s k) := by
  unfold sbLost
  repeat' first
    | with_reducible assumption
    | intro _
    | with_reducible apply incf_kept
    | with_reducible apply sbWithdraw_kept
    | with_reducible apply when_kept
    | with_reducible apply sbRemove_kept
    | with_reducible apply sbAct_kept
    | with_reducible apply ite_kept
    | split
    | dsimp only

theorem sbWon_kept {q : List Instr} {k : Fin 4} {s : State} (h : Kept q s) : Kept q (sbWon s k) := by
  unfold sbWon
  repeat' first
    | with_reducible assumption
    | intro _
    | with_reducible apply updSb_kept
    | with_reducible apply sbWithdraw_kept
    | with_reducible apply sbRemove_kept
    | with_reducible apply sbFrameEnd_kept
    | with_reducible apply ite_kept
    | split
    | dsimp only

theorem sbCounters_kept {q : List Instr} {k : Fin 4} {tec : Nat} {rec : Nat} {s : State} (h : Kept q s) : Kept q (sbCounters s k tec rec) := by
  unfold sbCounters
  repeat' first
    | with_reducible assumption
    | intro _
    | with_reducible apply sbWithdraw_kept
    | with_reducible apply when_kept
    | with_reducible apply sbRecover_kept
    | with_reducible apply wr_kept
    | with_reducible apply setCond_kept
    | with_reducible apply wrb_kept
    | with_reducible apply ite_kept
    | split
    | dsimp only

theorem sbError_kept {q : List Instr} {k : Fin 4} {err : CanError} {dataPhase : Bool} {transmitter : Bool} {primary : Bool} {s : State} (h : Kept q s) : Kept q (sbError s k err dataPhase transmitter primary) := by
  unfold sbError
  repeat' first
    | with_reducible assumption
    | intro _
    | with_reducible apply wrf_kept
    | with_reducible apply sbCounters_kept
    | with_reducible apply sbWithdraw_kept
    | with_reducible apply when_kept
    | with_reducible apply sbRemove_kept
    | with_reducible apply sbFrameEnd_kept
    | with_reducible apply ite_kept
    | split
    | dsimp only

theorem sbRecoveryEnd_kept {q : List Instr} {k : Fin 4} {s : State} (h : Kept q s) : Kept q (sbRecoveryEnd s k) := by
  unfold sbRecoveryEnd
  repeat' first
    | with_reducible assumption
    | intro _
    | with_reducible apply wrf_kept
    | with_reducible apply sbCounters_kept
    | with_reducible apply updSb_kept
    | with_reducible apply sbAct_kept
    | with_reducible apply ite_kept
    | split
    | dsimp only

theorem sbShowFull_kept {q : List Instr} {k : Fin 4} {m : Fin 16} {s : State} (h : Kept q s) : Kept q (sbShowFull s k m) := by
  unfold sbShowFull
  repeat' first
    | with_reducible assumption
    | intro _
    | with_reducible apply wrb_kept
    | with_reducible apply ite_kept
    | split
    | dsimp only

theorem sbSetFull_kept {q : List Instr} {k : Fin 4} {m : Fin 16} {l : List Bool} {s : State} (h : Kept q s) : Kept q (sbSetFull s k m l) := by
  unfold sbSetFull
  repeat' first
    | with_reducible assumption
    | intro _
    | with_reducible apply sbShowFull_kept
    | with_reducible apply updSb_kept
    | with_reducible apply ite_kept
    | split
    | dsimp only

theorem sbStore_kept {q : List Instr} {k : Fin 4} {m : Fin 16} {f : CanFrame} {s : State} (h : Kept q s) :
    Kept q (sbStore s k m f) := by
  unfold sbStore
  exact when_kept (incf_kept (sbSetFull_kept (when_kept (h.wmem_mk (Memory.wf_writeWords _ _ _ (Memory.wf_writeBytes _ _ _
    (Memory.wf_writeWords _ _ _ h.wmem)))) (fun _ ht => incf_kept ht)))) (fun _ ht => raiseEvent_kept ht)

theorem sbAccept_kept {q : List Instr} {k : Fin 4} {f : CanFrame} {s : State} (h : Kept q s) : Kept q (sbAccept s k f) := by
  unfold sbAccept
  repeat' first
    | with_reducible assumption
    | intro _
    | with_reducible apply sbStore_kept
    | with_reducible apply incf_kept
    | with_reducible apply ite_kept
    | split
    | dsimp only

theorem sbException_kept {q : List Instr} {k : Fin 4} {s : State} (h : Kept q s) : Kept q (sbException s k) := by
  unfold sbException
  repeat' first
    | with_reducible assumption
    | intro _
    | with_reducible apply sbAct_kept
    | with_reducible apply sbFrameEnd_kept
    | with_reducible apply ite_kept
    | split
    | dsimp only

theorem sbReceived_kept {q : List Instr} {k : Fin 4} {f : CanFrame} {s : State} (h : Kept q s) : Kept q (sbReceived s k f) := by
  unfold sbReceived
  repeat' first
    | with_reducible assumption
    | intro _
    | with_reducible apply sbCounters_kept
    | with_reducible apply sbAccept_kept
    | with_reducible apply sbException_kept
    | with_reducible apply sbFrameEnd_kept
    | with_reducible apply takeNat_kept
    | with_reducible apply sbError_kept
    | with_reducible apply ite_kept
    | split
    | dsimp only
    | (refine takeNat_keptE ?_ (by assumption))

theorem sbSent_kept {q : List Instr} {k : Fin 4} {sof : Word} {s : State} (h : Kept q s) : Kept q (sbSent s k sof) := by
  unfold sbSent
  repeat' first
    | with_reducible assumption
    | intro _
    | with_reducible apply sbCounters_kept
    | with_reducible apply incf_kept
    | with_reducible apply sbAccept_kept
    | with_reducible apply sbWithdraw_kept
    | with_reducible apply when_kept
    | with_reducible apply sbRemove_kept
    | with_reducible apply sbFrameEnd_kept
    | with_reducible apply ite_kept
    | split
    | dsimp only

theorem sbAcquire_kept {q : List Instr} {k : Fin 4} {v : Word} {s : State} (h : Kept q s) : Kept q (sbAcquire s k v) := by
  unfold sbAcquire
  repeat' first
    | with_reducible assumption
    | intro _
    | with_reducible apply wrf_kept
    | with_reducible apply updSb_kept
    | with_reducible apply wrb_kept
    | with_reducible apply ite_kept
    | split
    | dsimp only

theorem sbRelease_kept {q : List Instr} {k : Fin 4} {s : State} (h : Kept q s) : Kept q (sbRelease s k) := by
  unfold sbRelease
  repeat' first
    | with_reducible assumption
    | intro _
    | with_reducible apply updSb_kept
    | with_reducible apply sbSetFull_kept
    | with_reducible apply wrb_kept
    | with_reducible apply ite_kept
    | split
    | dsimp only

end Sys2Proof.Machine
end

