-- ==== Sys2Proof/Laws/KeptPower.lean ====
section
/-! SUPPORT. What is kept (`Kept`) by each function of Machine/Power.lean. -/

namespace Sys2Proof.Machine

theorem updPwr_kept {q : List Instr} {f : Pwr → Pwr} {s : State} (h : Kept q s) : Kept q (updPwr s f) := by
  unfold updPwr
  repeat' first
    | with_reducible assumption
    | intro _
    | with_reducible apply ite_kept
    | split
    | dsimp only
    | with_reducible apply Kept.mem_bytes
    | with_reducible apply Kept.wmem_bytes
    | with_reducible apply Kept.wmem_words
    | with_reducible apply Kept.wmem_word
    | with_reducible apply Kept.mk_other

theorem fusesRead_kept {q : List Instr}  {s : State} (h : Kept q s) : Kept q (fusesRead s) := by
  unfold fusesRead
  repeat' first
    | with_reducible assumption
    | intro _
    | with_reducible apply forAll_kept
    | with_reducible apply wr_kept
    | with_reducible apply ite_kept
    | split
    | dsimp only

theorem fuseBlow_kept {q : List Instr} {ofs : Nat} {bits : Word} {s : State} (h : Kept q s) : Kept q (fuseBlow s ofs bits) := by
  unfold fuseBlow
  repeat' first
    | with_reducible assumption
    | intro _
    | with_reducible apply ite_kept
    | split
    | dsimp only
    | with_reducible apply Kept.mem_bytes
    | with_reducible apply Kept.wmem_bytes
    | with_reducible apply Kept.wmem_words
    | with_reducible apply Kept.wmem_word
    | with_reducible apply Kept.mk_other

theorem fuseCut_kept {q : List Instr} {m : Master} {s : State} (h : Kept q s) : Kept q (fuseCut s m) := by
  unfold fuseCut
  repeat' first
    | with_reducible assumption
    | intro _
    | with_reducible apply fuseBlow_kept
    | with_reducible apply takeNat_kept
    | with_reducible apply ite_kept
    | split
    | dsimp only
    | (refine takeNat_keptE ?_ (by assumption))

theorem entryCut_kept {q : List Instr} {w : Option (Nat × Nat)} {s : State} (h : Kept q s) : Kept q (entryCut s w) := by
  unfold entryCut
  split
  · exact h
  · with_reducible apply ite_kept
    · exact h
    · exact (takeWords_kept 7 h).wmem_words

theorem writesCut_kept {q : List Instr}  {s : State} (h : Kept q s) : Kept q (writesCut s) := by
  unfold writesCut
  repeat' first
    | with_reducible assumption
    | intro _
    | with_reducible apply updIsl_kept
    | with_reducible apply forAll_kept
    | with_reducible apply entryCut_kept
    | with_reducible apply fuseCut_kept
    | with_reducible apply ite_kept
    | split
    | dsimp only

theorem resetAll_kept {q : List Instr} {pwr : Pwr} {s : State} (h : Kept q s) : Kept q (resetAll s pwr) := by
  unfold resetAll
  apply wr_kept
  constructor
  · exact h.pending
  · exact smWf_smDrop resetOf s.regs (fun a => !islandReg a) h.regs
  · rfl
  · exact smWf_smDrop memUnlisted s.wmem (fun a => decide (0x200000 ≤ a ∧ a < 0x208000)) h.wmem
  · exact reset_reps
  · exact reset_calls
  · exact reset_fifo
  · exact reset_trace
  · exact reset_tags

theorem powerOnReset_kept {q : List Instr} {vioInRange : Bool} {s : State} (h : Kept q s) : Kept q (powerOnReset s vioInRange) := by
  unfold powerOnReset
  repeat' first
    | with_reducible assumption
    | intro _
    | with_reducible apply updIsl_kept
    | with_reducible apply writesCut_kept
    | with_reducible apply wr_kept
    | with_reducible apply resetAll_kept
    | with_reducible apply islPowerOnReset_kept
    | with_reducible apply updPwr_kept
    | with_reducible apply ite_kept
    | split
    | dsimp only

theorem nrstPress_kept {q : List Instr}  {s : State} (h : Kept q s) : Kept q (nrstPress s) := by
  unfold nrstPress
  repeat' first
    | with_reducible assumption
    | intro _
    | with_reducible apply writesCut_kept
    | with_reducible apply wr_kept
    | with_reducible apply resetAll_kept
    | with_reducible apply ite_kept
    | split
    | dsimp only

theorem liveSources_kept {q : List Instr}  {s : State} (h : Kept q s) : Kept q (liveSources s) := by
  unfold liveSources
  repeat' first
    | with_reducible assumption
    | intro _
    | with_reducible apply assertSource_kept
    | with_reducible apply forAll_kept
    | with_reducible apply when_kept
    | with_reducible apply newInstant_kept
    | with_reducible apply ite_kept
    | split
    | dsimp only

theorem bringUp_kept {q : List Instr} {testEn : Bool} {bootHost : Bool} {s : State} (h : Kept q s) : Kept q (bringUp s testEn bootHost) := by
  unfold bringUp
  repeat' first
    | with_reducible assumption
    | intro _
    | with_reducible apply updIsl_kept
    | with_reducible apply domainsOn_kept
    | with_reducible apply fusesRead_kept
    | with_reducible apply liveSources_kept
    | with_reducible apply setStage_kept
    | with_reducible apply showIsl_kept
    | with_reducible apply stageFor_kept
    | with_reducible apply updStw_kept
    | with_reducible apply wrb_kept
    | with_reducible apply updPwr_kept
    | with_reducible apply ite_kept
    | split
    | dsimp only

theorem porRelease_kept {q : List Instr} {testEn : Bool} {bootHost : Bool} {s : State} (h : Kept q s) : Kept q (porRelease s testEn bootHost) := by
  unfold porRelease
  repeat' first
    | with_reducible assumption
    | intro _
    | with_reducible apply bringUp_kept
    | with_reducible apply when_kept
    | with_reducible apply ite_kept
    | split
    | dsimp only

theorem nrstResetEnd_kept {q : List Instr} {testEn : Bool} {bootHost : Bool} {s : State} (h : Kept q s) : Kept q (nrstResetEnd s testEn bootHost) := by
  unfold nrstResetEnd
  repeat' first
    | with_reducible assumption
    | intro _
    | with_reducible apply bringUp_kept
    | with_reducible apply when_kept
    | with_reducible apply ite_kept
    | split
    | dsimp only

theorem nrstArmed_kept {q : List Instr}  {s : State} (h : Kept q s) : Kept q (nrstArmed s) := by
  unfold nrstArmed
  repeat' first
    | with_reducible assumption
    | intro _
    | with_reducible apply when_kept
    | with_reducible apply updPwr_kept
    | with_reducible apply ite_kept
    | split
    | dsimp only

theorem nrstStuck_kept {q : List Instr}  {s : State} (h : Kept q s) : Kept q (nrstStuck s) := by
  unfold nrstStuck
  repeat' first
    | with_reducible assumption
    | intro _
    | with_reducible apply wrb_kept
    | with_reducible apply updPwr_kept
    | with_reducible apply ite_kept
    | split
    | dsimp only

theorem pePerst_kept {q : List Instr} {level : Bool} {s : State} (h : Kept q s) : Kept q (pePerst s level) := by
  unfold pePerst
  repeat' first
    | with_reducible assumption
    | intro _
    | with_reducible apply pcieReset_kept
    | with_reducible apply updPwr_kept
    | with_reducible apply ite_kept
    | split
    | dsimp only

theorem bowRise_kept {q : List Instr}  {s : State} (h : Kept q s) : Kept q (bowRise s) := by
  unfold bowRise
  repeat' first
    | with_reducible assumption
    | intro _
    | with_reducible apply assertSource_kept
    | with_reducible apply incf_kept
    | with_reducible apply orReg_kept
    | with_reducible apply newInstant_kept
    | with_reducible apply updPwr_kept
    | with_reducible apply ite_kept
    | split
    | dsimp only

theorem bowFall_kept {q : List Instr}  {s : State} (h : Kept q s) : Kept q (bowFall s) := by
  unfold bowFall
  repeat' first
    | with_reducible assumption
    | intro _
    | with_reducible apply wrf_kept
    | with_reducible apply historyDrain_kept
    | with_reducible apply ledgerDrain_kept
    | with_reducible apply updHst_kept
    | with_reducible apply endCond_kept
    | with_reducible apply wdnNext_kept
    | with_reducible apply wrb_kept
    | exact Nat.le_refl _
    | rfl
    | exact List.length_filter_le _ _
    | exact Nat.zero_le _
    | (rw [List.length_tail]; exact Nat.sub_le _ _)
    | (rw [List.length_map]; assumption)
    | (dsimp only; assumption)
    | with_reducible apply ite_kept
    | split
    | dsimp only

theorem pwrCond_kept {q : List Instr} {b : Nat} {src : Nat} {on : Bool} {s : State} (h : Kept q s) : Kept q (pwrCond s b src on) := by
  unfold pwrCond
  repeat' first
    | with_reducible assumption
    | intro _
    | with_reducible apply newInstant_kept
    | with_reducible apply setCond_kept
    | with_reducible apply wrb_kept
    | with_reducible apply ite_kept
    | split
    | dsimp only

theorem sdrefLost_kept {q : List Instr}  {s : State} (h : Kept q s) : Kept q (sdrefLost s) := by
  unfold sdrefLost
  repeat' first
    | with_reducible assumption
    | intro _
    | with_reducible apply pwrCond_kept
    | with_reducible apply portsDown_kept
    | with_reducible apply ite_kept
    | split
    | dsimp only

theorem tempUpdate_kept {q : List Instr} {t : Half} {s : State} (h : Kept q s) : Kept q (tempUpdate s t) := by
  unfold tempUpdate
  repeat' first
    | with_reducible assumption
    | intro _
    | with_reducible apply wrf_kept
    | with_reducible apply when_kept
    | with_reducible apply ite_kept
    | split
    | dsimp only

theorem vcoreSample_kept {q : List Instr} {mv : Half} {s : State} (h : Kept q s) : Kept q (vcoreSample s mv) := by
  unfold vcoreSample
  repeat' first
    | with_reducible assumption
    | intro _
    | with_reducible apply wrf_kept
    | with_reducible apply when_kept
    | with_reducible apply ite_kept
    | split
    | dsimp only

theorem pwrCtl_kept {q : List Instr} {v : Word} {s : State} (h : Kept q s) : Kept q (pwrCtl s v) := by
  unfold pwrCtl
  repeat' first
    | with_reducible assumption
    | intro _
    | with_reducible apply wrf_kept
    | with_reducible apply when_kept
    | with_reducible apply ite_kept
    | split
    | dsimp only

theorem pdDrop_kept {q : List Instr} {d : Nat} {s : State} (h : Kept q s) : Kept q (pdDrop s d) := by
  have h1 := dropRegs_kept (p := pdAddr d) h
  have h2 := h1.mem_mk (smWf_smDrop memUnlisted _ (pdAddr d) h1.mem)
  unfold pdDrop
  dsimp only
  split
  · exact h2.wmem_mk (smWf_smDrop memUnlisted _ _ h2.wmem)
  · exact h2

theorem quadOff_kept {q : List Instr} {d : Nat} {s : State} (h : Kept q s) : Kept q (quadOff s d) := by
  unfold quadOff
  repeat' first
    | with_reducible assumption
    | intro _
    | with_reducible apply forAll_kept
    | with_reducible apply updEng_kept
    | with_reducible apply when_kept
    | with_reducible apply updAx_kept
    | with_reducible apply stwStopGroups_kept
    | with_reducible apply serveHeld_kept
    | exact Nat.le_refl _
    | rfl
    | exact List.length_filter_le _ _
    | exact Nat.zero_le _
    | (rw [List.length_tail]; exact Nat.sub_le _ _)
    | (rw [List.length_map]; assumption)
    | (dsimp only; assumption)
    | with_reducible apply ite_kept
    | split
    | dsimp only

theorem coresOff_kept {q : List Instr} {d : Nat} {s : State} (h : Kept q s) : Kept q (coresOff s d) := by
  unfold coresOff
  repeat' first
    | with_reducible assumption
    | intro _
    | with_reducible apply scSetRun_kept
    | with_reducible apply forAll_kept
    | with_reducible apply when_kept
    | with_reducible apply ite_kept
    | split
    | dsimp only

theorem dataOff_kept {q : List Instr}  {s : State} (h : Kept q s) : Kept q (dataOff s) := by
  unfold dataOff
  repeat' first
    | with_reducible assumption
    | intro _
    | with_reducible apply forAll_kept
    | with_reducible apply updAx_kept
    | with_reducible apply stwStopGroups_kept
    | with_reducible apply ite_kept
    | split
    | dsimp only
    | with_reducible apply Kept.mem_bytes
    | with_reducible apply Kept.wmem_bytes
    | with_reducible apply Kept.wmem_words
    | with_reducible apply Kept.wmem_word
    | with_reducible apply Kept.mk_other

theorem channelOff_kept {q : List Instr} {c : Bool} {s : State} (h : Kept q s) : Kept q (channelOff s c) := by
  unfold channelOff
  repeat' first
    | with_reducible assumption
    | intro _
    | with_reducible apply forAll_kept
    | with_reducible apply releaseChannel_kept
    | with_reducible apply when_kept
    | with_reducible apply portDown_kept
    | with_reducible apply updPort_kept
    | with_reducible apply updCh_kept
    | with_reducible apply endCond_kept
    | with_reducible apply dropRegs_kept
    | with_reducible apply ite_kept
    | split
    | dsimp only
    | with_reducible apply Kept.mem_bytes
    | with_reducible apply Kept.wmem_bytes
    | with_reducible apply Kept.wmem_words
    | with_reducible apply Kept.wmem_word
    | with_reducible apply Kept.mk_other

theorem fieldOff_kept {q : List Instr} {s : State} (h : Kept q s) : Kept q (fieldOff s) := by
  have h1 := tpOff_kept h
  unfold fieldOff
  dsimp only
  generalize tpOff s = t at h1
  exact ⟨h1.1, h1.2, h1.3, h1.4, h1.5, h1.6, reset_fifo, h1.8, h1.9⟩

theorem domainLost_kept {q : List Instr} {d : Nat} {s : State} (h : Kept q s) : Kept q (domainLost s d) := by
  unfold domainLost
  repeat' split
  all_goals first
    | with_reducible exact h
    | with_reducible exact quadOff_kept h
    | with_reducible exact coresOff_kept h
    | with_reducible exact dataOff_kept h
    | with_reducible exact channelOff_kept h
    | with_reducible exact pcieReset_kept h
    | with_reducible exact fieldOff_kept h
    | with_reducible exact h.fol_reset

theorem domainOff_kept {q : List Instr} {d : Nat} {s : State} (h : Kept q s) : Kept q (domainOff s d) := by
  unfold domainOff
  repeat' first
    | with_reducible assumption
    | intro _
    | with_reducible apply forAll_kept
    | with_reducible apply stwRaise_kept
    | with_reducible apply domainLost_kept
    | with_reducible apply endCond_kept
    | with_reducible apply newInstant_kept
    | with_reducible apply pdDrop_kept
    | with_reducible apply wrb_kept
    | with_reducible apply ite_kept
    | split
    | dsimp only

theorem domainOn_kept {q : List Instr} {d : Nat} {s : State} (h : Kept q s) : Kept q (domainOn s d) := by
  unfold domainOn
  repeat' first
    | with_reducible assumption
    | intro _
    | with_reducible apply stwRaise_kept
    | with_reducible apply loadField_kept
    | with_reducible apply wrb_kept
    | with_reducible apply ite_kept
    | split
    | dsimp only

theorem pdResult_kept {q : List Instr} {r : Nat} {s : State} (h : Kept q s) : Kept q (pdResult s r) := by
  unfold pdResult
  repeat' first
    | with_reducible assumption
    | intro _
    | with_reducible apply wrf_kept
    | with_reducible apply ite_kept
    | split
    | dsimp only

theorem pdBegin_kept {q : List Instr} {v : Word} {s : State} (h : Kept q s) : Kept q (pdBegin s v) := by
  unfold pdBegin
  repeat' first
    | with_reducible assumption
    | intro _
    | with_reducible apply pdResult_kept
    | with_reducible apply domainOff_kept
    | with_reducible apply wrb_kept
    | with_reducible apply updPwr_kept
    | with_reducible apply ite_kept
    | split
    | dsimp only

theorem pdRequest_kept {q : List Instr} {v : Word} {s : State} (h : Kept q s) : Kept q (pdRequest s v) := by
  unfold pdRequest
  repeat' first
    | with_reducible assumption
    | intro _
    | with_reducible apply pdBegin_kept
    | with_reducible apply updPwr_kept
    | with_reducible apply ite_kept
    | split
    | dsimp only

theorem pdSwitchDone_kept {q : List Instr}  {s : State} (h : Kept q s) : Kept q (pdSwitchDone s) := by
  unfold pdSwitchDone
  repeat' first
    | with_reducible assumption
    | intro _
    | with_reducible apply domainOn_kept
    | with_reducible apply pdResult_kept
    | with_reducible apply pdBegin_kept
    | with_reducible apply wrb_kept
    | with_reducible apply updPwr_kept
    | with_reducible apply ite_kept
    | split
    | dsimp only

theorem loadFails_kept {q : List Instr}  {s : State} (h : Kept q s) : Kept q (loadFails s) := by
  unfold loadFails
  repeat' first
    | with_reducible assumption
    | intro _
    | with_reducible apply wrf_kept
    | with_reducible apply forAll_kept
    | with_reducible apply setStage_kept
    | with_reducible apply domainOff_kept
    | with_reducible apply codexEnd_kept
    | with_reducible apply ite_kept
    | split
    | dsimp only

theorem loading_kept {q : List Instr} {ok : Bool} {s : State} (h : Kept q s) : Kept q (loading s ok) := by
  unfold loading
  repeat' first
    | with_reducible assumption
    | intro _
    | with_reducible apply forAll_kept
    | with_reducible apply sendTables_kept
    | with_reducible apply camArm_kept
    | with_reducible apply setStage_kept
    | with_reducible apply loadSections_kept
    | with_reducible apply when_kept
    | with_reducible apply loadFails_kept
    | with_reducible apply ite_kept
    | split
    | dsimp only

end Sys2Proof.Machine
end

