-- ==== Sys2Proof/Laws/KeptAccess.lean ====
section
/-! SUPPORT. What is kept (`Kept`) by each function of Machine/Regs.lean, Machine/Window.lean, Machine/Access.lean, Machine/BusRows.lean. -/

namespace Sys2Proof.Machine

theorem accRecord_kept {q : List Instr} {m : Master} {write : Bool} {reason : Nat} {a : Nat} {s : State} (h : Kept q s) : Kept q (accRecord s m write reason a) := by
  unfold accRecord
  repeat' first
    | with_reducible assumption
    | intro _
    | with_reducible apply hstIrq_kept
    | with_reducible apply wr_kept
    | with_reducible apply ite_kept
    | split
    | dsimp only

theorem regRead_kept {q : List Instr} {m : Master} {a : Nat} {s : State} (h : Kept q s) : Kept q (regRead s m a).2 := by
  unfold regRead
  repeat' first
    | with_reducible assumption
    | intro _
    | with_reducible apply mbRead_kept
    | with_reducible apply coreTake_kept
    | with_reducible apply wr_kept
    | split
    | dsimp only
    | (refine mbRead_keptE ?_ (by assumption))
    | (refine coreTake_keptE ?_ (by assumption))

theorem regRead_keptE {q : List Instr} {m : Master} {a : Nat} {s tR : State} {xR : Word} (h : Kept q s) (hE : regRead s m a = (xR, tR)) : Kept q tR := by
  have := regRead_kept (q := q) (m := m) (a := a) h
  rw [hE] at this
  exact this

theorem coreRun_kept {q : List Instr} {c : Fin 16} {run : Bool} {s : State} (h : Kept q s) : Kept q (coreRun s c run) := by
  unfold coreRun
  repeat' first
    | with_reducible assumption
    | intro _
    | with_reducible apply scSetRun_kept
    | with_reducible apply when_kept
    | with_reducible apply endCond_kept
    | with_reducible apply newInstant_kept
    | with_reducible apply ite_kept
    | split
    | dsimp only

theorem actEngine_kept {q : List Instr} {a : Nat} {locked : Bool} {w : Word} {p : Word} {s : State} (h : Kept q s) : Kept q (actEngine s a locked w p) := by
  unfold actEngine
  repeat' first
    | with_reducible assumption
    | intro _
    | with_reducible apply coreRun_kept
    | with_reducible apply modeWrite_kept
    | with_reducible apply when_kept
    | with_reducible apply debugStep_kept
    | with_reducible apply ite_kept
    | split
    | dsimp only

theorem actInkwell_kept {q : List Instr} {a : Nat} {p : Word} {s : State} (h : Kept q s) : Kept q (actInkwell s a p) := by
  unfold actInkwell
  repeat' first
    | with_reducible assumption
    | intro _
    | with_reducible apply bankRequest_kept
    | with_reducible apply slackClear_kept
    | with_reducible apply when_kept
    | with_reducible apply coreDone_kept
    | with_reducible apply setFlags_kept
    | with_reducible apply newInstant_kept
    | with_reducible apply ligRun_kept
    | with_reducible apply taskConfigured_kept
    | with_reducible apply ite_kept
    | split
    | dsimp only

theorem actDuctus_kept {q : List Instr} {a : Nat} {w : Word} {p : Word} {s : State} (h : Kept q s) : Kept q (actDuctus s a w p) := by
  unfold actDuctus
  repeat' first
    | with_reducible assumption
    | intro _
    | with_reducible apply camDisarm_kept
    | with_reducible apply camArm_kept
    | with_reducible apply when_kept
    | with_reducible apply portWrite7_kept
    | with_reducible apply ite_kept
    | split
    | dsimp only

theorem actPlenil_kept {q : List Instr} {a : Nat} {p : Word} {s : State} (h : Kept q s) : Kept q (actPlenil s a p) := by
  unfold actPlenil
  repeat' first
    | with_reducible assumption
    | intro _
    | with_reducible apply chCtlWrite_kept
    | with_reducible apply ringsTake_kept
    | with_reducible apply when_kept
    | with_reducible apply switchRequest_kept
    | with_reducible apply removeNode_kept
    | with_reducible apply resumeNode_kept
    | with_reducible apply ite_kept
    | split
    | dsimp only

theorem actField_kept {q : List Instr} {m : Master} {a : Nat} {locked : Bool} {cur : Word} {w : Word} {p : Word} {s : State} (h : Kept q s) : Kept q (actField s m a locked cur w p) := by
  unfold actField
  repeat' first
    | with_reducible assumption
    | intro _
    | with_reducible apply tpGo_kept
    | with_reducible apply accRecord_kept
    | with_reducible apply setPeriod_kept
    | with_reducible apply bslSet_kept
    | with_reducible apply setInc_kept
    | with_reducible apply when_kept
    | with_reducible apply tpStop_kept
    | with_reducible apply lfClear_kept
    | with_reducible apply lfEnable_kept
    | with_reducible apply ite_kept
    | split
    | dsimp only

theorem actFolio_kept {q : List Instr} {a : Nat} {p : Word} {s : State} (h : Kept q s) : Kept q (actFolio s a p) := by
  unfold actFolio
  repeat' first
    | with_reducible assumption
    | intro _
    | with_reducible apply folArm_kept
    | with_reducible apply folForce_kept
    | with_reducible apply when_kept
    | with_reducible apply folStop_kept
    | with_reducible apply wrb_kept
    | with_reducible apply ite_kept
    | split
    | dsimp only

theorem actServiceBus_kept {q : List Instr} {a : Nat} {w : Word} {p : Word} {s : State} (h : Kept q s) : Kept q (actServiceBus s a w p) := by
  unfold actServiceBus
  repeat' first
    | with_reducible assumption
    | intro _
    | with_reducible apply sbAcquire_kept
    | with_reducible apply sbCtlWrite_kept
    | with_reducible apply when_kept
    | with_reducible apply sbRelease_kept
    | with_reducible apply sbTimingWrite_kept
    | with_reducible apply sbTxcWrite_kept
    | with_reducible apply ite_kept
    | split
    | dsimp only

theorem actMargin_kept {q : List Instr} {a : Nat} {p : Word} {s : State} (h : Kept q s) : Kept q (actMargin s a p) := by
  unfold actMargin
  repeat' first
    | with_reducible assumption
    | intro _
    | with_reducible apply mgnClrWrite_kept
    | with_reducible apply when_kept
    | with_reducible apply mgnInject_kept
    | with_reducible apply mgnAckWrite_kept
    | with_reducible apply wrb_kept
    | with_reducible apply ite_kept
    | split
    | dsimp only

theorem ringCores_kept {q : List Instr} {p : Word} {s : State} (h : Kept q s) : Kept q (ringCores s p) := by
  unfold ringCores
  repeat' first
    | with_reducible assumption
    | intro _
    | with_reducible apply forAll_kept
    | with_reducible apply raiseEvent_kept
    | with_reducible apply when_kept
    | with_reducible apply scIrq_kept
    | with_reducible apply newInstant_kept
    | with_reducible apply ite_kept
    | split
    | dsimp only

theorem actHost_kept {q : List Instr} {m : Master} {a : Nat} {cur : Word} {w : Word} {p : Word} {s : State} (h : Kept q s) : Kept q (actHost s m a cur w p) := by
  unfold actHost
  repeat' first
    | with_reducible assumption
    | intro _
    | with_reducible apply queueReset_kept
    | with_reducible apply when_kept
    | with_reducible apply hstIrq_kept
    | with_reducible apply mbSelect_kept
    | with_reducible apply ringCores_kept
    | with_reducible apply wrb_kept
    | with_reducible apply ite_kept
    | split
    | dsimp only

theorem actWindow_kept {q : List Instr} {m : Master} {a : Nat} {w : Word} {p : Word} {s : State} (h : Kept q s) : Kept q (actWindow s m a w p) := by
  unfold actWindow
  repeat' first
    | with_reducible assumption
    | intro _
    | with_reducible apply codexCmd_kept
    | with_reducible apply when_kept
    | with_reducible apply wdnGo_kept
    | with_reducible apply draftJog_kept
    | with_reducible apply ite_kept
    | split
    | dsimp only

theorem regAct_kept {q : List Instr} {m : Master} {a : Nat} {k : Bool} {cur w p : Word} {s : State} (h : Kept q s) :
    Kept q (regAct s m a k cur w p) := by
  unfold regAct
  refine ite_kept (actEngine_kept h) ?_
  refine ite_kept (actInkwell_kept h) ?_
  refine ite_kept (actDuctus_kept h) ?_
  refine ite_kept (actPlenil_kept h) ?_
  refine ite_kept (actField_kept h) ?_
  refine ite_kept (actFolio_kept h) ?_
  refine ite_kept (actServiceBus_kept h) ?_
  refine ite_kept (actMargin_kept h) ?_
  refine ite_kept (actHost_kept h) ?_
  refine ite_kept (when_kept h (fun _ ht => pdRequest_kept ht)) ?_
  exact ite_kept (pwrCtl_kept h) (ite_kept (actWindow_kept h) h)

theorem regStore_kept {q : List Instr} {m : Master} {a : Nat} {r : RegRow} {w : Word} {s : State} (h : Kept q s) : Kept q (regStore s m a r w) := by
  unfold regStore
  repeat' first
    | with_reducible assumption
    | intro _
    | with_reducible apply accRecord_kept
    | with_reducible apply when_kept
    | with_reducible apply wr_kept
    | with_reducible apply ite_kept
    | split
    | dsimp only

theorem tpFullWrite_kept {q : List Instr} {a : Nat} {v : Word} {sel : Word} {s : State} (h : Kept q s) : Kept q (tpFullWrite s a v sel) := by
  unfold tpFullWrite
  repeat' first
    | with_reducible assumption
    | intro _
    | with_reducible apply tpReservedWrite_kept
    | with_reducible apply ite_kept
    | split
    | dsimp only

theorem regWrite_kept {q : List Instr} {m : Master} {a : Nat} {v : Word} {sel : Word} {s : State} (h : Kept q s) : Kept q (regWrite s m a v sel) := by
  unfold regWrite
  repeat' first
    | with_reducible assumption
    | intro _
    | with_reducible apply tpFullWrite_kept
    | with_reducible apply regStore_kept
    | with_reducible apply regAct_kept
    | with_reducible apply ite_kept
    | split
    | dsimp only

theorem winAnswer_kept {q : List Instr} {m : Master} {wa : Nat} {w : WinSite} {s : State} {r : Word × State}
    (h : Kept q s) (e : winAnswer s m wa w = some r) : Kept q r.2 := by
  unfold winAnswer at e
  repeat' split at e
  all_goals first | cases e | skip
  all_goals first | exact h | exact regRead_kept h

theorem fuseStart_kept {q : List Instr} {m : Master} {o : Nat} {v : Word} {s t : State} (h : Kept q s)
    (e : fuseStart s m o v = some t) : Kept q t := by
  unfold fuseStart at e
  dsimp only at e
  split at e
  · cases e; exact wrb_kept (updHst_kept h (fun _ => rfl))
  · cases e

theorem winTake_kept {q : List Instr} {m : Master} {wa : Nat} {v : Word} {w : WinSite} {s t : State}
    (h : Kept q s) (e : winTake s m wa v w = some t) : Kept q t := by
  unfold winTake at e
  repeat' split at e
  case h_5 => exact fuseStart_kept h e
  all_goals first | (cases e; done) | cases e
  all_goals first | exact regWrite_kept h | exact h.wmem_mk (Memory.wf_write32 s.wmem wa v h.wmem)

theorem winFail_kept {q : List Instr} {m : Master} {write : Bool} {wa : Nat} {s : State} (h : Kept q s) : Kept q (winFail s m write wa) := by
  unfold winFail
  repeat' first
    | with_reducible assumption
    | intro _
    | with_reducible apply accRecord_kept
    | with_reducible apply wrb_kept
    | with_reducible apply ite_kept
    | split
    | dsimp only

theorem winDrop_kept {q : List Instr} {m : Master} {wa : Nat} {v : Word} {s : State} (h : Kept q s) : Kept q (winDrop s m wa v) := by
  unfold winDrop
  repeat' first
    | with_reducible assumption
    | intro _
    | with_reducible apply when_kept
    | with_reducible apply winFail_kept
    | with_reducible apply wdnGo_kept
    | with_reducible apply ite_kept
    | split
    | dsimp only

theorem winRead_kept {q : List Instr} {m : Master} {wa : Nat} {s : State} (h : Kept q s) : Kept q (winRead s m wa).2 := by
  unfold winRead
  dsimp only
  split
  · split
    · exact winFail_kept h
    · rename_i t w _ _
      cases e : winAnswer s m wa w with
      | none => exact winFail_kept h
      | some r => exact winAnswer_kept h e
  · exact winFail_kept h

theorem winWrite_kept {q : List Instr} {m : Master} {wa : Nat} {v : Word} {s : State} (h : Kept q s) :
    Kept q (winWrite s m wa v) := by
  unfold winWrite
  dsimp only
  split
  · split
    · exact winDrop_kept h
    · rename_i t w _ _
      cases e : winTake s m wa v w with
      | none => exact winDrop_kept h
      | some r => exact winTake_kept h e
  · exact winDrop_kept h

theorem indStep_kept {q : List Instr} {m : Master} {s : State} (h : Kept q s) : Kept q (indStep s m) := by
  unfold indStep
  repeat' first
    | with_reducible assumption
    | intro _
    | with_reducible apply wrf_kept
    | with_reducible apply when_kept
    | with_reducible apply ite_kept
    | split
    | dsimp only

theorem indRead_kept {q : List Instr} {m : Master} {s : State} (h : Kept q s) : Kept q (indRead s m).2 := by
  unfold indRead
  repeat' first
    | with_reducible assumption
    | intro _
    | with_reducible apply indStep_kept
    | with_reducible apply winRead_kept
    | split
    | dsimp only
    | (refine winRead_keptE ?_ (by assumption))

theorem indRead_keptE {q : List Instr} {m : Master} {s tR : State} {xR : Word} (h : Kept q s) (hE : indRead s m = (xR, tR)) : Kept q tR := by
  have := indRead_kept (q := q) (m := m) h
  rw [hE] at this
  exact this

theorem indWrite_kept {q : List Instr} {m : Master} {v : Word} {s : State} (h : Kept q s) : Kept q (indWrite s m v) := by
  unfold indWrite
  repeat' first
    | with_reducible assumption
    | intro _
    | with_reducible apply indStep_kept
    | with_reducible apply winWrite_kept
    | with_reducible apply ite_kept
    | split
    | dsimp only

theorem fuseDone_kept {q : List Instr} {m : Master} {s : State} (h : Kept q s) : Kept q (fuseDone s m) := by
  unfold fuseDone
  repeat' first
    | with_reducible assumption
    | intro _
    | with_reducible apply fuseBlow_kept
    | with_reducible apply updHst_kept
    | with_reducible apply wrb_kept
    | exact Nat.le_refl _
    | rfl
    | exact List.length_filter_le _ _
    | exact Nat.zero_le _
    | (rw [List.length_tail]; exact Nat.sub_le _ _)
    | (rw [List.length_map]; assumption)
    | (dsimp only; assumption)
    | with_reducible apply ite_kept
    | split
    | dsimp only

theorem coreRefused_kept {q : List Instr} {m : Master} {cause : Word} {a : Nat} {s : State} (h : Kept q s) : Kept q (coreRefused s m cause a) := by
  unfold coreRefused
  repeat' first
    | with_reducible assumption
    | intro _
    | with_reducible apply coreTrap_kept
    | with_reducible apply scIrq_kept
    | with_reducible apply ite_kept
    | split
    | dsimp only

theorem aerReport_kept {q : List Instr} {m : Master} {write : Bool} {s : State} (h : Kept q s) : Kept q (aerReport s m write) := by
  unfold aerReport
  repeat' first
    | with_reducible assumption
    | intro _
    | with_reducible apply updHst_kept
    | with_reducible apply when_kept
    | exact Nat.le_refl _
    | rfl
    | exact List.length_filter_le _ _
    | exact Nat.zero_le _
    | (rw [List.length_tail]; exact Nat.sub_le _ _)
    | (rw [List.length_map]; assumption)
    | (dsimp only; assumption)
    | with_reducible apply ite_kept
    | split
    | dsimp only

theorem refuse_kept {q : List Instr} {m : Master} {write : Bool} {reason : Nat} {a : Nat} {s : State} (h : Kept q s) : Kept q (refuse s m write reason a) := by
  unfold refuse
  repeat' first
    | with_reducible assumption
    | intro _
    | with_reducible apply coreRefused_kept
    | with_reducible apply accRecord_kept
    | with_reducible apply respond_kept
    | with_reducible apply aerReport_kept
    | with_reducible apply ite_kept
    | split
    | dsimp only

theorem aliasRead_kept {q : List Instr} {m : Master} {a : Nat} {i : Nat} {s : State} (h : Kept q s) : Kept q (aliasRead s m a i).2 := by
  unfold aliasRead
  repeat' first
    | with_reducible assumption
    | intro _
    | with_reducible apply wr_kept
    | split
    | dsimp only

theorem aliasRead_keptE {q : List Instr} {m : Master} {a : Nat} {i : Nat} {s tR : State} {xR : Word} (h : Kept q s) (hE : aliasRead s m a i = (xR, tR)) : Kept q tR := by
  have := aliasRead_kept (q := q) (m := m) (a := a) (i := i) h
  rw [hE] at this
  exact this

theorem aliasWrite_kept {q : List Instr} {m : Master} {a : Nat} {i : Nat} {v : Word} {s : State} (h : Kept q s) : Kept q (aliasWrite s m a i v) := by
  unfold aliasWrite
  repeat' first
    | with_reducible assumption
    | intro _
    | with_reducible apply regWrite_kept
    | with_reducible apply ite_kept
    | split
    | dsimp only

theorem msixWrite_kept {q : List Instr} {o : Nat} {v : Word} {s : State} (h : Kept q s) : Kept q (msixWrite s o v) := by
  unfold msixWrite
  dsimp only
  refine ite_kept (ite_kept (sendVector_kept (updHst_kept (updHst_kept h ?_) ?_)) (updHst_kept h ?_)) h
  all_goals exact fun _ => rfl

theorem cfgWrite_kept {q : List Instr} {o : Nat} {l : Lanes} {v : Word} {s : State} (h : Kept q s) : Kept q (cfgWrite s o l v) := by
  unfold cfgWrite
  repeat' first
    | with_reducible assumption
    | intro _
    | with_reducible apply forAll_kept
    | with_reducible apply pcieReset_kept
    | with_reducible apply updHst_kept
    | with_reducible apply when_kept
    | with_reducible apply sendPending_kept
    | exact Nat.le_refl _
    | rfl
    | exact List.length_filter_le _ _
    | exact Nat.zero_le _
    | (rw [List.length_tail]; exact Nat.sub_le _ _)
    | (rw [List.length_map]; assumption)
    | (dsimp only; assumption)
    | with_reducible apply ite_kept
    | split
    | dsimp only

theorem holdRead_kept {q : List Instr} {m : Master} {e : Fin 16} {a : Nat} {fixed : Nat} {failed : Bool} {s : State} (h : Kept q s) : Kept q (holdRead s m e a fixed failed) := by
  unfold holdRead
  repeat' first
    | with_reducible assumption
    | intro _
    | with_reducible apply updEng_kept
    | exact Nat.le_refl _
    | rfl
    | exact List.length_filter_le _ _
    | exact Nat.zero_le _
    | (rw [List.length_tail]; exact Nat.sub_le _ _)
    | (rw [List.length_map]; assumption)
    | (dsimp only; assumption)
    | with_reducible apply ite_kept
    | split
    | dsimp only

theorem siteRead_kept {q : List Instr} {m : Master} {x : Site} {s : State} (h : Kept q s) : Kept q (siteRead s m x).2 := by
  cases x with
  | mem a => exact h
  | engMem e j a =>
    unfold siteRead
    dsimp only
    split
    · exact updEng_kept h (fun _ => Nat.le_refl _) (fun _ => Nat.le_refl _)
    · exact h
  | trace a => exact h
  | reg a =>
    unfold siteRead
    dsimp only
    split
    · exact indRead_kept h
    · exact regRead_kept h
  | bitOf a i => exact aliasRead_kept h
  | msix o => exact h
  | cfg o => exact h
  | ring wa =>
    unfold siteRead
    dsimp only
    split
    · exact indRead_kept h
    cases e : (ringSite wa).bind (winAnswer s m wa) with
    | none => exact h
    | some r =>
      obtain ⟨w, -, hw⟩ := Option.bind_eq_some_iff.mp e
      exact winAnswer_kept h hw

theorem storeLanes_kept {q : List Instr} {a : Nat} {v : Word} {a1 : Lanes} {s : State} (h : Kept q s) : Kept q (storeLanes s a v a1) := by
  unfold storeLanes
  repeat' first
    | with_reducible assumption
    | intro _
    | with_reducible apply forAll_kept
    | with_reducible apply mwr32_kept
    | with_reducible apply when_kept
    | with_reducible apply mwr8_kept
    | with_reducible apply ite_kept
    | split
    | dsimp only

theorem dropResv_kept {q : List Instr} {m : Master} {a : Nat} {s : State} (h : Kept q s) : Kept q (dropResv s m a) := by
  unfold dropResv
  repeat' first
    | with_reducible assumption
    | intro _
    | with_reducible apply ite_kept
    | split
    | dsimp only
    | with_reducible apply Kept.mem_bytes
    | with_reducible apply Kept.wmem_bytes
    | with_reducible apply Kept.wmem_words
    | with_reducible apply Kept.wmem_word
    | with_reducible apply Kept.mk_other

theorem siteWrite_kept {q : List Instr} {m : Master} {l : Lanes} {v : Word} {x : Site} {s : State} (h : Kept q s) :
    Kept q (siteWrite s m l v x) := by
  cases x with
  | mem a => exact storeLanes_kept (dropResv_kept h)
  | engMem e j a => exact storeLanes_kept h
  | trace a => exact h
  | reg a => exact ite_kept (indWrite_kept h) (regWrite_kept h)
  | bitOf a i => exact aliasWrite_kept h
  | msix o => exact msixWrite_kept h
  | cfg o => exact cfgWrite_kept h
  | ring wa =>
    unfold siteWrite
    dsimp only
    refine ite_kept (indWrite_kept h) ?_
    cases e : (ringSite wa).bind (winTake s m wa v) with
    | none => exact h
    | some r =>
      obtain ⟨w, -, hw⟩ := Option.bind_eq_some_iff.mp e
      exact winTake_kept h hw

theorem busRead_kept {q : List Instr} {m : Master} {a : Nat} {l : Lanes} {s : State} (h : Kept q s) :
    Kept q (busRead s m a l) := by
  unfold busRead
  split
  · exact respond_kept h
  · split
    · exact respond_kept (siteRead_kept h)
    · exact refuse_kept h
    · exact h

theorem busWrite_kept {q : List Instr} {m : Master} {a : Nat} {l : Lanes} {v : Word} {s : State} (h : Kept q s) : Kept q (busWrite s m a l v) := by
  unfold busWrite
  repeat' first
    | with_reducible assumption
    | intro _
    | with_reducible apply respond_kept
    | with_reducible apply refuse_kept
    | with_reducible apply siteWrite_kept
    | with_reducible apply ite_kept
    | split
    | dsimp only

theorem winCommand_kept {q : List Instr} {m : Master} {wa : Nat} {v : Word} {s : State} (h : Kept q s) : Kept q (winCommand s m wa v) := by
  unfold winCommand
  repeat' first
    | with_reducible assumption
    | intro _
    | with_reducible apply winWrite_kept
    | with_reducible apply respond_kept
    | with_reducible apply ite_kept
    | split
    | dsimp only

theorem coreFault_kept {q : List Instr} {c : Fin 16} {cause : BitVec 4} {addr : Half} {s : State} (h : Kept q s) : Kept q (coreFault s c cause addr) := by
  unfold coreFault
  repeat' first
    | with_reducible assumption
    | intro _
    | with_reducible apply wrf_kept
    | with_reducible apply assertSource_kept
    | with_reducible apply wr_kept
    | with_reducible apply coreStop_kept
    | with_reducible apply newInstant_kept
    | with_reducible apply ite_kept
    | split
    | dsimp only

theorem coreTimer_kept {q : List Instr} {c : Fin 16} {s : State} (h : Kept q s) : Kept q (coreTimer s c) := by
  unfold coreTimer
  repeat' first
    | with_reducible assumption
    | intro _
    | with_reducible apply when_kept
    | with_reducible apply coreWake_kept
    | with_reducible apply ite_kept
    | split
    | dsimp only

theorem setDet_kept {q : List Instr} {e : Fin 16} {l : List Detect} {s : State} (h : Kept q s) : Kept q (setDet s e l) := by
  unfold setDet
  repeat' first
    | with_reducible assumption
    | intro _
    | with_reducible apply updEng_kept
    | exact Nat.le_refl _
    | rfl
    | exact List.length_filter_le _ _
    | exact Nat.zero_le _
    | (rw [List.length_tail]; exact Nat.sub_le _ _)
    | (rw [List.length_map]; assumption)
    | (dsimp only; assumption)
    | with_reducible apply ite_kept
    | split
    | dsimp only

theorem memFixed_kept {q : List Instr} {n : Nat} {a1 : Site} {s : State} (h : Kept q s) : Kept q (memFixed s n a1) := by
  unfold memFixed
  repeat' first
    | with_reducible assumption
    | intro _
    | with_reducible apply when_kept
    | with_reducible apply corrected_kept
    | with_reducible apply scIrq_kept
    | with_reducible apply ite_kept
    | split
    | dsimp only

theorem memRetried_kept {q : List Instr} {a1 : Site} {s : State} (h : Kept q s) : Kept q (memRetried s a1) := by
  unfold memRetried
  repeat' first
    | with_reducible assumption
    | intro _
    | with_reducible apply assertSource_kept
    | with_reducible apply ite_kept
    | split
    | dsimp only

theorem localFailed_kept {q : List Instr} {m : Master} {b : Nat} {s : State} (h : Kept q s) : Kept q (localFailed s m b) := by
  unfold localFailed
  repeat' first
    | with_reducible assumption
    | intro _
    | with_reducible apply when_kept
    | with_reducible apply coreFault_kept
    | with_reducible apply ite_kept
    | split
    | dsimp only

theorem readFailed_kept {q : List Instr} {m : Master} {a : Nat} {l : Lanes} {x : Site} {s : State} (h : Kept q s) : Kept q (readFailed s m a l x) := by
  unfold readFailed
  repeat' first
    | with_reducible assumption
    | intro _
    | with_reducible apply assertSource_kept
    | with_reducible apply localFailed_kept
    | with_reducible apply respond_kept
    | with_reducible apply busRead_kept
    | with_reducible apply takeNat_kept
    | with_reducible apply refuse_kept
    | with_reducible apply newInstant_kept
    | with_reducible apply ite_kept
    | split
    | dsimp only
    | (refine takeNat_keptE ?_ (by assumption))

theorem readErr_kept {q : List Instr} {m : Master} {a : Nat} {l : Lanes} {x : Site} {a1 : MemDet} {s : State} (h : Kept q s) : Kept q (readErr s m a l x a1) := by
  unfold readErr
  repeat' first
    | with_reducible assumption
    | intro _
    | with_reducible apply readFailed_kept
    | with_reducible apply memRetried_kept
    | with_reducible apply busRead_kept
    | with_reducible apply memFixed_kept
    | with_reducible apply ite_kept
    | split
    | dsimp only

theorem readAt_kept {q : List Instr} {m : Master} {a : Nat} {l : Lanes} {d : MemDet} {x : Site} {s : State} (h : Kept q s) : Kept q (readAt s m a l d x) := by
  unfold readAt
  repeat' first
    | with_reducible assumption
    | intro _
    | with_reducible apply respond_kept
    | with_reducible apply readErr_kept
    | with_reducible apply holdRead_kept
    | with_reducible apply ite_kept
    | split
    | dsimp only

theorem readUnder_kept {q : List Instr} {m : Master} {a : Nat} {l : Lanes} {d : MemDet} {s : State} (h : Kept q s) : Kept q (readUnder s m a l d) := by
  unfold readUnder
  repeat' first
    | with_reducible assumption
    | intro _
    | with_reducible apply busRead_kept
    | with_reducible apply readAt_kept
    | with_reducible apply ite_kept
    | split
    | dsimp only

theorem writeUnder_kept {q : List Instr} {m : Master} {a : Nat} {l : Lanes} {v : Word} {d : MemDet} {s : State} (h : Kept q s) : Kept q (writeUnder s m a l v d) := by
  unfold writeUnder
  repeat' first
    | with_reducible assumption
    | intro _
    | with_reducible apply assertSource_kept
    | with_reducible apply localFailed_kept
    | with_reducible apply busWrite_kept
    | with_reducible apply memRetried_kept
    | with_reducible apply respond_kept
    | with_reducible apply memFixed_kept
    | with_reducible apply newInstant_kept
    | with_reducible apply ite_kept
    | split
    | dsimp only

theorem lbusNarrow_kept {q : List Instr} {a : Nat} {s : State} (h : Kept q s) : Kept q (lbusNarrow s a) := by
  unfold lbusNarrow
  repeat' first
    | with_reducible assumption
    | intro _
    | with_reducible apply respond_kept
    | with_reducible apply ite_kept
    | split
    | dsimp only

theorem lbusLoose_kept {q : List Instr} {a : Nat} {s : State} (h : Kept q s) : Kept q (lbusLoose s a) := by
  unfold lbusLoose
  repeat' first
    | with_reducible assumption
    | intro _
    | with_reducible apply lbusNarrow_kept
    | with_reducible apply respond_kept
    | with_reducible apply busRead_kept
    | with_reducible apply takeNat_kept
    | with_reducible apply refuse_kept
    | with_reducible apply ite_kept
    | split
    | dsimp only
    | (refine takeNat_keptE ?_ (by assumption))

theorem lbusRead_kept {q : List Instr} {a : Nat} {d : MemDet} {s : State} (h : Kept q s) : Kept q (lbusRead s a d) := by
  unfold lbusRead
  repeat' first
    | with_reducible assumption
    | intro _
    | with_reducible apply lbusNarrow_kept
    | with_reducible apply updHst_kept
    | with_reducible apply respond_kept
    | with_reducible apply busRead_kept
    | with_reducible apply lbusLoose_kept
    | with_reducible apply readUnder_kept
    | exact Nat.le_refl _
    | rfl
    | exact List.length_filter_le _ _
    | exact Nat.zero_le _
    | (rw [List.length_tail]; exact Nat.sub_le _ _)
    | (rw [List.length_map]; assumption)
    | (dsimp only; assumption)
    | with_reducible apply ite_kept
    | split
    | dsimp only

theorem lbusWrite_kept {q : List Instr} {a : Nat} {v : Half} {d : MemDet} {s : State} (h : Kept q s) : Kept q (lbusWrite s a v d) := by
  unfold lbusWrite
  repeat' first
    | with_reducible assumption
    | intro _
    | with_reducible apply writeUnder_kept
    | with_reducible apply busWrite_kept
    | with_reducible apply updHst_kept
    | with_reducible apply respond_kept
    | with_reducible apply refuse_kept
    | exact Nat.le_refl _
    | rfl
    | exact List.length_filter_le _ _
    | exact Nat.zero_le _
    | (rw [List.length_tail]; exact Nat.sub_le _ _)
    | (rw [List.length_map]; assumption)
    | (dsimp only; assumption)
    | with_reducible apply ite_kept
    | split
    | dsimp only

theorem lbusHalf_kept {q : List Instr} {addr : Word} {write : Option Half} {d : MemDet} {s : State} (h : Kept q s) : Kept q (lbusHalf s addr write d) := by
  unfold lbusHalf
  repeat' first
    | with_reducible assumption
    | intro _
    | with_reducible apply lbusWrite_kept
    | with_reducible apply lbusRead_kept
    | with_reducible apply respond_kept
    | with_reducible apply ite_kept
    | split
    | dsimp only

theorem stepWrite_kept {q : List Instr} {m : Master} {e : Fin 16} {k : DebugStep} {s : State} (h : Kept q s) : Kept q (stepWrite s m e k) := by
  unfold stepWrite
  repeat' first
    | with_reducible assumption
    | intro _
    | with_reducible apply busWrite_kept
    | with_reducible apply setDet_kept
    | with_reducible apply ite_kept
    | split
    | dsimp only

theorem accessNow_kept {q : List Instr} {m : Master} {a1 : BusAcc} {s : State} (h : Kept q s) : Kept q (accessNow s m a1) := by
  unfold accessNow
  repeat' first
    | with_reducible assumption
    | intro _
    | with_reducible apply lbusHalf_kept
    | with_reducible apply writeUnder_kept
    | with_reducible apply stepWrite_kept
    | with_reducible apply readUnder_kept
    | with_reducible apply winCommand_kept
    | with_reducible apply ite_kept
    | split
    | dsimp only

theorem setWait_kept {q : List Instr} {m : Master} {l : List BusAcc} {s : State} (h : Kept q s) : Kept q (setWait s m l) := by
  unfold setWait
  repeat' first
    | with_reducible assumption
    | intro _
    | with_reducible apply updHst_kept
    | exact Nat.le_refl _
    | rfl
    | exact List.length_filter_le _ _
    | exact Nat.zero_le _
    | (rw [List.length_tail]; exact Nat.sub_le _ _)
    | (rw [List.length_map]; assumption)
    | (dsimp only; assumption)
    | with_reducible apply ite_kept
    | split
    | dsimp only

theorem accessAll_kept {q : List Instr} {m : Master} (l : List BusAcc) : ∀ {s : State}, Kept q s → Kept q (accessAll m l s) := by
  induction l with
  | nil => exact fun h => h
  | cons c r ih =>
    intro s h
    unfold accessAll
    split
    · exact setWait_kept h
    · exact ih (accessNow_kept h)

theorem drain_kept {q : List Instr} {m : Master} {s : State} (h : Kept q s) : Kept q (drain s m) := by
  unfold drain
  repeat' first
    | with_reducible assumption
    | intro _
    | with_reducible apply accessAll_kept
    | with_reducible apply setWait_kept
    | with_reducible apply ite_kept
    | split
    | dsimp only

theorem access_kept {q : List Instr} {m : Master} {c : BusAcc} {s : State} (h : Kept q s) : Kept q (access s m c) := by
  unfold access
  repeat' first
    | with_reducible assumption
    | intro _
    | with_reducible apply respond_kept
    | with_reducible apply accessNow_kept
    | with_reducible apply setWait_kept
    | with_reducible apply drain_kept
    | with_reducible apply ite_kept
    | split
    | dsimp only

theorem indAccess_kept {q : List Instr} {m : Master} {write : Option Word} {vfuse : Bool} {s : State} (h : Kept q s) : Kept q (indAccess s m write vfuse) := by
  unfold indAccess
  repeat' first
    | with_reducible assumption
    | intro _
    | with_reducible apply access_kept
    | with_reducible apply ite_kept
    | split
    | dsimp only
    | with_reducible apply Kept.mem_bytes
    | with_reducible apply Kept.wmem_bytes
    | with_reducible apply Kept.wmem_words
    | with_reducible apply Kept.wmem_word
    | with_reducible apply Kept.mk_other

end Sys2Proof.Machine
end

