-- ==== Sys2Proof/Laws/KeptStroke.lean ====
section
/-! SUPPORT. What is kept (`Kept`) by each function of Machine/Stroke.lean. -/

namespace Sys2Proof.Machine

theorem strokeAdvance_kept {q : List Instr}  {s : State} (h : Kept q s) : Kept q (strokeAdvance s) := by
  unfold strokeAdvance
  repeat' first
    | with_reducible assumption
    | intro _
    | with_reducible apply wr_kept
    | with_reducible apply ite_kept
    | split
    | dsimp only

theorem markLatch_kept {q : List Instr}  {s : State} (h : Kept q s) : Kept q (markLatch s) := by
  unfold markLatch
  repeat' first
    | with_reducible assumption
    | intro _
    | with_reducible apply updBase_kept
    | with_reducible apply wrb_kept
    | with_reducible apply ite_kept
    | split
    | dsimp only

theorem nextMark_kept {q : List Instr}  {s : State} (h : Kept q s) : Kept q (nextMark s) := by
  unfold nextMark
  repeat' first
    | with_reducible assumption
    | intro _
    | with_reducible apply updBase_kept
    | with_reducible apply ite_kept
    | split
    | dsimp only

theorem modesPage_kept {q : List Instr}  {s : State} (h : Kept q s) : Kept q (modesPage s) := by
  unfold modesPage
  repeat' first
    | with_reducible assumption
    | intro _
    | with_reducible apply modePage_kept
    | with_reducible apply forAll_kept
    | with_reducible apply ite_kept
    | split
    | dsimp only

theorem coldPage_kept {q : List Instr}  {s : State} (h : Kept q s) : Kept q (coldPage s) := by
  unfold coldPage
  repeat' first
    | with_reducible assumption
    | intro _
    | with_reducible apply updPln_kept
    | with_reducible apply appoint_kept
    | with_reducible apply ite_kept
    | split
    | dsimp only

theorem pageBoundary_kept {q : List Instr} {pacePs : Half} {s : State} (h : Kept q s) : Kept q (pageBoundary s pacePs) := by
  unfold pageBoundary
  repeat' first
    | with_reducible assumption
    | intro _
    | with_reducible apply switchBoundary_kept
    | with_reducible apply coldPage_kept
    | with_reducible apply forAll_kept
    | with_reducible apply channelPage_kept
    | with_reducible apply scIrqAll_kept
    | with_reducible apply raiseEvent_kept
    | with_reducible apply portPage_kept
    | with_reducible apply when_kept
    | with_reducible apply switchPage_kept
    | with_reducible apply servicePage_kept
    | with_reducible apply hstIrq_kept
    | with_reducible apply inkPage_kept
    | with_reducible apply wr_kept
    | with_reducible apply modesPage_kept
    | with_reducible apply membersPage_kept
    | with_reducible apply dctPage_kept
    | with_reducible apply lfPage_kept
    | with_reducible apply ite_kept
    | split
    | dsimp only

theorem waveLatency_kept {q : List Instr} {crossed : Bool} {s : State} (h : Kept q s) : Kept q (waveLatency s crossed) := by
  unfold waveLatency
  repeat' first
    | with_reducible assumption
    | intro _
    | with_reducible apply ite_kept
    | split
    | dsimp only
    | with_reducible apply Kept.mem_bytes
    | with_reducible apply Kept.wmem_bytes
    | with_reducible apply Kept.wmem_words
    | with_reducible apply Kept.wmem_word
    | with_reducible apply Kept.mk_other

theorem clearFailed_kept {q : List Instr}  {s : State} (h : Kept q s) : Kept q (clearFailed s) := by
  unfold clearFailed
  repeat' first
    | with_reducible assumption
    | intro _
    | with_reducible apply updDct_kept
    | with_reducible apply ite_kept
    | split
    | dsimp only

theorem sendMark_kept {q : List Instr} {pacePs : Half} {s : State} (h : Kept q s) : Kept q (sendMark s pacePs) := by
  unfold sendMark
  repeat' first
    | with_reducible assumption
    | intro _
    | with_reducible apply clearFailed_kept
    | with_reducible apply sendTrain_kept
    | with_reducible apply strokeAdvance_kept
    | with_reducible apply phaseStroke_kept
    | with_reducible apply markLatch_kept
    | with_reducible apply tpStroke_kept
    | with_reducible apply when_kept
    | with_reducible apply updPln_kept
    | with_reducible apply pageBoundary_kept
    | with_reducible apply mastersStroke_kept
    | with_reducible apply folSample_kept
    | with_reducible apply nextMark_kept
    | with_reducible apply newInstant_kept
    | with_reducible apply waveLatency_kept
    | with_reducible apply ite_kept
    | split
    | dsimp only
    | with_reducible apply Kept.mem_bytes
    | with_reducible apply Kept.wmem_bytes
    | with_reducible apply Kept.wmem_words
    | with_reducible apply Kept.wmem_word
    | with_reducible apply Kept.mk_other

theorem axisSwap_kept {q : List Instr} {n : Fin 256} {s : State} (h : Kept q s) : Kept q (axisSwap s n) := by
  unfold axisSwap
  repeat' first
    | with_reducible assumption
    | intro _
    | with_reducible apply when_kept
    | with_reducible apply putFbFrom_kept
    | with_reducible apply updAx_kept
    | with_reducible apply putFb_kept
    | with_reducible apply ite_kept
    | split
    | dsimp only

theorem inputSwap_kept {q : List Instr}  {s : State} (h : Kept q s) : Kept q (inputSwap s) := by
  unfold inputSwap
  repeat' first
    | with_reducible assumption
    | intro _
    | with_reducible apply forAll_kept
    | with_reducible apply axisSwap_kept
    | with_reducible apply ite_kept
    | split
    | dsimp only

theorem settlement_kept {q : List Instr}  {s : State} (h : Kept q s) : Kept q (settlement s) := by
  unfold settlement
  repeat' first
    | with_reducible assumption
    | intro _
    | with_reducible apply when_kept
    | with_reducible apply transitionSettled_kept
    | with_reducible apply switchSettle_kept
    | with_reducible apply ite_kept
    | split
    | dsimp only

theorem waveStart_kept {q : List Instr}  {s : State} (h : Kept q s) : Kept q (waveStart s) := by
  unfold waveStart
  repeat' first
    | with_reducible assumption
    | intro _
    | with_reducible apply waveBegin_kept
    | with_reducible apply evalAll_kept
    | with_reducible apply draftBegin_kept
    | with_reducible apply ite_kept
    | split
    | dsimp only
    | with_reducible apply Kept.mem_bytes
    | with_reducible apply Kept.wmem_bytes
    | with_reducible apply Kept.wmem_words
    | with_reducible apply Kept.wmem_word
    | with_reducible apply Kept.mk_other

theorem freezeMark_kept {q : List Instr}  {s : State} (h : Kept q s) : Kept q (freezeMark s) := by
  unfold freezeMark
  repeat' first
    | with_reducible assumption
    | intro _
    | with_reducible apply forAll_kept
    | with_reducible apply writeDescriptor_kept
    | with_reducible apply nodeFreeze_kept
    | with_reducible apply bankSwaps_kept
    | with_reducible apply scIrqAll_kept
    | with_reducible apply reactionsTake_kept
    | with_reducible apply raiseEvent_kept
    | with_reducible apply joinQsClears_kept
    | with_reducible apply inputSwap_kept
    | with_reducible apply returnCheck_kept
    | with_reducible apply folSample_kept
    | with_reducible apply settlement_kept
    | with_reducible apply viewCopy_kept
    | with_reducible apply bankLoads_kept
    | with_reducible apply waveEnd_kept
    | with_reducible apply newInstant_kept
    | with_reducible apply waveStart_kept
    | with_reducible apply ite_kept
    | split
    | dsimp only
    | with_reducible apply Kept.mem_bytes
    | with_reducible apply Kept.wmem_bytes
    | with_reducible apply Kept.wmem_words
    | with_reducible apply Kept.wmem_word
    | with_reducible apply Kept.mk_other

theorem releaseMark_kept {q : List Instr}  {s : State} (h : Kept q s) : Kept q (releaseMark s) := by
  unfold releaseMark
  repeat' first
    | with_reducible assumption
    | intro _
    | with_reducible apply releaseChannel_kept
    | with_reducible apply raiseEvent_kept
    | with_reducible apply when_kept
    | with_reducible apply joinDecision_kept
    | with_reducible apply waveRelease_kept
    | with_reducible apply folSample_kept
    | with_reducible apply newInstant_kept
    | with_reducible apply ite_kept
    | split
    | dsimp only

end Sys2Proof.Machine
end

