-- ==== Sys2Proof/Laws/KeptScribe.lean ====
section
/-! SUPPORT. What is kept (`Kept`) by each function of Machine/Scribe.lean. -/

namespace Sys2Proof.Machine

theorem fetchFault_kept {q : List Instr} {c : Fin 16} {a : Word} {s : State} (h : Kept q s) : Kept q (fetchFault s c a) := by
  unfold fetchFault
  repeat' first
    | with_reducible assumption
    | intro _
    | with_reducible apply coreRefused_kept
    | with_reducible apply accRecord_kept
    | with_reducible apply coreTrap_kept
    | with_reducible apply ite_kept
    | split
    | dsimp only

theorem hartLoaded_kept {q : List Instr} {c : Fin 16} {l : HartLoad} {w : Word} {s : State} (h : Kept q s) : Kept q (hartLoaded s c l w) := by
  unfold hartLoaded
  repeat' first
    | with_reducible assumption
    | intro _
    | with_reducible apply updHart_kept
    | with_reducible apply ite_kept
    | split
    | dsimp only

theorem hartLoad_kept {q : List Instr} {c : Fin 16} {l : HartLoad} {s : State} (h : Kept q s) : Kept q (hartLoad s c l) := by
  unfold hartLoad
  extract_lets t
  have hb : Kept q t := busRead_kept h
  clear_value t
  with_reducible apply ite_kept
  · exact coreTrap_kept h
  · generalize hartResp t c = r
    cases r
    all_goals first
      | exact hartLoaded_kept hb
      | exact updHart_kept hb
      | exact hb

theorem hartWait_kept {q : List Instr} {c : Fin 16} {l : HartLoad} {s : State} (h : Kept q s) : Kept q (hartWait s c l) := by
  unfold hartWait
  repeat' first
    | with_reducible assumption
    | intro _
    | with_reducible apply updHart_kept
    | with_reducible apply when_kept
    | with_reducible apply hartLoaded_kept
    | with_reducible apply ite_kept
    | split
    | dsimp only

theorem hartStore_kept {q : List Instr} {c : Fin 16} {f : BitVec 3} {a : Word} {v : Word} {next : Word} {s : State} (h : Kept q s) : Kept q (hartStore s c f a v next) := by
  unfold hartStore
  repeat' first
    | with_reducible assumption
    | intro _
    | with_reducible apply updHart_kept
    | with_reducible apply busWrite_kept
    | with_reducible apply coreTrap_kept
    | with_reducible apply ite_kept
    | split
    | dsimp only

theorem hartLr_kept {q : List Instr} {c : Fin 16} {rd : Fin 32} {a : Word} {next : Word} {s : State} (h : Kept q s) : Kept q (hartLr s c rd a next) := by
  unfold hartLr
  repeat' first
    | with_reducible assumption
    | intro _
    | with_reducible apply updHart_kept
    | with_reducible apply hartLoad_kept
    | with_reducible apply ite_kept
    | split
    | dsimp only

theorem hartSc_kept {q : List Instr} {c : Fin 16} {rd : Fin 32} {a : Word} {v : Word} {next : Word} {s : State} (h : Kept q s) : Kept q (hartSc s c rd a v next) := by
  unfold hartSc
  repeat' first
    | with_reducible assumption
    | intro _
    | with_reducible apply updHart_kept
    | with_reducible apply busWrite_kept
    | with_reducible apply coreTrap_kept
    | with_reducible apply ite_kept
    | split
    | dsimp only

theorem hartAmo_kept {q : List Instr} {c : Fin 16} {op : RvAmo} {rd : Fin 32} {a : Word} {v : Word} {next : Word} {s : State} (h : Kept q s) : Kept q (hartAmo s c op rd a v next) := by
  unfold hartAmo
  repeat' first
    | with_reducible assumption
    | intro _
    | with_reducible apply updHart_kept
    | with_reducible apply busWrite_kept
    | with_reducible apply coreTrap_kept
    | with_reducible apply busRead_kept
    | with_reducible apply refuse_kept
    | with_reducible apply ite_kept
    | split
    | dsimp only

theorem hartCsr_kept {q : List Instr} {c : Fin 16} {f : BitVec 3} {rd : Fin 32} {src : Fin 32} {no : Nat} {next : Word} {s : State} (h : Kept q s) : Kept q (hartCsr s c f rd src no next) := by
  unfold hartCsr
  repeat' first
    | with_reducible assumption
    | intro _
    | with_reducible apply updHart_kept
    | with_reducible apply coreTrap_kept
    | with_reducible apply takeNat_kept
    | with_reducible apply ite_kept
    | split
    | dsimp only
    | (refine takeNat_keptE ?_ (by assumption))

theorem hartExec_kept {q : List Instr} {c : Fin 16} {i : RvInst} {len : Nat} {s : State} (h : Kept q s) : Kept q (hartExec s c i len) := by
  unfold hartExec
  repeat' first
    | with_reducible assumption
    | intro _
    | with_reducible apply wrf_kept
    | with_reducible apply updHart_kept
    | with_reducible apply hartLr_kept
    | with_reducible apply hartSc_kept
    | with_reducible apply hartAmo_kept
    | with_reducible apply hartStore_kept
    | with_reducible apply coreTrap_kept
    | with_reducible apply hartCsr_kept
    | with_reducible apply hartLoad_kept
    | with_reducible apply ite_kept
    | split
    | dsimp only

theorem hartFetch_kept {q : List Instr} {c : Fin 16} {s : State} (h : Kept q s) : Kept q (hartFetch s c) := by
  unfold hartFetch
  repeat' first
    | with_reducible assumption
    | intro _
    | with_reducible apply fetchFault_kept
    | with_reducible apply coreTrap_kept
    | with_reducible apply hartExec_kept
    | with_reducible apply ite_kept
    | split
    | dsimp only

theorem hartStep_kept {q : List Instr} {c : Fin 16} {s : State} (h : Kept q s) : Kept q (hartStep s c) := by
  unfold hartStep
  repeat' first
    | with_reducible assumption
    | intro _
    | with_reducible apply hartFetch_kept
    | with_reducible apply hartWait_kept
    | with_reducible apply coreTrap_kept
    | with_reducible apply coreWake_kept
    | with_reducible apply ite_kept
    | split
    | dsimp only

theorem coresRun_kept {q : List Instr}  {s : State} (h : Kept q s) : Kept q (coresRun s) := by
  unfold coresRun
  repeat' first
    | with_reducible assumption
    | intro _
    | with_reducible apply forAll_kept
    | with_reducible apply when_kept
    | with_reducible apply hartStep_kept
    | with_reducible apply ite_kept
    | split
    | dsimp only

theorem idle_kept {q : List Instr}  {s : State} (h : Kept q s) : Kept q (idle s) := by
  unfold idle
  repeat' first
    | with_reducible assumption
    | intro _
    | with_reducible apply forAll_kept
    | with_reducible apply stageTick_kept
    | with_reducible apply coresRun_kept
    | with_reducible apply lineSample_kept
    | with_reducible apply baselineTick_kept
    | with_reducible apply drain_kept
    | with_reducible apply sbSequence_kept
    | with_reducible apply ite_kept
    | split
    | dsimp only

end Sys2Proof.Machine
end

