-- ==== Sys2Proof/Laws/Quill.lean ====
section
/-! SUPPORT. What the operations of a Quill engine leave in the engine's registers and in its memories. -/

namespace Sys2Proof.Machine

@[simp] theorem eng_wr (s : State) (a : Nat) (v : Word) (e : Fin 16) : eng (wr s a v) e = eng s e := (rfl)
@[simp] theorem eng_wrb (s : State) (a i : Nat) (v : Bool) (e : Fin 16) : eng (wrb s a i v) e = eng s e := (rfl)
@[simp] theorem eng_wrf (s : State) (a lo n v : Nat) (e : Fin 16) : eng (wrf s a lo n v) e = eng s e := (rfl)
@[simp] theorem eng_incf (s : State) (a lo n : Nat) (e : Fin 16) : eng (incf s a lo n) e = eng s e := (rfl)
@[simp] theorem eng_mwr16 (s : State) (a : Nat) (v : Half) (e : Fin 16) : eng (mwr16 s a v) e = eng s e := (rfl)
@[simp] theorem eng_updAx (s : State) (n : Fin 256) (f : AxisSt → AxisSt) (e : Fin 16) : eng (updAx s n f) e = eng s e := (rfl)
@[simp] theorem eng_updGrp (s : State) (n : Fin 32) (f : GroupSt → GroupSt) (e : Fin 16) :
    eng (updGrp s n f) e = eng s e := (rfl)
theorem rd_updEng (s : State) (e : Fin 16) (f : QEng → QEng) (a : Nat) : rd (updEng s e f) a = rd s a := rfl

theorem when_eq (c : Bool) (s : State) (f : State → State) : when c s f = if c = true then f s else s := rfl

@[simp] theorem eng_qWrite (s : State) (e : Fin 16) (y : Bool) (w : BitVec 14) (v : Half) (e' : Fin 16) :
    eng (qWrite s e y w v) e' = eng s e' := by
  unfold qWrite
  split <;> rfl

/-- The registers of the engine after a move field: D and the pointers alone may change. -/
theorem eng_qMove (s : State) (e : Fin 16) (g : QEng) (y : Bool) (mv : Option QMove) (quiet : Bool) :
    eng (qMove s e g y mv quiet) e =
      { eng s e with
        d := (eng (qMove s e g y mv quiet) e).d
        x := (eng (qMove s e g y mv quiet) e).x
        y := (eng (qMove s e g y mv quiet) e).y } := by
  cases mv with
  | none => rfl
  | some v =>
    obtain ⟨store, d, p, mod⟩ := v
    cases store <;> cases quiet <;> cases y <;> simp [qMove, setPtr, setD]

/-- A D register after a move field. -/
theorem d_qMove (s : State) (e : Fin 16) (g : QEng) (y : Bool) (mv : Option QMove) (quiet : Bool) (d : Fin 8) :
    (eng (qMove s e g y mv quiet) e).d[d] =
      if quiet then (eng s e).d[d] else
        (mv.bind (fun m => if m.store = false ∧ m.d = d then some (qRead s e y (ptr g y m.p)) else none)).getD
          (eng s e).d[d] := by
  cases mv with
  | none => cases quiet <;> rfl
  | some v =>
    obtain ⟨store, n, p, mod⟩ := v
    have h : ∀ (t : Tab 8 Half) (v : Half), (t.put n v)[d] = if n = d then v else t[d] := by
      intro t v
      unfold Tab.put
      rw [Fin.getElem_fin, Vector.getElem_set, Fin.getElem_fin]
      simp only [Fin.ext_iff]
    cases store <;> cases quiet <;> cases y <;> simp [qMove, setPtr, setD, h] <;> split <;> rfl

/-- An X or Y pointer after a move field of memory `y`. -/
theorem ptr_qMove (s : State) (e : Fin 16) (g : QEng) (y : Bool) (mv : Option QMove) (quiet z : Bool) (p : Fin 4) :
    ptr (eng (qMove s e g y mv quiet) e) z p =
      if z = y then
        (mv.bind (fun m => if m.p = p then some (postMod g y p m.mod 1) else none)).getD (ptr (eng s e) z p)
      else ptr (eng s e) z p := by
  cases mv with
  | none => cases y <;> cases z <;> rfl
  | some v =>
    obtain ⟨store, n, q, mod⟩ := v
    have h : ∀ (t : Tab 4 (BitVec 14)) (v : BitVec 14), (t.put q v)[p] = if q = p then v else t[p] := by
      intro t v
      unfold Tab.put
      rw [Fin.getElem_fin, Vector.getElem_set, Fin.getElem_fin]
      simp only [Fin.ext_iff]
    cases store <;> cases quiet <;> cases y <;> cases z <;> simp [qMove, setPtr, setD, ptr, h] <;>
      (by_cases hq : q = p <;> simp [hq])

/-- The memory after a move field. -/
theorem mem_qMove (s : State) (e : Fin 16) (g : QEng) (y : Bool) (mv : Option QMove) (quiet : Bool) :
    (qMove s e g y mv quiet).mem =
      match mv with
      | none => s.mem
      | some v => if v.store then (qWrite s e y (ptr g y v.p) g.d[v.d]).mem else s.mem := by
  cases mv with
  | none => rfl
  | some v =>
    obtain ⟨store, d, p, mod⟩ := v
    cases store <;> cases quiet <;> simp [qMove, setPtr, setD]

theorem wmem_qMove (s : State) (e : Fin 16) (g : QEng) (y : Bool) (mv : Option QMove) (quiet : Bool) :
    (qMove s e g y mv quiet).wmem = s.wmem := by
  cases mv with
  | none => rfl
  | some v =>
    obtain ⟨store, d, p, mod⟩ := v
    cases store <;> cases quiet <;> simp only [qMove, setPtr, setD, qWrite] <;> (try split) <;> (try split) <;> rfl

/-- The registers beside QE_STICKY.DESC_WR after a move field. -/
theorem rd_qWrite (s : State) (e : Fin 16) (y : Bool) (w : BitVec 14) (v : Half) {a : Nat} (h : a ≠ Reg.QE_STICKY e) :
    rd (qWrite s e y w v) a = rd s a := by
  unfold qWrite
  split
  · exact rd_wrb_ne s _ _ h
  · rfl

theorem rdb_qWrite (s : State) (e : Fin 16) (y : Bool) (w : BitVec 14) (v : Half) {i : Nat} (h : i ≠ 3) :
    rdb (qWrite s e y w v) (Reg.QE_STICKY e) i = rdb s (Reg.QE_STICKY e) i := by
  unfold qWrite
  split
  · exact rdb_wrb_ne s _ _ h
  · rfl

theorem rd_qMove (s : State) (e : Fin 16) (g : QEng) (y : Bool) (mv : Option QMove) (quiet : Bool) {a : Nat}
    (h : a ≠ Reg.QE_STICKY e) : rd (qMove s e g y mv quiet) a = rd s a := by
  cases mv with
  | none => rfl
  | some v =>
    obtain ⟨store, d, p, mod⟩ := v
    cases store
    · cases quiet <;> rfl
    · cases quiet <;> exact rd_qWrite s e y _ _ h

theorem rdb_qMove (s : State) (e : Fin 16) (g : QEng) (y : Bool) (mv : Option QMove) (quiet : Bool) {i : Nat}
    (h : i ≠ 3) : rdb (qMove s e g y mv quiet) (Reg.QE_STICKY e) i = rdb s (Reg.QE_STICKY e) i := by
  cases mv with
  | none => rfl
  | some v =>
    obtain ⟨store, d, p, mod⟩ := v
    cases store
    · cases quiet <;> rfl
    · cases quiet <;> exact rdb_qWrite s e y _ _ h

/-! ## The arithmetic of P format changes an accumulator and SR alone. -/

@[simp] theorem parArith_d (op : POp) (f : PFmt) (g : QEng) : (parArith op f g).d = g.d := by
  cases op <;> simp only [parArith, opSat] <;> (try split) <;> rfl
@[simp] theorem parArith_x (op : POp) (f : PFmt) (g : QEng) : (parArith op f g).x = g.x := by
  cases op <;> simp only [parArith, opSat] <;> (try split) <;> rfl
@[simp] theorem parArith_y (op : POp) (f : PFmt) (g : QEng) : (parArith op f g).y = g.y := by
  cases op <;> simp only [parArith, opSat] <;> (try split) <;> rfl
@[simp] theorem parArith_m (op : POp) (f : PFmt) (g : QEng) : (parArith op f g).m = g.m := by
  cases op <;> simp only [parArith, opSat] <;> (try split) <;> rfl
@[simp] theorem parArith_k (op : POp) (f : PFmt) (g : QEng) : (parArith op f g).k = g.k := by
  cases op <;> simp only [parArith, opSat] <;> (try split) <;> rfl
@[simp] theorem parArith_gb (op : POp) (f : PFmt) (g : QEng) : (parArith op f g).gb = g.gb := by
  cases op <;> simp only [parArith, opSat] <;> (try split) <;> rfl
@[simp] theorem parArith_reps (op : POp) (f : PFmt) (g : QEng) : (parArith op f g).reps = g.reps := by
  cases op <;> simp only [parArith, opSat] <;> (try split) <;> rfl
@[simp] theorem parArith_calls (op : POp) (f : PFmt) (g : QEng) : (parArith op f g).calls = g.calls := by
  cases op <;> simp only [parArith, opSat] <;> (try split) <;> rfl
@[simp] theorem parArith_axn (op : POp) (f : PFmt) (g : QEng) : (parArith op f g).axn = g.axn := by
  cases op <;> simp only [parArith, opSat] <;> (try split) <;> rfl
@[simp] theorem parArith_pc (op : POp) (f : PFmt) (g : QEng) : (parArith op f g).pc = g.pc := by
  cases op <;> simp only [parArith, opSat] <;> (try split) <;> rfl
@[simp] theorem parArith_run (op : POp) (f : PFmt) (g : QEng) : (parArith op f g).run = g.run := by
  cases op <;> simp only [parArith, opSat] <;> (try split) <;> rfl
@[simp] theorem parArith_cause (op : POp) (f : PFmt) (g : QEng) : (parArith op f g).cause = g.cause := by
  cases op <;> simp only [parArith, opSat] <;> (try split) <;> rfl
@[simp] theorem parArith_mode (op : POp) (f : PFmt) (g : QEng) : (parArith op f g).mode = g.mode := by
  cases op <;> simp only [parArith, opSat] <;> (try split) <;> rfl
@[simp] theorem parArith_nextMode (op : POp) (f : PFmt) (g : QEng) : (parArith op f g).nextMode = g.nextMode := by
  cases op <;> simp only [parArith, opSat] <;> (try split) <;> rfl
@[simp] theorem parArith_list (op : POp) (f : PFmt) (g : QEng) : (parArith op f g).list = g.list := by
  cases op <;> simp only [parArith, opSat] <;> (try split) <;> rfl
@[simp] theorem parArith_held (op : POp) (f : PFmt) (g : QEng) : (parArith op f g).held = g.held := by
  cases op <;> simp only [parArith, opSat] <;> (try split) <;> rfl
@[simp] theorem parArith_startTick (op : POp) (f : PFmt) (g : QEng) : (parArith op f g).startTick = g.startTick := by
  cases op <;> simp only [parArith, opSat] <;> (try split) <;> rfl

/-! ## Memory words -/

theorem Memory.read16_write16 (m : Memory) (a : Nat) (v : Half) : (m.write16 a v).read16 a = v := by
  unfold Memory.read16 Memory.write16 Memory.write Memory.read halfOf
  rw [smGet_smSet, if_pos rfl, smGet_smSet, if_neg (by omega), smGet_smSet, if_pos rfl]
  apply BitVec.eq_of_toNat_eq
  have := v.isLt
  simp only [BitVec.toNat_append, BitVec.toNat_ofNat]
  rw [← Nat.shiftLeft_add_eq_or_of_lt (by omega)]
  rw [Nat.shiftRight_eq_div_pow, Nat.shiftLeft_eq]
  omega

theorem Memory.read16_write16_ne (m : Memory) (a b : Nat) (v : Half) (h : b + 1 < a ∨ a + 1 < b) :
    (m.write16 a v).read16 b = m.read16 b := by
  unfold Memory.read16
  rw [Memory.read_write16_ne _ _ _ _ (by omega), Memory.read_write16_ne _ _ _ _ (by omega)]

theorem qAddr_x (e : Fin 16) (w : BitVec 14) : qAddr e false w = engBase e + 2 * w.toNat := rfl
theorem qAddr_y (e : Fin 16) (w : BitVec 14) : qAddr e true w = engBase e + 0x10000 + 2 * w.toNat := rfl

theorem qAddr_apart (e : Fin 16) {y z : Bool} {v w : BitVec 14} (h : y ≠ z ∨ v ≠ w) :
    qAddr e y v + 1 < qAddr e z w ∨ qAddr e z w + 1 < qAddr e y v := by
  have hv := v.isLt
  have hw := w.isLt
  have hn : v ≠ w → v.toNat ≠ w.toNat := fun hne c => hne (BitVec.eq_of_toNat_eq c)
  unfold qAddr
  cases y <;> cases z <;> simp only [if_true, if_false, Bool.false_eq_true] <;>
    first
      | (rcases h with h | h
         · exact absurd rfl h
         · have := hn h; omega)
      | omega

/-- A store of a data word, read back. -/
theorem qRead_qWrite (s : State) (e : Fin 16) (y : Bool) (w : BitVec 14) (v : Half) (h : y = true ∨ 16 ≤ w.toNat) :
    qRead (qWrite s e y w v) e y w = v := by
  unfold qWrite qRead mrd16
  rw [if_neg (by rcases h with h | h <;> simp [h])]
  exact Memory.read16_write16 _ _ _

theorem qRead_qWrite_ne (s : State) (e : Fin 16) {y z : Bool} {w w' : BitVec 14} (v : Half) (h : z ≠ y ∨ w' ≠ w) :
    qRead (qWrite s e y w v) e z w' = qRead s e z w' := by
  unfold qWrite qRead mrd16
  split
  · rfl
  · exact Memory.read16_write16_ne _ _ _ _ (qAddr_apart e h)

theorem read_qWrite (s : State) (e : Fin 16) (y : Bool) (w : BitVec 14) (v : Half) (b : Nat)
    (h : (y = true ∨ 16 ≤ w.toNat) → b ≠ qAddr e y w ∧ b ≠ qAddr e y w + 1) :
    (qWrite s e y w v).mem.read b = s.mem.read b := by
  unfold qWrite
  split
  · rfl
  · rename_i hc
    have h1 := h (by
      cases y
      · exact Or.inr (by simpa using hc)
      · exact Or.inl rfl)
    exact Memory.read_write16_ne _ _ _ _ (by omega)

/-! ## The run of an instruction -/

theorem runInstr_clean (e : Fin 16) (i : QInstr) (s : State) (h : (eng s e).run = .running) :
    runInstr e .clean i s = advance (instrEffect i e s).1 e (instrEffect i e s).2 := by
  simp [runInstr, engIdle, h, attemptGood, corrected, Detect.clean]

theorem eng_advance_adv (s : State) (e : Fin 16) : eng (advance s e .adv) e =
    { eng s e with pc := (loopBack (eng s e).pc (eng s e).reps).1, reps := (loopBack (eng s e).pc (eng s e).reps).2 } := by
  simp [advance]

theorem eng_when (c : Bool) (s : State) (f : State → State) (e : Fin 16) :
    eng (when c s f) e = if c then eng (f s) e else eng s e := by
  unfold when
  split <;> simp_all

end Sys2Proof.Machine
end

