-- ==== Sys2Proof/Laws/Sources.lean ====
section
/-! SUPPORT. A report never clears a recorded source (`Sourced`), and an event source records itself (R501, R518). -/

namespace Sys2Proof.Machine

/-- The registers beside MGN_SRC. -/
def srcFree (a : Nat) : Bool := decide (a < 0x04700100) || decide (0x04700140 ≤ a)

theorem srcFree_iff (a : Nat) : srcFree a = true ↔ a < 0x04700100 ∨ 0x04700140 ≤ a := by
  simp only [srcFree, Bool.or_eq_true, decide_eq_true_eq]

theorem srcFree_irqPend (c : Fin 16) : srcFree (Reg.SC_IRQ_PEND c) = true := by
  rw [srcFree_iff]; unfold Reg.SC_IRQ_PEND; omega

theorem srcFree_tflag (t : Fin 512) : srcFree (Reg.INK_TFLAG t) = true := by
  rw [srcFree_iff]; unfold Reg.INK_TFLAG; omega

theorem srcFree_tstat (t : Fin 512) : srcFree (Reg.INK_TSTAT t) = true := by
  rw [srcFree_iff]; unfold Reg.INK_TSTAT; omega

theorem srcFree_cls {c : Nat} (h : c < 64) : srcFree (Reg.MGN_CLS c) = true := by
  rw [srcFree_iff]; unfold Reg.MGN_CLS; omega

theorem srcFree_pend {c : Nat} (h : c < 64) : srcFree (Reg.MGN_PEND (c / 32)) = true := by
  rw [srcFree_iff]; unfold Reg.MGN_PEND; omega

theorem srcFree_act {n : Nat} (h : n < 512) : srcFree (Reg.MGN_ACT (n / 32)) = true := by
  rw [srcFree_iff]; unfold Reg.MGN_ACT; omega

/-- Every source recorded in `s` stands recorded in `t`. -/
structure Sourced (s t : State) : Prop where
  keeps : ∀ i j, i < 16 → rdb s (Reg.MGN_SRC i) j = true → rdb t (Reg.MGN_SRC i) j = true

theorem Sourced.refl (s : State) : Sourced s s := ⟨fun _ _ _ h => h⟩

theorem Sourced.of_regs {s t u : State} (h : Sourced s t) (hr : u.regs = t.regs) : Sourced s u := by
  refine ⟨fun i j hi hb => ?_⟩
  rw [rdb, rd, hr]
  exact h.keeps i j hi hb

theorem wr_sourced {s t : State} {a : Nat} {v : Word} (h : Sourced s t) (ha : srcFree a = true) : Sourced s (wr t a v) := by
  refine ⟨fun i j hi hb => ?_⟩
  have hne : Reg.MGN_SRC i ≠ a := fun e => by
    rw [srcFree_iff, ← e] at ha
    unfold Reg.MGN_SRC at ha
    omega
  rw [rdb, rd_wr_ne t v hne]
  exact h.keeps i j hi hb

theorem wrf_sourced {s t : State} {a lo n v : Nat} (h : Sourced s t) (ha : srcFree a = true) :
    Sourced s (wrf t a lo n v) := wr_sourced h ha

theorem wrb_sourced {s t : State} {a i : Nat} {b : Bool} (h : Sourced s t) (ha : srcFree a = true) :
    Sourced s (wrb t a i b) := wr_sourced h ha

theorem incf_sourced {s t : State} {a lo n : Nat} (h : Sourced s t) (ha : srcFree a = true) :
    Sourced s (incf t a lo n) := wr_sourced h ha

theorem orReg_sourced {s t : State} {a : Nat} {m : Word} (h : Sourced s t) (ha : srcFree a = true) :
    Sourced s (orReg t a m) := wr_sourced h ha

theorem forAll_sourced {α : Type} {l : List α} {s t : State} {f : State → α → State} (h : Sourced s t)
    (hf : ∀ u x, Sourced s u → Sourced s (f u x)) : Sourced s (forAll l t f) := by
  unfold forAll
  induction l generalizing t with
  | nil => exact h
  | cons x r ih => exact ih (hf t x h)

theorem when_sourced {c : Bool} {s t : State} {f : State → State} (h : Sourced s t)
    (hf : ∀ u, Sourced s u → Sourced s (f u)) : Sourced s (when c t f) := by
  unfold when
  split
  · exact hf t h
  · exact h

theorem ite_sourced {c : Prop} [Decidable c] {s t u : State} (ht : Sourced s t) (hu : Sourced s u) :
    Sourced s (if c then t else u) := by
  split
  · exact ht
  · exact hu

theorem updFol_sourced {s t : State} {f : Fol → Fol} (h : Sourced s t) : Sourced s (updFol t f) := h.of_regs rfl
theorem updMgn_sourced {s t : State} {f : Mgn → Mgn} (h : Sourced s t) : Sourced s (updMgn t f) := h.of_regs rfl
theorem updHst_sourced {s t : State} {f : Hst → Hst} (h : Sourced s t) : Sourced s (updHst t f) := h.of_regs rfl
theorem updTask_sourced {s t : State} {n : Fin 512} {f : Task → Task} (h : Sourced s t) : Sourced s (updTask t n f) :=
  h.of_regs rfl
theorem updReady_sourced {s t : State} {n : Fin 4} {f : List (Fin 512) → List (Fin 512)} (h : Sourced s t) :
    Sourced s (updReady t n f) := h.of_regs rfl
theorem nextReady_sourced {n : Nat} {s t : State} (h : Sourced s t) :
    Sourced s { t with ink := { t.ink with nextReady := n } } := h.of_regs rfl
theorem takeNat_sourced {s t : State} (h : Sourced s t) : Sourced s (takeNat t).2 := h.of_regs rfl
theorem mwrWords_sourced {s t : State} {a : Nat} {l : List Word} (h : Sourced s t) : Sourced s (mwrWords t a l) :=
  h.of_regs rfl
theorem mwr32_sourced {s t : State} {a : Nat} {v : Word} (h : Sourced s t) : Sourced s (mwr32 t a v) := h.of_regs rfl
theorem histStore_sourced {e : HistEntry} {s t : State} (h : Sourced s t) : Sourced s (histStore t e) := h.of_regs rfl

theorem bit_putBit_true {w : Word} {i j : Nat} (h : bit w j = true) : bit (putBit w i true) j = true := by
  by_cases hj : j < 32
  · rw [bit_putBit w true hj]
    split
    · rfl
    · exact h
  · rw [bit_high w (by omega)] at h
    exact Bool.noConfusion h

theorem mgnRecord_sets {s : State} {n : Nat} : rdb (mgnRecord s n) (Reg.MGN_SRC (n / 32)) (n % 32) = true := by
  unfold mgnRecord updMgn
  show rdb (wrb s (Reg.MGN_SRC (n / 32)) (n % 32) true) (Reg.MGN_SRC (n / 32)) (n % 32) = true
  rw [rdb, wrb, rd_wr_self]
  exact bit_putBit_self _ (Nat.mod_lt _ (by decide)) true

theorem mgnRecord_sourced {n : Nat} {s t : State} (h : Sourced s t) (_hn : n < 512) : Sourced s (mgnRecord t n) := by
  refine ⟨fun i j hi hb => ?_⟩
  unfold mgnRecord updMgn
  show rdb (wrb t (Reg.MGN_SRC (n / 32)) (n % 32) true) (Reg.MGN_SRC i) j = true
  rw [rdb, wrb, rd_wr]
  split
  · rename_i he
    rw [← he]
    exact bit_putBit_true (h.keeps i j hi hb)
  · exact h.keeps i j hi hb

theorem scIrq_sourced {c : Fin 16} {b : Nat} {s t : State} (h : Sourced s t) : Sourced s (scIrq t c b) :=
  when_sourced h (fun _ hu => wrb_sourced hu (srcFree_irqPend c))

theorem scIrqAll_sourced {b : Nat} {s t : State} (h : Sourced s t) : Sourced s (scIrqAll t b) := by
  unfold scIrqAll
  repeat' first
    | with_reducible assumption
    | intro _
    | with_reducible apply forAll_sourced
    | with_reducible apply scIrq_sourced
    | with_reducible apply ite_sourced
    | rfl
    | split
    | dsimp only
  all_goals (first | exact fun _ => rfl | rfl | (simp [srcFree, folBase, Reg.SC_IRQ_PEND, Reg.INK_TFLAG, Reg.INK_TSTAT, Reg.MGN_CLS, Reg.MGN_PEND, Reg.MGN_ACT, Reg.MGN_SRC]; omega))

theorem setTaskState_sourced {tk : Fin 512} {v : Nat} {s t : State} (h : Sourced s t) :
    Sourced s (setTaskState t tk v) := wrf_sourced h (srcFree_tstat tk)

theorem newInstant_sourced {s t : State} (h : Sourced s t) : Sourced s (newInstant t) := nextReady_sourced h

theorem testReady_sourced {tk : Fin 512} {s t : State} (h : Sourced s t) : Sourced s (testReady t tk) := by
  unfold testReady enterReady
  exact ite_sourced (updReady_sourced (updTask_sourced (setTaskState_sourced h))) h

theorem toWaiting_sourced {tk : Fin 512} {s t : State} (h : Sourced s t) : Sourced s (toWaiting t tk) := by
  unfold toWaiting
  repeat' first
    | with_reducible assumption
    | intro _
    | with_reducible apply testReady_sourced
    | with_reducible apply setTaskState_sourced
    | with_reducible apply ite_sourced
    | rfl
    | split
    | dsimp only
  all_goals (first | exact fun _ => rfl | rfl | (simp [srcFree, folBase, Reg.SC_IRQ_PEND, Reg.INK_TFLAG, Reg.INK_TSTAT, Reg.MGN_CLS, Reg.MGN_PEND, Reg.MGN_ACT, Reg.MGN_SRC]; omega))

theorem orFlags_sourced {tk : Fin 512} {m : Word} {s t : State} (h : Sourced s t) : Sourced s (orFlags t tk m) :=
  when_sourced h (fun _ hu => orReg_sourced hu (srcFree_tflag tk))

theorem setFlags_sourced {tk : Fin 512} {m : Word} {s t : State} (h : Sourced s t) : Sourced s (setFlags t tk m) :=
  testReady_sourced (orFlags_sourced (newInstant_sourced h))

theorem raiseEvent_sourced {code : Nat} {s t : State} (h : Sourced s t) : Sourced s (raiseEvent t code) := by
  unfold raiseEvent
  repeat' first
    | with_reducible assumption
    | intro _
    | with_reducible apply forAll_sourced
    | with_reducible apply testReady_sourced
    | with_reducible apply orFlags_sourced
    | with_reducible apply ite_sourced
    | rfl
    | split
    | dsimp only
  all_goals (first | exact fun _ => rfl | rfl | (simp [srcFree, folBase, Reg.SC_IRQ_PEND, Reg.INK_TFLAG, Reg.INK_TSTAT, Reg.MGN_CLS, Reg.MGN_PEND, Reg.MGN_ACT, Reg.MGN_SRC]; omega))

theorem setFolState_sourced {v : Nat} {s t : State} (h : Sourced s t) : Sourced s (setFolState t v) :=
  wrf_sourced h rfl

theorem folStore_sourced {kind ch : Nat} {tag : Word × Word × Word} {v : Word} {s t : State} (h : Sourced s t) :
    Sourced s (folStore t kind ch tag v) := by
  unfold folStore
  exact when_sourced (when_sourced (updFol_sourced (wrf_sourced (mwrWords_sourced h) rfl))
    (fun _ hu => wrf_sourced hu rfl)) (fun _ hu => setFolState_sourced hu)

theorem folSnapshot_sourced {tm : BTime} {val : State → Fin 32 → Word} {s t : State} (h : Sourced s t) :
    Sourced s (folSnapshot t tm val) :=
  forAll_sourced h (fun _ _ hu => updFol_sourced (folStore_sourced hu))

theorem folStoreNext_sourced {s t : State} (h : Sourced s t) : Sourced s (folStoreNext t) := by
  unfold folStoreNext
  split
  · exact h
  · exact ite_sourced (folStore_sourced (updFol_sourced h))
      (updFol_sourced (wrf_sourced (folStore_sourced (folStore_sourced (updFol_sourced h))) rfl))

theorem folFlush_sourced {s t : State} (h : Sourced s t) : Sourced s (folFlush t) :=
  forAll_sourced h (fun _ _ hu => folStoreNext_sourced hu)

theorem folTrigger_sourced {tm : BTime} {s t : State} (h : Sourced s t) : Sourced s (folTrigger t tm) := by
  unfold folTrigger
  repeat' first
    | with_reducible assumption
    | intro _
    | with_reducible apply wrf_sourced
    | with_reducible apply folStore_sourced
    | with_reducible apply incf_sourced
    | with_reducible apply setFolState_sourced
    | with_reducible apply folSnapshot_sourced
    | with_reducible apply folFlush_sourced
    | with_reducible apply updFol_sourced
    | with_reducible apply takeNat_sourced
    | with_reducible apply ite_sourced
    | rfl
    | split
    | dsimp only
  all_goals (first | exact fun _ => rfl | rfl | (simp [srcFree, folBase, Reg.SC_IRQ_PEND, Reg.INK_TFLAG, Reg.INK_TSTAT, Reg.MGN_CLS, Reg.MGN_PEND, Reg.MGN_ACT, Reg.MGN_SRC]; omega))

theorem folEvent_sourced {src : Nat} {hit : State → Bool} {s t : State} (h : Sourced s t) : Sourced s (folEvent t src hit) := by
  unfold folEvent
  repeat' first
    | with_reducible assumption
    | intro _
    | with_reducible apply when_sourced
    | with_reducible apply folTrigger_sourced
    | with_reducible apply ite_sourced
    | rfl
    | split
    | dsimp only
  all_goals (first | exact fun _ => rfl | rfl | (simp [srcFree, folBase, Reg.SC_IRQ_PEND, Reg.INK_TFLAG, Reg.INK_TSTAT, Reg.MGN_CLS, Reg.MGN_PEND, Reg.MGN_ACT, Reg.MGN_SRC]; omega))

theorem folChange_sourced {c : Fin 32} {tm : BTime} {s t : State} (h : Sourced s t) : Sourced s (folChange t c tm) := by
  unfold folChange
  repeat' first
    | with_reducible assumption
    | intro _
    | with_reducible apply updFol_sourced
    | with_reducible apply ite_sourced
    | rfl
    | split
    | dsimp only
  all_goals (first | exact fun _ => rfl | rfl | (simp [srcFree, folBase, Reg.SC_IRQ_PEND, Reg.INK_TFLAG, Reg.INK_TSTAT, Reg.MGN_CLS, Reg.MGN_PEND, Reg.MGN_ACT, Reg.MGN_SRC]; omega))

theorem folSample_sourced {src : Nat} {tm : BTime} {s t : State} (h : Sourced s t) : Sourced s (folSample t src tm) := by
  unfold folSample
  exact ite_sourced (when_sourced (when_sourced h (fun _ hu => folTrigger_sourced hu))
    (fun _ hu => forAll_sourced hu (fun _ _ hv => folChange_sourced hv))) h

theorem sendVector_sourced {v : Fin 64} {s t : State} (h : Sourced s t) : Sourced s (sendVector t v) := by
  unfold sendVector
  repeat' first
    | with_reducible assumption
    | intro _
    | with_reducible apply updHst_sourced
    | with_reducible apply ite_sourced
    | rfl
    | split
    | dsimp only
  all_goals (first | exact fun _ => rfl | rfl | (simp [srcFree, folBase, Reg.SC_IRQ_PEND, Reg.INK_TFLAG, Reg.INK_TSTAT, Reg.MGN_CLS, Reg.MGN_PEND, Reg.MGN_ACT, Reg.MGN_SRC]; omega))

theorem hstIrq_sourced {b : Nat} {s t : State} (h : Sourced s t) : Sourced s (hstIrq t b) := by
  unfold hstIrq
  repeat' first
    | with_reducible assumption
    | intro _
    | with_reducible apply sendVector_sourced
    | with_reducible apply when_sourced
    | with_reducible apply wrb_sourced
    | with_reducible apply ite_sourced
    | rfl
    | split
    | dsimp only
  all_goals (first | exact fun _ => rfl | rfl | (simp [srcFree, folBase, Reg.SC_IRQ_PEND, Reg.INK_TFLAG, Reg.INK_TSTAT, Reg.MGN_CLS, Reg.MGN_PEND, Reg.MGN_ACT, Reg.MGN_SRC]; omega))

theorem setClsState_sourced {c v : Nat} {s t : State} (h : Sourced s t) (hc : c < 64) :
    Sourced s (setClsState t c v) := wrb_sourced (wrf_sourced h (srcFree_cls hc)) (srcFree_pend hc)

theorem history_sourced {kind cls src : Nat} {detail : Word} {level : Nat} {s t : State} (h : Sourced s t) :
    Sourced s (history t kind cls src detail level) := by
  unfold history
  dsimp only
  repeat' split
  · exact wrb_sourced h rfl
  · exact wrf_sourced (updMgn_sourced h) rfl
  · exact histStore_sourced (updMgn_sourced h)

theorem historyDrain_sourced {s t : State} (h : Sourced s t) : Sourced s (historyDrain t) :=
  wrf_sourced (updMgn_sourced (forAll_sourced h (fun _ _ hu => histStore_sourced hu))) rfl

theorem stwRaise_sourced {s t : State} (h : Sourced s t) : Sourced s (stwRaise t) := by
  unfold stwRaise
  exact updMgn_sourced h

theorem showLevels_sourced {s t : State} (h : Sourced s t) : Sourced s (showLevels t) := by
  unfold showLevels
  exact stwRaise_sourced (wrb_sourced (wr_sourced (wr_sourced h rfl) rfl) rfl)

theorem mgnFirst_sourced {n : Nat} {s t : State} (h : Sourced s t) : Sourced s (mgnFirst t n) :=
  ite_sourced h (updMgn_sourced (wr_sourced h rfl))

theorem enterGrace_sourced {c : Fin 64} {s t : State} (h : Sourced s t) : Sourced s (enterGrace t c) := by
  unfold enterGrace
  exact hstIrq_sourced (folEvent_sourced (when_sourced (raiseEvent_sourced (incf_sourced
    (setClsState_sourced h c.isLt) (srcFree_cls c.isLt))) (fun _ hu => scIrq_sourced hu)))

theorem raiseClass_sourced {n : Nat} {s t : State} (h : Sourced s t) : Sourced s (raiseClass t n) := by
  unfold raiseClass
  dsimp only
  split
  · rename_i hk
    refine ite_sourced ?_ h
    have h1 : Sourced s (updMgn (wrf t (Reg.MGN_CLS (classOf t n)) 16 9 n) (fun m => { m with
        scope := m.scope.upd ⟨classOf t n, hk⟩ (· ||| (ownGroups t n ||| rd t (Reg.MGN_CLSCFG1 (classOf t n)))) })) :=
      updMgn_sourced (wrf_sourced h (srcFree_cls hk))
    exact ite_sourced (enterGrace_sourced h1) (showLevels_sourced h1)
  · exact h

theorem mgnSampled_sourced  {s t : State} (h : Sourced s t) : Sourced s (mgnSampled t) := by
  unfold mgnSampled
  repeat' first
    | with_reducible assumption
    | intro _
    | with_reducible apply folSample_sourced
    | with_reducible apply ite_sourced
    | rfl
    | split
    | dsimp only
  all_goals (first | exact fun _ => rfl | rfl | (simp [srcFree, folBase, Reg.SC_IRQ_PEND, Reg.INK_TFLAG, Reg.INK_TSTAT, Reg.MGN_CLS, Reg.MGN_PEND, Reg.MGN_ACT, Reg.MGN_SRC]; omega))

theorem mgnAssert_sourced {n : Nat} {detail : Word} {s t : State} (h : Sourced s t) (hn : n < 512) :
    Sourced s (mgnAssert t n detail) := by
  unfold mgnAssert
  exact raiseClass_sourced (when_sourced (when_sourced (mgnFirst_sourced (mgnRecord_sourced h hn))
    (fun _ hu => history_sourced hu)) (fun _ hu => stwRaise_sourced (updMgn_sourced hu)))

theorem railPulse_sourced {n : Nat} {f : State → State} {s t : State} (h : Sourced s t) (hn : n < 512)
    (hf : ∀ u, Sourced s u → Sourced s (f u)) : Sourced s (railPulse t n f) := by
  unfold railPulse
  exact ite_sourced (hf t h) (mgnSampled_sourced (wrb_sourced (hf _ (mgnSampled_sourced
    (wrb_sourced h (srcFree_act hn)))) (srcFree_act hn)))

theorem assertEvent_sourced {n : Nat} {detail : Word} {s t : State} (h : Sourced s t) (hn : n < 512) :
    Sourced s (assertEvent t n detail) := railPulse_sourced h hn (fun _ hu => mgnAssert_sourced hu hn)

theorem assertCond_sourced {n : Nat} {detail : Word} {s t : State} (h : Sourced s t) (hn : n < 512) :
    Sourced s (assertCond t n detail) :=
  ite_sourced h (mgnAssert_sourced (mgnSampled_sourced (wrb_sourced h (srcFree_act hn))) hn)

theorem pairIdle_sourced {n : Nat} {s t : State} (h : Sourced s t) (hn : n < 512) : Sourced s (pairIdle t n) :=
  when_sourced h (fun _ hu => mgnSampled_sourced (wrb_sourced hu (srcFree_act hn)))

theorem setUnder_sourced {n : Nat} {b : Bool} {s t : State} (h : Sourced s t) : Sourced s (setUnder t n b) :=
  updMgn_sourced h

theorem pairReport_sourced {n : Nat} {detail : Word} {s t : State} (h : Sourced s t) :
    Sourced s (pairReport t n detail) := by
  unfold pairReport
  split
  · exact h
  all_goals
    rename_i hk
    have hn : n < 512 := srcKind_bound (by rw [hk]; exact SrcKind.noConfusion)
  · exact railPulse_sourced h hn (fun _ hu => mgnRecord_sourced hu hn)
  · exact assertEvent_sourced h hn
  · exact assertCond_sourced h hn

theorem assertSource_sourced {n : Nat} {detail : Word} {s t : State} (h : Sourced s t) :
    Sourced s (assertSource t n detail) := by
  unfold assertSource
  exact ite_sourced h (ite_sourced (pairReport_sourced h) (when_sourced h (fun _ hu => setUnder_sourced hu)))

theorem endCond_sourced {n : Nat} {s t : State} (h : Sourced s t) (hn : n < 512) : Sourced s (endCond t n) :=
  ite_sourced (pairIdle_sourced h hn) (setUnder_sourced h)

theorem setCond_sourced {n : Nat} {on : Bool} {detail : Word} {s t : State} (h : Sourced s t) (hn : n < 512) :
    Sourced s (setCond t n on detail) := ite_sourced (assertSource_sourced h) (endCond_sourced h hn)

theorem wireFound_sourced {p : Nat} {s t : State} (h : Sourced s t) (hp : p < 512) : Sourced s (wireFound t p) := by
  have own : Sourced s (match srcKind p with
    | .reserved => t
    | .transient => railPulse t p (fun s => mgnRecord s p)
    | _ => if p = 0x1FF then t else railPulse t p (fun s => mgnAssert s p (BitVec.ofNat 32 p))) := by
    split
    · exact h
    · exact railPulse_sourced h hp (fun _ hu => mgnRecord_sourced hu hp)
    · exact ite_sourced h (railPulse_sourced h hp (fun _ hu => mgnAssert_sourced hu hp))
  unfold wireFound
  exact history_sourced (when_sourced (assertEvent_sourced own (by omega)) (fun _ hu => wr_sourced hu rfl))

theorem wiringFault_sourced {p : Nat} {s t : State} (h : Sourced s t) (hp : p < 512) : Sourced s (wiringFault t p) :=
  when_sourced h (fun _ hu => wireFound_sourced hu hp)

theorem takeLevel_sourced {c : Fin 64} {st lvl : Nat} {s t : State} (h : Sourced s t) :
    Sourced s (takeLevel t c st lvl) := by
  unfold takeLevel
  exact hstIrq_sourced (when_sourced (showLevels_sourced (wrf_sourced (setClsState_sourced h c.isLt)
    (srcFree_cls c.isLt))) (fun _ hu => history_sourced hu))

theorem graceEnd_sourced {c : Fin 64} {s t : State} (h : Sourced s t) : Sourced s (graceEnd t c) := by
  unfold graceEnd
  repeat' first
    | with_reducible assumption
    | intro _
    | with_reducible apply takeLevel_sourced
    | with_reducible apply ite_sourced
    | rfl
    | split
    | dsimp only
  all_goals (first | exact fun _ => rfl | rfl | (simp [srcFree, folBase, Reg.SC_IRQ_PEND, Reg.INK_TFLAG, Reg.INK_TSTAT, Reg.MGN_CLS, Reg.MGN_PEND, Reg.MGN_ACT, Reg.MGN_SRC]; omega))

theorem escalate_sourced {c : Fin 64} {s t : State} (h : Sourced s t) : Sourced s (escalate t c) := by
  unfold escalate
  repeat' first
    | with_reducible assumption
    | intro _
    | with_reducible apply takeLevel_sourced
    | with_reducible apply ite_sourced
    | rfl
    | split
    | dsimp only
  all_goals (first | exact fun _ => rfl | rfl | (simp [srcFree, folBase, Reg.SC_IRQ_PEND, Reg.INK_TFLAG, Reg.INK_TSTAT, Reg.MGN_CLS, Reg.MGN_PEND, Reg.MGN_ACT, Reg.MGN_SRC]; omega))

theorem ackClass_sourced {c : Fin 64} {s t : State} (h : Sourced s t) : Sourced s (ackClass t c) :=
  ite_sourced (setClsState_sourced h c.isLt) (ite_sourced (setClsState_sourced h c.isLt) h)

theorem clearClass_sourced {c : Fin 64} {s t : State} (h : Sourced s t) : Sourced s (clearClass t c) := by
  unfold clearClass
  refine ite_sourced h (ite_sourced (wrb_sourced h rfl) ?_)
  exact history_sourced (showLevels_sourced (updMgn_sourced (wrf_sourced (setClsState_sourced h c.isLt)
    (srcFree_cls c.isLt))))

/-- What a report records on a pair stands recorded once the rail has returned. -/
theorem railPulse_sets {s : State} {n : Nat} {f : State → State} (hn : n < 512)
    (hf : ∀ u, rdb (f u) (Reg.MGN_SRC (n / 32)) (n % 32) = true) :
    rdb (railPulse s n f) (Reg.MGN_SRC (n / 32)) (n % 32) = true := by
  unfold railPulse
  split
  · exact hf s
  · exact (mgnSampled_sourced (wrb_sourced (Sourced.refl _) (srcFree_act hn))).keeps _ _ (by omega) (hf _)

theorem mgnAssert_sets {s : State} {n : Nat} (d : Word) (hn : n < 512) :
    rdb (mgnAssert s n d) (Reg.MGN_SRC (n / 32)) (n % 32) = true := by
  unfold mgnAssert
  refine (raiseClass_sourced (when_sourced (when_sourced (mgnFirst_sourced (Sourced.refl (mgnRecord s n)))
    (fun _ hu => history_sourced hu)) (fun _ hu => stwRaise_sourced (updMgn_sourced hu)))).keeps _ _ (by omega) ?_
  exact mgnRecord_sets

/-- A source whose block is powered and whose pair is not forced is recorded when it reports: always an event or a
transient one, a condition one when it was not active (R501, R522). -/
theorem assertSource_sets {s : State} {n : Nat} (d : Word) (hon : srcOn s n = true) (hf : forcedMode s n = 0)
    (hk : srcKind n ≠ .reserved) (hc : srcKind n = .condition → srcActive s n = false) :
    rdb (assertSource s n d) (Reg.MGN_SRC (n / 32)) (n % 32) = true := by
  have hn := srcKind_bound hk
  unfold assertSource pairReport
  simp only [hon, hf, Bool.not_true, Bool.false_eq_true, if_false, if_true]
  cases h : srcKind n with
  | reserved => exact absurd h hk
  | transient => exact railPulse_sets hn (fun _ => mgnRecord_sets)
  | event => exact railPulse_sets hn (fun _ => mgnAssert_sets d hn)
  | condition =>
    unfold assertCond
    rw [hc h]
    exact mgnAssert_sets d hn

end Sys2Proof.Machine
end

