-- ==== Sys2Proof/Laws/QuillRun.lean ====
section
/-! SUPPORT. The run of a program on a Quill engine: what an instruction leaves of the engine's run state, and how a
program stops. -/

namespace Sys2Proof.Machine

/-- A command that answers its effect satisfies what holds of it. -/
theorem after_exec {c : Instr} {s t : State} {p : State → Prop} (h : exec c s = .next t) (hp : p t) : after c s p :=
  ⟨t, h, hp⟩

/-- An instruction that runs without a detected error satisfies what holds of its effect. -/
theorem after_row (e : Fin 16) (i : QInstr) (s : State) (p : State → Prop) (h : (eng s e).run = .running)
    (hp : p (advance (instrEffect i e s).1 e (instrEffect i e s).2)) : after (rowOf e .clean i) s p := by
  refine ⟨runInstr e .clean i s, ?_, ?_⟩
  · cases i <;> first | rfl | (rename_i op f; cases op <;> rfl)
  · rw [runInstr_clean _ _ _ h]
    exact hp

theorem loopsOn_eq (pc : BitVec 12) (l : List RepLevel) : loopsOn pc l = loopBack pc l := by
  induction l with
  | nil => rfl
  | cons a r ih =>
    unfold loopsOn loopBack
    by_cases h1 : a.last = pc
    · by_cases h2 : 1 < a.left.toNat
      · rw [List.dropWhile_cons_of_neg (by simp [h1]; omega)]
        simp [h1, h2]
      · rw [List.dropWhile_cons_of_pos (by simp [h1]; omega)]
        simp only [h1, if_true, h2, if_false]
        exact ih
    · rw [List.dropWhile_cons_of_neg (by simp [h1])]
      simp [h1]

/-- Registers of a straight instruction: PC, run state and stacks unchanged. -/
theorem straight_eff (i : QInstr) (e : Fin 16) (s : State) (h : straight i = true) : (instrEffect i e s).2 = .adv := by
  cases i <;> first | (exact absurd h Bool.false_ne_true) | rfl

theorem eng_setPtr (s : State) (e : Fin 16) (y : Bool) (p : Fin 4) (v : BitVec 14) : (eng (setPtr s e y p v) e) = if y then { eng s e with y := (eng s e).y.put p v } else { eng s e with x := (eng s e).x.put p v } := by
  unfold setPtr; simp

/-- The registers of an engine that steer its run. -/
def ctl (g : QEng) := (g.pc, g.reps, g.calls, g.run, g.mode, g.nextMode, g.axn)

theorem ctl_operandMod (s : State) (e : Fin 16) (y : Bool) (u : Int) (a : QAddr) : ctl (eng (operandMod s e y u a) e) = ctl (eng s e) := by
  cases a <;> simp [operandMod, eng_setPtr]
  split <;> rfl

theorem ctl_writeReg (g : QEng) (r : Fin 32) (v : Half) : ctl (writeReg g r v) = ctl g := by
  unfold writeReg; simp only; repeat' split
  all_goals rfl

theorem ctl_writeSpec (g : QEng) (r : Fin 14) (v : Half) : ctl (writeSpec g r v) = ctl g := by
  unfold writeSpec; simp only; repeat' split
  all_goals rfl

theorem ctl_setSr (s : State) (e : Fin 16) (f : BitVec 5 → BitVec 5) : ctl (eng (setSr s e f) e) = ctl (eng s e) := by simp [setSr, ctl]

theorem ctl_straight (i : QInstr) (e : Fin 16) (s : State) (h : straight i = true) : ctl (eng (instrEffect i e s).1 e) = ctl (eng s e) := by
  cases i with
  | par op f =>
    simp only [instrEffect, parEffect, eng_when, eng_wrb, ite_self]
    rw [eng_qMove, eng_qMove]; simp [ctl]
  | ld r y a => simp only [instrEffect, ldEffect, eng_when, eng_wrb, ite_self, eng_updEng_self, ctl_writeReg, ctl_operandMod]
  | st r y a => simp only [instrEffect, stEffect, ctl_setSr, ctl_operandMod, eng_qWrite]
  | ldi r v => simp only [instrEffect, ldiEffect, eng_updEng_self, ctl_writeReg]
  | movr d r => simp only [instrEffect, movrEffect, ctl_setSr, eng_updEng_self, ctl_writeReg]
  | movs r t c => 
    simp only [instrEffect, movsEffect]; split
    · split <;> simp only [ctl_setSr, eng_updEng_self, ctl_writeSpec]
    · simp only [eng_updEng_self, ctl_writeReg]
  | ldl n y a => 
    simp only [instrEffect, ldlEffect, eng_updEng_self]
    exact ctl_operandMod s e y 2 a
  | stl n y a => simp only [instrEffect, stlEffect, ctl_setSr, ctl_operandMod, eng_qWrite]
  | addi n v => simp [instrEffect, addiEffect, ctl, putSat]
  | perr n p q inc => 
    simp only [instrEffect, perrEffect]; split <;> simp [ctl, eng_setPtr, putSat]
  | glu d r b => simp [instrEffect, gluEffect, setD, ctl]
  | rot i h a b t => simp [instrEffect, rotEffect, ctl]
  | jmp c a => exact absurd h Bool.false_ne_true
  | call c a => exact absurd h Bool.false_ne_true
  | ret c => exact absurd h Bool.false_ne_true
  | rep c a => exact absurd h Bool.false_ne_true
  | fin => exact absurd h Bool.false_ne_true

/-- What a read that is served leaves: engines, axes and Margin as they are, and of the registers all but the two that
count corrections. -/
theorem serveRead_frame (s : State) (e : Fin 16) (r : HeldRead) :
    (serveRead s e r).eng = s.eng ∧ (serveRead s e r).ax = s.ax ∧ (serveRead s e r).mgn = s.mgn ∧
    (∀ a, a ≠ Reg.QE_ECC_CORR e → a ≠ Reg.QE_STICKY e → rd (serveRead s e r) a = rd s a) := by
  unfold serveRead corrected respond
  repeat' split
  · exact ⟨rfl, rfl, rfl, fun _ _ _ => rfl⟩
  · exact ⟨rfl, rfl, rfl, fun _ _ _ => rfl⟩
  · refine ⟨rfl, rfl, rfl, fun a h1 h2 => ?_⟩
    show rd (wrb (wr s _ _) _ _ _) a = _
    rw [rd_wrb_ne _ _ _ h2, rd_wr_ne _ _ h1]

theorem serveReads_frame (l : List HeldRead) (e : Fin 16) (u : State) :
    (forAll l u (fun s r => serveRead s e r)).eng = u.eng ∧ (forAll l u (fun s r => serveRead s e r)).ax = u.ax ∧
    (forAll l u (fun s r => serveRead s e r)).mgn = u.mgn ∧
    (∀ a, a ≠ Reg.QE_ECC_CORR e → a ≠ Reg.QE_STICKY e → rd (forAll l u (fun s r => serveRead s e r)) a = rd u a) := by
  induction l generalizing u with
  | nil => exact ⟨rfl, rfl, rfl, fun _ _ _ => rfl⟩
  | cons b r ih =>
    have h := serveRead_frame u e b
    have k := ih (serveRead u e b)
    exact ⟨k.1.trans h.1, k.2.1.trans h.2.1, k.2.2.1.trans h.2.2.1,
      fun a h1 h2 => (k.2.2.2 a h1 h2).trans (h.2.2.2 a h1 h2)⟩

theorem serveHeld_eng (s : State) (e : Fin 16) : (serveHeld s e).eng = (updEng s e (fun g => { g with held := [] })).eng :=
  (serveReads_frame _ e _).1

theorem serveHeld_rd (s : State) (e : Fin 16) {a : Nat} (h1 : a ≠ Reg.QE_ECC_CORR e) (h2 : a ≠ Reg.QE_STICKY e) :
    rd (serveHeld s e) a = rd s a := (serveReads_frame _ e _).2.2.2 a h1 h2

theorem serveHeld_ax (s : State) (e : Fin 16) : (serveHeld s e).ax = s.ax := (serveReads_frame _ e _).2.1

theorem modeIfIdle_cases (s : State) (e : Fin 16) : modeIfIdle s e = s ∨
    ∃ m, (eng s e).nextMode = some m ∧ modeIfIdle s e = updEng s e (fun g => { g with
      mode := m, nextMode := none, modeDue := false, list := []
      run := if m = 3 then .debug else if g.run = .debug then .idle else g.run }) := by
  have takes : modeTakes s e = s ∨ ∃ m, (eng s e).nextMode = some m ∧ modeTakes s e = updEng s e (fun g => { g with
      mode := m, nextMode := none, modeDue := false, list := []
      run := if m = 3 then .debug else if g.run = .debug then .idle else g.run }) := by
    unfold modeTakes
    split
    · exact Or.inl rfl
    · rename_i m hm
      exact Or.inr ⟨m, hm, rfl⟩
  unfold modeIfIdle when
  dsimp only
  repeat' split
  all_goals first
    | exact takes
    | exact Or.inl rfl

theorem fallIdle_rd (s : State) (e : Fin 16) {a : Nat} (h1 : a ≠ Reg.QE_ECC_CORR e) (h2 : a ≠ Reg.QE_STICKY e) :
    rd (fallIdle s e) a = rd s a := by
  unfold fallIdle
  rcases modeIfIdle_cases (serveHeld s e) e with h | ⟨m, -, h⟩ <;> rw [h]
  · exact serveHeld_rd s e h1 h2
  · exact serveHeld_rd s e h1 h2

theorem fallIdle_ax (s : State) (e : Fin 16) : (fallIdle s e).ax = s.ax := by
  unfold fallIdle
  rcases modeIfIdle_cases (serveHeld s e) e with h | ⟨m, -, h⟩ <;> rw [h]
  · exact serveHeld_ax s e
  · exact serveHeld_ax s e

theorem serveHeld_mgn (s : State) (e : Fin 16) : (serveHeld s e).mgn = s.mgn := (serveReads_frame _ e _).2.2.1

theorem fallIdle_mgn (s : State) (e : Fin 16) : (fallIdle s e).mgn = s.mgn := by
  unfold fallIdle
  rcases modeIfIdle_cases (serveHeld s e) e with h | ⟨m, -, h⟩ <;> rw [h]
  · exact serveHeld_mgn s e
  · exact serveHeld_mgn s e

theorem fallIdle_run (s : State) (e : Fin 16) (h : (eng s e).nextMode ≠ some 3) (h2 : (eng s e).run ≠ .debug) : (eng (fallIdle s e) e).run = (eng s e).run := by
  have he : eng (serveHeld s e) e = { eng s e with held := [] } := by
    unfold eng; rw [serveHeld_eng]; exact eng_updEng_self s e _
  unfold fallIdle
  rcases modeIfIdle_cases (serveHeld s e) e with hh | ⟨m, hm, hh⟩ <;> rw [hh]
  · rw [he]
  · rw [he] at hm
    rw [eng_updEng_self, he]
    have : m ≠ 3 := fun c => h (by rw [← c]; exact hm)
    show (if m = 3 then QRun.debug else if (eng s e).run = .debug then .idle else (eng s e).run) = _
    rw [if_neg this, if_neg h2]

theorem srcKind_engine : ∀ e : Fin 16, srcKind (0x90 + e.val) = .event := by decide

@[simp] theorem eng_recordStop (s : State) (e : Fin 16) (c : Nat) (e' : Fin 16) : eng (recordStop s e c) e' = eng s e' := by unfold recordStop; exact eng_wr _ _ _ _

theorem satN8 (n : Nat) : satN 8 n = min 255 n := by unfold satN; omega
/-- A program that stops outside debug mode satisfies `StopsWith`. -/
theorem stopProgram_stops (s : State) (e : Fin 16) (cause : Nat) (hm : (eng s e).mode ≠ 3) (hn : (eng s e).nextMode ≠ some 3) (ho : Heard s (0x90 + e.val)) :
   StopsWith s e cause (stopProgram s e cause) := by
  unfold stopProgram
  simp only [hm, if_false]
  obtain ⟨u, hu⟩ : ∃ u, u = fallIdle (updAx (updEng (recordStop s e cause) e fun g => { g with run := .stopped }) (eng s e).axn fun a => { a with ent := .stopped, halted := true }) e := ⟨_, rfl⟩
  rw [← hu]
  have hR := assertSource_reported (n := 0x90 + e) (detail := rd u (Reg.QE_FAULT e)) (Reported.refl u)
  have hrun : (eng u e).run = .stopped := by
    rw [hu, fallIdle_run]
    · simp only [eng_updAx, eng_updEng_self]
    · simp only [eng_updAx, eng_updEng_self, eng_recordStop]; exact hn
    · simp only [eng_updAx, eng_updEng_self]; exact QRun.noConfusion
  have hregs : ∀ a, a ≠ Reg.QE_ECC_CORR e → a ≠ Reg.QE_STICKY e → rd u a = rd (recordStop s e cause) a := by
    intro a h1 h2
    rw [hu, fallIdle_rd _ _ h1 h2]; unfold rd; rw [updAx_regs, updEng_regs]
  refine ⟨?_, ?_, ?_, ?_⟩
  · rw [eng_congr hR.eng]; exact hrun
  · rw [hR.ax, hu, fallIdle_ax, updAx_ax]; exact congrArg AxisSt.ent (Tab.upd_self _ _ _)
  · rw [hR.regs, hregs _ (by unfold Reg.QE_FAULT Reg.QE_ECC_CORR; omega) (by unfold Reg.QE_FAULT Reg.QE_STICKY; omega)]
    · unfold recordStop; rw [rd_wr_self, satN8]
    · rw [← Bool.not_eq_true, reportReg_iff]; unfold Reg.QE_FAULT; omega
  · apply assertSource_sets
    · rw [← ho.1]; unfold srcOn pdOn rdb; 
      split
      · rw [hregs _ (by unfold Reg.PWR_PD_STAT Reg.QE_ECC_CORR; omega) (by unfold Reg.PWR_PD_STAT Reg.QE_STICKY; omega)]
        simp only [recordStop, rd_wr]
        rw [if_neg (by unfold Reg.QE_FAULT Reg.PWR_PD_STAT; omega)]
      · rfl
    · have hg : u.mgn = s.mgn := by rw [hu, fallIdle_mgn, updAx_mgn, updEng_mgn]; exact wr_mgn _ _ _
      unfold forcedMode
      rw [hg]
      exact ho.2
    · have : srcKind (0x90 + e) = .event := srcKind_engine e
      rw [this]; decide
    · have : srcKind (0x90 + e) = .event := srcKind_engine e
      rw [this]; intro c; exact SrcKind.noConfusion c

/-- A straight instruction writes no register but bits 3 and 4 of QE_STICKY, and none of those outside of it. -/
theorem regs_straight (i : QInstr) (e : Fin 16) (s : State) (h : straight i = true) :
    (∀ a, a ≠ Reg.QE_STICKY e → rd (instrEffect i e s).1 a = rd s a) ∧
    (∀ j, j ≠ 3 → j ≠ 4 → rdb (instrEffect i e s).1 (Reg.QE_STICKY e) j = rdb s (Reg.QE_STICKY e) j) := by
  have hmod : ∀ (u : State) (y : Bool) (k : Int) (a : QAddr), (operandMod u e y k a).regs = u.regs := by
    intro u y k a
    cases a <;> rfl
  have hq : ∀ (u : State) (y : Bool) (w : BitVec 14) (v : Half),
      (∀ a, a ≠ Reg.QE_STICKY e → rd (qWrite u e y w v) a = rd u a) ∧
      (∀ j, j ≠ 3 → rdb (qWrite u e y w v) (Reg.QE_STICKY e) j = rdb u (Reg.QE_STICKY e) j) :=
    fun u y w v => ⟨fun a ha => rd_qWrite u e y w v ha, fun j hj => rdb_qWrite u e y w v hj⟩
  have hw : ∀ (c : Bool) (u : State), (∀ a, a ≠ Reg.QE_STICKY e →
        rd (when c u (fun s => wrb s (Reg.QE_STICKY e) 4 true)) a = rd u a) ∧
      (∀ j, j ≠ 4 → rdb (when c u (fun s => wrb s (Reg.QE_STICKY e) 4 true)) (Reg.QE_STICKY e) j
        = rdb u (Reg.QE_STICKY e) j) := by
    intro c u
    rw [when_eq]
    split
    · exact ⟨fun a ha => rd_wrb_ne u _ _ ha, fun j hj => rdb_wrb_ne u _ _ hj⟩
    · exact ⟨fun _ _ => rfl, fun _ _ => rfl⟩
  have same : ∀ u : State, u.regs = s.regs → (∀ a, a ≠ Reg.QE_STICKY e → rd u a = rd s a) ∧
      (∀ j, j ≠ 3 → j ≠ 4 → rdb u (Reg.QE_STICKY e) j = rdb s (Reg.QE_STICKY e) j) := by
    intro u hu
    exact ⟨fun a _ => congrArg (fun r => smGet resetOf r a) hu,
      fun j _ _ => congrArg (fun r => bit (smGet resetOf r (Reg.QE_STICKY e)) j) hu⟩
  cases i with
  | par op f =>
    simp only [instrEffect, parEffect]
    constructor
    · intro a ha
      rw [(hw _ _).1 a ha, rd_qMove _ _ _ _ _ _ ha, rd_qMove _ _ _ _ _ _ ha]
      rfl
    · intro j h3 h4
      rw [(hw _ _).2 j h4, rdb_qMove _ _ _ _ _ _ h3, rdb_qMove _ _ _ _ _ _ h3]
      rfl
  | ld r y a =>
    simp only [instrEffect, ldEffect]
    have hs := same (updEng (operandMod s e y 1 a) e
      (fun g => writeReg g r (qRead s e y (operandAddr (eng s e) y a).1))) (hmod s y 1 a)
    exact ⟨fun b hb => ((hw _ _).1 b hb).trans (hs.1 b hb), fun j h3 h4 => ((hw _ _).2 j h4).trans (hs.2 j h3 h4)⟩
  | st r y a =>
    simp only [instrEffect, stEffect]
    constructor
    · intro b hb
      exact (congrArg (fun r => smGet resetOf r b) (hmod _ y 1 a)).trans ((hq _ _ _ _).1 b hb)
    · intro j h3 _
      exact (congrArg (fun r => bit (smGet resetOf r (Reg.QE_STICKY e)) j) (hmod _ y 1 a)).trans ((hq _ _ _ _).2 j h3)
  | ldi r v => exact same _ rfl
  | movr d r => exact same _ rfl
  | movs r t c =>
    simp only [instrEffect, movsEffect]
    split
    · split <;> exact same _ rfl
    · exact same _ rfl
  | ldl n y a => exact same _ (hmod s y 2 a)
  | stl n y a =>
    simp only [instrEffect, stlEffect]
    constructor
    · intro b hb
      exact (congrArg (fun r => smGet resetOf r b) (hmod _ y 2 a)).trans
        (((hq _ _ _ _).1 b hb).trans ((hq _ _ _ _).1 b hb))
    · intro j h3 _
      exact (congrArg (fun r => bit (smGet resetOf r (Reg.QE_STICKY e)) j) (hmod _ y 2 a)).trans
        (((hq _ _ _ _).2 j h3).trans ((hq _ _ _ _).2 j h3))
  | addi n v => exact same _ rfl
  | perr n p q inc =>
    simp only [instrEffect, perrEffect]
    split <;> exact same _ rfl
  | glu d r b => exact same _ rfl
  | rot i h a b t => exact same _ rfl
  | jmp c a => exact absurd h Bool.false_ne_true
  | call c a => exact absurd h Bool.false_ne_true
  | ret c => exact absurd h Bool.false_ne_true
  | rep c a => exact absurd h Bool.false_ne_true
  | fin => exact absurd h Bool.false_ne_true

theorem row_exec (e : Fin 16) (det : Detect) (i : QInstr) (s : State) :
    exec (rowOf e det i) s = .next (runInstr e det i s) := by
  cases i <;> first | rfl | (rename_i op f; cases op <;> rfl)

end Sys2Proof.Machine
end

