-- ==== Sys2Proof/WellFormed.lean ====
section
/-! DEFINITION. Which commands are well formed: the conditions that the operands' types do not say. -/

namespace Sys2Proof

/-- Data bytes of each DLC of a classical frame, and of a CAN FD frame (R446). -/
def canLengths (fdf : Bool) : List Nat :=
  [0, 1, 2, 3, 4, 5, 6, 7, 8] ++ (if fdf then [12, 16, 20, 24, 32, 48, 64] else [8, 8, 8, 8, 8, 8, 8])

/-- A CAN frame has the bytes its DLC gives, a remote frame none; BRS and ESI belong to CAN FD, which has no remote
frames; a base identifier stands in the upper 11 bits (R446, R447). -/
def canWf (f : CanFrame) : Bool :=
  (if f.rtr then f.data.isEmpty else (canLengths f.fdf)[f.dlc.toNat]? == some f.data.length)
    && (f.fdf || (!f.brs && !f.esi)) && !(f.fdf && f.rtr) && (f.ide || f.id.toNat % 2 ^ 18 == 0)

/-- Am of ADDA and SUBA is named in two bits (R93, R98). -/
def amWf (f : PFmt) : Bool := f.s2.val < 4

/-- An address of the bit-alias range, aligned (R537, R554). -/
def aliasWf (a : Word) : Bool := decide (0x08000000 ≤ a.toNat ∧ a.toNat < 0x09800000) && a.toNat % 4 == 0

/-- A command that its rule allows to be formed. -/
def wellFormed : Instr → Bool
  | .adda _ _ f => amWf f
  | .suba _ _ f => amWf f
  | .scLastingFault _ cause _ => decide (1 ≤ cause.toNat ∧ cause.toNat ≤ 3)
  | .bootFlashRead dir _ _ => dir.length == 32
  | .frameReceived _ f => canWf f
  | .bitAliasWrite _ a _ => aliasWf a
  | .bitAliasRead _ a => aliasWf a
  | .lbusHalfAccess a _ => decide (a.toNat < 2 ^ 28) && a.toNat % 2 == 0
  | .filteredLineChange lfLine idx _ => lfLine || decide (idx.val < 16)
  | _ => true

end Sys2Proof
end

