-- ==== Sys2Proof/Tests/Slice0.lean ====
section
/-! SUPPORT. Tests: what WellFormed refuses, results that the manual gives, and for each statement with hypotheses states
and operands that meet them, clause by clause (`witness_<statement>`). The expected results stand in the manual's worked
examples and tables. -/

namespace Sys2Proof.Tests
open Sys2Proof.Machine

/-! ## Small states -/

/-- Registers written in turn. -/
def regs (s : State) (l : List (Nat × Word)) : State := l.foldl (fun s e => wr s e.1 e.2) s

/-- Reset released, every domain on, PE_PERST_N high. -/
def up : State :=
  { regs State.reset [(Reg.PWR_PD_STAT, 0xFFFF#32)] with pwr := { Pwr.reset with por := false, perst := true } }

/-- Engine 0 as `f` makes it. -/
def engine (f : QEng → QEng) : State := updEng up 0 f

/-- Engine 0 runs a program in mode service. -/
def running : State := engine (fun g => { g with run := .running, mode := 2 })

/-- The bus takes a full write of the register by the master, which has nothing outstanding, and none of its fields is
locked. -/
def takes (s : State) (m : Master) (a : Nat) : Bool :=
  !busDead s m && decide (refusal s m true a .all = none ∧ heldBy s m = false ∧ s.hst.wait[m] = []) && (regRow a).any (fun r => !rowLocked s r a)

theorem writable_of_takes {s : State} {m : Master} {a : Nat} (h : takes s m a = true) : Writable s m a := by
  simp only [takes, Bool.and_eq_true, decide_eq_true_eq, Bool.not_eq_true'] at h
  refine ⟨⟨h.1.1, h.1.2⟩, fun k hk => ?_⟩
  have := h.2
  rw [hk] at this
  simpa using this

/-- The bus takes a full read of the register by the master, which has nothing outstanding. -/
def gives (s : State) (m : Master) (a : Nat) : Bool :=
  !busDead s m && decide (refusal s m false a .all = none ∧ heldBy s m = false ∧ s.hst.wait[m] = [])

/-- A write through a window reaches its target. -/
def reaches (s : State) (m : Master) (t : Nat) : Bool :=
  !busDead s m && !denied s m true t && decide (heldBy s m = false ∧ s.hst.wait[m] = [])

/-- An exec result, or the state before it. -/
def result (c : Instr) (s : State) : State :=
  match exec c s with
  | .next t => t
  | _ => s

/-! ## What WellFormed refuses -/

def wide' : PFmt := { an := 0, s1 := 0, s2 := 4, xm := none, ym := none }
def frame (fdf rtr brs : Bool) (dlc : BitVec 4) (n : Nat) : CanFrame :=
  { ide := true, rtr, fdf, id := 0, brs, esi := false, dlc, data := List.replicate n 0, res := false, sof := 0 }

theorem test_illFormed :
    wellFormed (.adda 0 .clean wide') = false ∧ wellFormed (.suba 0 .clean wide') = false ∧
    wellFormed (.scLastingFault 0 0 0) = false ∧ wellFormed (.scLastingFault 0 4 0) = false ∧
    wellFormed (.bootFlashRead [] [] []) = false ∧
    wellFormed (.frameReceived 0 (frame false false false 2 3)) = false ∧
    wellFormed (.frameReceived 0 (frame false false true 0 0)) = false ∧
    wellFormed (.frameReceived 0 (frame true true false 0 0)) = false ∧
    wellFormed (.frameReceived 0 { frame false false false 0 0 with ide := false, id := 1 }) = false ∧
    wellFormed (.bitAliasWrite 0 0x07FFFFFC#32 0) = false ∧ wellFormed (.bitAliasRead 0 0x08000002#32) = false ∧
    wellFormed (.lbusHalfAccess 1#32 ⟨none, .clean⟩) = false ∧ wellFormed (.lbusHalfAccess 0x10000000#32 ⟨none, .clean⟩) = false ∧
    wellFormed (.filteredLineChange false 16 true) = false := by decide

theorem test_wellFormed :
    wellFormed (.frameReceived 0 (frame true false true 15 64)) = true ∧
    wellFormed (.filteredLineChange true 23 true) = true ∧ wellFormed (.lbusHalfAccess 0x0FFFFFFE#32 ⟨none, .clean⟩) = true ∧
    wellFormed (.bitAliasRead 0 0x097FFFFC#32) = true := by decide

/-! ## Results that the manual gives -/

/-- S[512] at 45° and the ends of the table (R7, R102). -/
theorem test_sine : sineRom 0 = 0 ∧ sineRom 512 = 23169 ∧ sineRom 1024 = 0x7FFF := by decide

/-- The encoding of the MAC of the integral path. -/
theorem test_decodeMac : decodeQ 0x090AC375#32 = some (.par .mac
    { an := 1, s1 := 0, s2 := 2, xm := some { store := false, d := 6, p := 0, mod := 1 }
      ym := some { store := false, d := 7, p := 1, mod := 1 } }) := by decide

def pi (a0 a1 : Acc) : State := engine (fun g => { g with
  run := .running, mode := 2, a := #v[a0, a1, 0, 0], d := #v[0x0C00, 0x3333, 0x0400, 0, 0xA000, 0x6000, 0, 0] })
def plain (an : Fin 4) (s1 s2 : Fin 8) : PFmt := { an, s1, s2, xm := none, ym := none }

/-- The integral path of axis 41: MAC, MPY, ADDA, and CLMP at and within its bound. -/
theorem test_integralPath :
    (eng (result (.mac 0 .clean (plain 1 0 2)) (pi 0 0x4E000000)) 0).a[1] = 0x4E600000#40 ∧
    (eng (result (.mpy 0 .clean (plain 0 0 1)) (pi 0 0x4E600000)) 0).a[0] = 0x04CCC800#40 ∧
    (eng (result (.adda 0 .clean (plain 0 0 1)) (pi 0x04CCC800 0x4E600000)) 0).a[0] = 0x532CC800#40 ∧
    (eng (result (.clmp 0 .clean (plain 1 4 5)) (pi 0 0x60200000)) 0).a[1] = 0x60000000#40 ∧
    (eng (result (.clmp 0 .clean (plain 1 4 5)) (pi 0 0x5F600000)) 0).a[1] = 0x5F600000#40 := by decide

/-- Modulo addressing: K0 = 6, M0 = −2, X0 = 0x0123 gives 0x0121, and then 0x0125 (R87). -/
theorem test_modulo :
    postMod { QEng.reset with x := #v[0x123, 0, 0, 0], k := #v[6, 0, 0, 0], m := #v[0xFFFE, 0, 0, 0] } false 0 3 1 = 0x121 ∧
    postMod { QEng.reset with x := #v[0x121, 0, 0, 0], k := #v[6, 0, 0, 0], m := #v[0xFFFE, 0, 0, 0] } false 0 3 1 = 0x125 := by
  decide

/-- MGN_ACK_0 on the management ring, and the alias of its bit 5 (R537, R556). -/
theorem test_addresses :
    winSite 0xB8010 = some (16, .ring (Reg.MGN_ACK 0)) ∧
    (siteOf 1 0x08E00214).map (·.2) = some (.bitOf (Reg.MGN_ACK 0) 5) := by decide

/-- What each row's word spells: the table gives no bits (log entry 2). -/
theorem test_noWords : decodeTableWord 32 0 = none ∧ State.reset.withFetchWord 32 0 = State.reset := ⟨rfl, rfl⟩

/-- Reset leaves nothing waiting, and time standing. -/
theorem test_reset : step State.reset = .next State.reset := rfl

/-! ## Quill engines -/

/-- A running program, and the conditions of its flow instructions and faults: the statements about Quill arithmetic,
moves, loads, stores, PERR, GLU, ROT, FIN, JMP, CALL, RET, REP and illegal instructions. -/
theorem witness_running :
    (eng running 0).run = .running ∧ (eng running 0).mode ≠ 3 ∧ (eng running 0).nextMode ≠ some 3 ∧
    srcOn running 0x90 = true ∧ forcedMode running 0x90 = 0 ∧ atLoopEnd (eng running 0) = false ∧ running.axcfg[(eng running 0).axn].chain = [] ∧ condHolds (eng running 0).sr 0 = true ∧
    condHolds (eng running 0).sr 1 = false ∧ (eng running 0).calls = [] ∧ straight (.ldi 0 0) = true := by decide

def loop0 : RepLevel := { first := 0, last := 0, left := 1 }
def looped (n : Nat) (pc : BitVec 12) (calls : List (BitVec 12)) : State :=
  engine (fun g => { g with run := .running, mode := 2, pc, reps := List.replicate n loop0, calls })

theorem witness_QuillRepeatEnds :
    (eng (looped 1 0 []) 0).run = .running ∧ straight .fin = false ∧ atLoopEnd (eng (looped 1 0 []) 0) = true ∧
    (eng (looped 1 0 []) 0).mode ≠ 3 ∧ (eng (looped 1 0 []) 0).nextMode ≠ some 3 ∧ srcOn (looped 1 0 []) 0x90 = true ∧
    forcedMode (looped 1 0 []) 0x90 = 0 := by decide

theorem witness_QuillFlow :
    (eng (looped 0 0 [5, 6]) 0).calls = [5, 6] ∧ (eng (looped 0 0 [5, 6]) 0).calls.length < 3 ∧
    atLoopEnd (eng (looped 0 0 [5, 6]) 0) = false := by decide

/-- At the ends of REP's clauses: an end one past the instruction, a count of 1, two and three levels; depth 3 and 0. -/
theorem witness_QuillProgramFaultsStop :
    atLoopEnd (eng (looped 3 5 [1, 2, 3]) 0) = false ∧ (eng (looped 3 5 [1, 2, 3]) 0).pc.toNat < (6#12).toNat ∧
    (1#13) ≠ 0 ∧ (eng (looped 2 5 []) 0).reps.length < 3 ∧ 3 ≤ (eng (looped 3 5 []) 0).reps.length ∧
    (5#12).toNat ≤ (eng (looped 3 5 []) 0).pc.toNat ∧ 3 ≤ (eng (looped 0 5 [1, 2, 3]) 0).calls.length ∧
    (eng (looped 0 5 []) 0).calls = [] := by decide

theorem witness_QuillRetry :
    let s := engine (fun g => { g with run := .retrying, mode := 2 })
    (eng s 0).run = .retrying ∧ (eng s 0).mode ≠ 3 ∧ (eng s 0).nextMode ≠ some 3 ∧ srcOn s 0x90 = true ∧
    forcedMode s 0x90 = 0 ∧ srcOn s 0x80 = true ∧ forcedMode s 0x80 = 0 ∧ straight (.ldi 0 0) = true := by decide

theorem witness_QuillFinAndDispatch :
    let s := engine (fun g => { g with mode := 2, list := [255, 3] })
    (eng s 0).run = .idle ∧ (eng s 0).mode = 2 ∧ pdOn s (pdOfEngine 0) = true ∧ (eng s 0).list = [255, 3] ∧
    s.dct.slot[(255 : Fin 256)].failed = false ∧ 255 < axisLimit s := by decide

/-- A centralised chain with divided loops, and what a run of it reads: the worked tuning of axis 41 at 375 rpm, with
i_q = 0x2000 and u_q' = 0x1800 (chapter 4). -/
def chain41 : List ChainEnt :=
  [⟨.fbk, 1, 0⟩, ⟨.pred, 1, 0⟩, ⟨.pos, 4, 2⟩, ⟨.vel, 2, 1⟩, ⟨.cur, 1, 0⟩, ⟨.comm, 1, 0⟩, ⟨.stall, 1, 0⟩, ⟨.still, 1, 0⟩]
def lib41 (age idle policy : Nat) : LibIn :=
  { fb := #v[0, 0, 0, 0, 0, 0, 0, BitVec.ofNat 16 age, 0, 0, 0, 0, 0, BitVec.ofNat 16 idle, 0, 0]
    par := #v[1, 6, 0, 20, 0x3800, 0x16DB, 0, 0x72E4, 100, 1, 2, 0, 0, 0, 0, 0]
    bank := Vector.replicate 32 0, table := fun _ => 0, chain := chain41, policy := BitVec.ofNat 2 policy, place := false
    cmdAngle := false, stroke := 64, lat := 31250, period := 31250, out := #v[0, 0, 0, 0x1800, 0], noRef := 0 }
def run41 : LibRun :=
  { st := { LibSt.reset with ran := true }, s := false, p := 0, v := 4096, ak := 65536000, da := 209715, id := 0
    iq := 0x2000, idp := 0, iqp := 0, aout := 0, vref := 0, iref := 0, ud := 0, uq := 0, stall := false }

/-- The predictor and the output angle of the worked tuning of chapter 4. -/
theorem test_predictor :
    (libPred (lib41 0 0 0) run41).iqp = 8631 ∧ libAddr (lib41 0 0 0) (libPred (lib41 0 0 0) run41) = 1004 := by
  decide +kernel

/-- The stepper of chapter 5: at p_cmd 64 024 output word 1 is 0xA180 (R209). -/
theorem test_stepAddress :
    let i := { lib41 0 0 0 with
      fb := #v[0, 0, 0, 0, 0, 0, 0, 0, 0, 64024, 0, 0, 0, 0, 0, 0], par := (lib41 0 0 0).par.set 1 0, cmdAngle := true }
    (libComm i run41)[1] = 0xA180#16 := by decide +kernel

/-- Each clause of the library statement: FIN of a chained axis, fresh and stale feedback, standstill, STALL in its
stroke, and divided blocks out of theirs. -/
theorem witness_AxisLibrary :
    let s := { running with axcfg := running.axcfg.upd 0 (fun c => { c with chain := chain41 }) }
    (eng s 0).run = .running ∧ (eng s 0).mode ≠ 3 ∧ (eng s 0).nextMode ≠ some 3 ∧ atLoopEnd (eng s 0) = false ∧
    s.axcfg[(eng s 0).axn].chain ≠ [] ∧ (lib41 0 0 0).place = false ∧ libStale (lib41 0 0 0) = false ∧
    libStale (lib41 3 1 2) = true ∧ libIdle (lib41 3 1 2) = true ∧ chained chain41 .cur = true ∧ (lib41 3 1 2).policy = 2 ∧
    run41.st.ran = true ∧ libAge (lib41 3 1 2) ≠ 0 ∧ libAge (lib41 0 0 0) = 0 ∧ run41.st.still = false ∧
    run41.st.reeng = 0 ∧ runsIn chain41 .pos 2 = true ∧ chained chain41 .pos = true ∧ chained chain41 .stall = true ∧ runsIn chain41 .pos 0 = false ∧ runsIn chain41 .vel 0 = false ∧
    (lib41 3 1 2).bank[(24 : Fin 32)] = run41.st.tag := by decide +kernel

/-- A run that enters standstill under coast: the dwell of SS_DWELL = 1 run is reached. -/
theorem witness_AxisLibrary_standstill :
    let r := libStep (lib41 0 1 0) { run41.st with dwell := 1 }
    r.1.still = true ∧ (lib41 0 1 0).policy ≠ 2 ∧ r.2[0] = 2#16 := by decide +kernel

theorem witness_QuillCodes : qWf .fin = true ∧ decodeQ 0xD0000000#32 = some .fin := by decide

theorem witness_QuillModesAndDebug :
    Writable up 18 (Reg.QE_CTL 15) ∧
    (fld 3#32 0 2 = 3 ∧ (eng running 0).mode = 2) ∧
    (fld 1#32 0 2 = 1 ∧ (eng up 0).mode ≠ 1 ∧ engIdle (eng up 0) = true) ∧
    (fld 2#32 0 2 = 2 ∧ (eng up 0).mode ≠ 2) ∧
    (let s := engine (fun g => { g with mode := 3, run := .debug })
     (eng s 0).mode = 3 ∧ (eng s 0).run = .debug ∧ (eng s 0).nextMode = none ∧
     (decodeQ (mrd32 s (qProgAddr 0 0))).any straight = true) ∧
    (let s := engine (fun g => { g with nextMode := some 3 })
     (eng s 0).run = .idle ∧ (eng s 0).nextMode = some 3) ∧
    (let s := engine (fun g => { g with mode := 1, nextMode := some 2, modeDue := true })
     (eng s 0).run = .idle ∧ (eng s 0).nextMode = some 2 ∧ (eng s 0).modeDue = true ∧ (eng s 0).list = []) ∧
    (let s := engine (fun g => { g with nextMode := some 2 })
     (eng s 0).nextMode = some 2 ∧ (eng s 0).modeDue = false) :=
  ⟨writable_of_takes (by decide), by decide, by decide, by decide, by decide, by decide, by decide, by decide⟩

/-! ## Inkwell and the Scribe cores -/

def core (s : State) (c : Fin 16) (f : CoreSt → CoreSt) : State := { s with ink := { s.ink with core := s.ink.core.upd c f } }
def hart (s : State) (c : Fin 16) (f : Hart → Hart) : State := core s c (fun k => { k with hart := f k.hart })
def readyList (s : State) (p : Fin 4) (l : List (Fin 512)) : State := { s with ink := { s.ink with ready := s.ink.ready.put p l } }
def ligList (s : State) (n : Fin 64) (l : List LigEntry) : State := { s with ink := { s.ink with lig := s.ink.lig.put n l } }
def entry (t : Fin 512) (complete : Bool) : LigEntry := { task := t, seq := 1, complete, failed := false, res := (1, 2, 3) }

theorem witness_TasksBecomeReadyAndAreQueued :
    (takes up 1 (Reg.INK_TSET 511) = true ∧ takes up 1 (Reg.INK_TSET 256) = true ∧ takes up 1 (Reg.INK_TSET 255) = true) ∧
    (let s := regs up [(Reg.INK_TCFG 256, 0x80000000#32), (Reg.INK_TSTAT 256, 0#32), (Reg.INK_TMASK 256, 1#32)]
     takes s 1 (Reg.INK_TSET 256) = true ∧ taskState s 256 = 0 ∧ rdb s (Reg.INK_TCFG 256) 31 = true ∧
     condOf s 256 (rd s (Reg.INK_TFLAG 256) ||| 1#32) = true) ∧
    (let s := regs (readyList up 1 [300]) [(Reg.INK_CTL, 1#32), (Reg.INK_TCFG 300, 0x90000001#32), (Reg.INK_QSTAT 0, 1#32)]
     pdOn s 10 = true ∧ rdb s Reg.INK_CTL 0 = true ∧ hasRoom s 0 = true ∧ s.ink.ready[(0 : Fin 4)] = [] ∧
     s.ink.ready[(1 : Fin 4)] = [300] ∧ taskPrio s 300 = 1 ∧ rdb s (Reg.INK_TCFG 300) 0 = true ∧
     rdb s (Reg.INK_TCFG 300) 21 = false) := by decide

/-- Core 15 is master 17. -/
theorem witness_CoreTakesItsTask :
    gives up 17 (Reg.INK_TAKE 15) = true ∧
    (core up 15 (fun k => { k with queue := [300] })).ink.core[(15 : Fin 16)].queue = [300] ∧
    up.ink.core[(15 : Fin 16)].queue = [] ∧ up.ink.core[(15 : Fin 16)].running = none ∧
    (core up 15 (fun k => { k with running := some 300 })).ink.core[(15 : Fin 16)].running = some 300 := by decide

theorem witness_CoreEndsItsTask :
    (let s := core up 15 (fun k => { k with running := some 256 })
     takes s 17 (Reg.INK_DONE 15) = true ∧ s.ink.core[(15 : Fin 16)].running = some 256 ∧ ligOf s 256 = none) ∧
    (let s := ligList (core up 15 (fun k => { k with running := some 300 })) 63 [entry 301 false, entry 300 false]
     takes s 17 (Reg.INK_DONE 15) = true ∧ ligOf s 300 = some 63 ∧
     s.ink.lig[(63 : Fin 64)] = [entry 301 false, entry 300 false] ∧ (entry 301 false).task ≠ 300) ∧
    takes up 17 (Reg.INK_DONE 15) = true := by decide

/-- A ring of four entries: two complete entries stand before one that is not, and the ring is full after one, or at
once. -/
theorem witness_LigatureReleasesInOrder :
    (let s := ligList (regs up [(Reg.INK_LIG_CFG 63, 0x30#32)]) 63 [entry 300 true, entry 301 true, entry 302 false]
     let ring := ringAfter 3 0
     takes s 1 (Reg.INK_LIG_RING 63) = true ∧ rdf s (Reg.INK_LIG_CFG 63) 4 10 = 3 ∧ rdf s (Reg.INK_LIG_RING 63) 16 10 = 0 ∧
     s.ink.held.contains 63 = false ∧ (ring 1 ≠ 3 ∧ ring 2 ≠ 3 ∧ s.ink.lig[(63 : Fin 64)][2]? = some (entry 302 false)) ∧
     (ring 1 ≠ 2 ∧ ring 2 = 2 ∧ s.ink.lig[(63 : Fin 64)][1]? = some (entry 301 true)) ∧ ring 1 = 1) ∧
    ({ up.ink with held := [63] } : Ink).held.contains 63 = true ∧ takes up 1 (Reg.INK_LIG_RING 31) = true := by decide

theorem witness_ScribeCoresAndSlack :
    (takes up 1 (Reg.SC_CTL 15) = true ∧ rdb up (Reg.SC_CTL 15) 0 = false ∧ bit 1#32 0 = true) ∧
    (let s := regs up [(Reg.SC_CTL 15, 1#32)]
     takes s 1 (Reg.SC_CTL 15) = true ∧ rdb s (Reg.SC_CTL 15) 0 = true ∧ bit 0#32 0 = false ∧
     srcOn s (0xB0 + 15) = true ∧ forcedMode s (0xB0 + 15) = 0 ∧ srcActive s (0xB0 + 15) = false) ∧
    (let s := hart (regs up [(Reg.SC_STAT 15, 0x20000000#32), (Reg.SC_MTIMECMP_LO 15, 0#32),
       (Reg.SC_MTIMECMP_HI 15, 0#32)]) 15 (fun h => { h with ie := 0x80 })
     rdf s (Reg.SC_STAT 15) 28 4 = 2 ∧ bit s.ink.core[(15 : Fin 16)].hart.ie 7 = true ∧
     (rd s (Reg.SC_MTIMECMP_HI 15)).toNat * 2 ^ 32 + (rd s (Reg.SC_MTIMECMP_LO 15)).toNat ≤ mtime s) ∧
    (let s := regs up [(Reg.SC_STAT 15, 0x20000000#32)]
     rdf s (Reg.SC_STAT 15) 28 4 = 2 ∧ hartMip s 15 &&& s.ink.core[(15 : Fin 16)].hart.ie = 0#32) ∧
    takes up 1 Reg.INK_SLACK_CTL = true := by decide

def load31 : BankLoad :=
  { axis := 255, bank := true, addr := 0, accepted := true, tables := [], pos := 31, bad := false, src := .software }

theorem witness_CoefficientBanks :
    takes up 1 (Reg.INK_BANK 31) = true ∧ (let s := { up with loads := [load31] }
     loadOf s 255 true = some load31 ∧ load31.pos < 32 ∧ (eng s s.axcfg[(255 : Fin 256)].engine).run = .idle ∧
     pdOn s (pdOfEngine s.axcfg[(255 : Fin 256)].engine) = true) := by decide

/-! ## The machine as a whole -/

theorem witness_CommandsReachTheirAction :
    (busAction (.rearm 1 0)).isSome = true ∧ takes up 1 Reg.MGN_FIRST = true ∧ takes up 1 (Reg.DCT_CAM 0) = true ∧
    (winAction (.auth 1 0)).isSome = true ∧ reaches up 1 16 = true ∧ reaches up 1 17 = true := by decide

theorem witness_IdleStepIsOneTick :
    (up.pending = [] ∧ up.pwr.por = false ∧ State.reset.pending = [] ∧ State.reset.pwr.por = true ∧
      (∀ m : Master, up.hst.wait[m] = []) ∧ ∀ k : Fin 4, up.sb[k].recovering = false) ∧
    ({ up with sb := up.sb.upd 3 (fun c => { c with recovering := true }) }).sb[(3 : Fin 4)].recovering = true ∧
    ((up.tick + 1) % 10 ≠ 0 ∧ folRunning up = false ∧ (∀ c, coreLive up c = false) ∧ stage up = 0) ∧
    (let s := regs up [(Reg.STW_BOOT_STAT, 0x20000000#32)]
     (∀ c, coreLive s c = false) ∧ stage s = 2 ∧ s.stw.stageEnd ≤ s.tick + 1) ∧
    (let s := hart (regs up [(Reg.SC_STAT 15, 0x10000000#32), (Reg.SC_MTIMECMP_LO 15, 0#32),
       (Reg.SC_MTIMECMP_HI 15, 0#32)]) 15 (fun h => { h with mie := true, ie := 0x80 })
     let h := s.ink.core[(15 : Fin 16)].hart
     (∀ k, coreLive s k = true ↔ k = 15) ∧ rdf s (Reg.SC_STAT 15) 28 4 = 1 ∧ stage s = 0 ∧ h.load = none ∧ h.mie = true ∧
     h.ie = 0x80#32 ∧ heldBy s 17 = false ∧ mtime s + 1 < 2 ^ 64 ∧
     (rd s (Reg.SC_MTIMECMP_HI 15)).toNat * 2 ^ 32 + (rd s (Reg.SC_MTIMECMP_LO 15)).toNat ≤ mtime s) := by decide

/-- The first and the last word of the Scriptorium, and one refused with reason 4. -/
theorem witness_MemoryAccesses :
    busDead up 0 = false ∧ refusal up 0 false 0 .all = none ∧ refusal up 0 true 0x3FFFFC .all = none ∧
    refusal up 0 true 0x06000000 .all = some 4 ∧
    (let s := regs up [(Reg.SC_STAT 15, 0x10000000#32)]
     busDead s 17 = false ∧ refusal s 17 true 0x06000000 .all = some 4 ∧ coreLive s 15 = true) ∧
    (heldBy up 0 = false ∧ up.hst.wait[(0 : Fin 21)] = [] ∧ rdb up Reg.HST_ACCERR 31 = false) ∧
    (let s := engine (fun g => { g with mode := 2, run := .running, held := [{ m := 0, addr := 0x01000000, fixed := 0, failed := false }] })
     heldBy s 0 = true ∧ heldBy s 1 = false ∧ s.hst.wait[(1 : Fin 21)] = [] ∧ busDead s 1 = false ∧
     (eng s 0).mode = 2 ∧ engIdle (eng s 0) = false ∧ refusal s 1 false 0x01007FFC .all = none) := by decide

/-- The accesses that each reason refuses. -/
theorem witness_MemoryAccesses_refused :
    (let s := regs up [(Reg.FUS_ACC 3 0, 1#32)]
     rdb s (Reg.FUS_ACC 3 0) 0 = true ∧ refusal s 0 false 0x04000000 .all = some 1) ∧
    (refusal up 0 true 0x04000000 (.some 3) = some 2 ∧ lanesFull (.some 3) = false) ∧
    (reservedTo up 0 true Reg.HST_HDB = true ∧ refusal up 0 true Reg.HST_HDB .all = some 5) ∧
    (let s := regs up [(Reg.PWR_PD_STAT, 3#32)]
     pdOn s 10 = false ∧ refusal s 0 true 0x04000000 .all = some 7 ∧ pdOn s 11 = false ∧ pdOn s 12 = false ∧
     refusal s 0 true 0x04200000 .all = some 7) ∧
    (let s := { up with stw := { up.stw with range := some (0x100, 64) } }
     s.stw.range = some (0x100, 64) ∧ refusal s 0 true 0x13C .all = some 7 ∧ refusal s 0 true 0x140 .all = none ∧
     refusal s 18 true 0x13C .all = none) := by decide

theorem witness_RegisterAccesses :
    (takes up 0 Reg.HST_IRQ_EN = true ∧ refusal up 0 true (0x09000000 + 0x34 / 4 * 128 + 31 * 4) .all = none ∧
     gives up 0 (0x09000000 + 0x34 / 4 * 128) = true ∧ gives up 0 Reg.HST_IRQ_PEND = true) ∧
    (takes up 0 (Reg.DCT_CFG 255) = true ∧ rdb up Reg.DCT_CTL 8 = false) ∧
    (let s := regs up [(Reg.DCT_CTL, 0x100#32)]
     refusal s 0 true (Reg.DCT_CFG 255) .all = none ∧ rdb s Reg.DCT_CTL 8 = true ∧ rdb s Reg.HST_ACCERR 31 = false ∧
     rdf s (Reg.DCT_CFG 255) 16 16 ≠ fld 0x10000#32 16 16) ∧
    (let s := { up with hst := { up.hst with lbWrite := some (BitVec.ofNat 32 Reg.HST_IRQ_EN, 5) } }
     takes s 1 Reg.HST_IRQ_EN = true ∧
     s.hst.lbWrite = some (BitVec.ofNat 32 Reg.HST_IRQ_EN, 5)) := by decide

/-! ## The stroke -/

/-- Marks run, in full service, with axis 0 in group 0. -/
def serving : State := regs up [(Reg.BSL_CTL, 0x10#32), (Reg.STW_BOOT_STAT, 0x90000000#32), (Reg.BSL_STROKE_NUM, 62#32)]
def serving0 : State := { serving with
  wave := { serving.wave with grpList := serving.wave.grpList.put 0 [0] }
  ax := serving.ax.upd 0 (fun a => { a with ent := .running }) }

theorem witness_MarksAndInstants :
    (marks serving = true ∧ strokeNo serving = 62) ∧
    (let s := { regs up [(Reg.PLN_CS_STAT, 4#32)] with pln := { up.pln with grid := true } }
     s.pln.grid = true ∧ csState s ≠ 3 ∧ strokeNo s ≠ 63) ∧ (marks up = false ∧ up.pln.grid = false) ∧
    (∀ e : Fin 16, (eng serving e).run ≠ .retrying) ∧ pdOn serving 14 = true ∧ lfMode (regs up [(Reg.LF_CFG 7, 1#32)]) 7 ≠ 0 := by decide

theorem witness_LateGroupsRepeat :
    marks serving0 = true ∧ fullService serving0 = true ∧ serving0.grp[(0 : Fin 32)].released = false ∧
    (0 : Fin 256) ∈ serving0.wave.grpList[(0 : Fin 32)] ∧ serving0.ax[(0 : Fin 256)].ent ≠ .none ∧
    strokeNo serving0 ≠ 63 ∧ (∀ h : Fin 32, h ≠ 0 → serving0.wave.grpList[h] = []) ∧
    rdb (regs up [(Reg.PLN_VIEW_CFG, 1#32)]) Reg.PLN_VIEW_CFG 0 = true := by decide

/-! ## Margin -/

/-- A condition (0x120 + n are events, 0x40 + g transients); source 0x094 with class 63 enabled. -/
def classed : State := { regs up [(Reg.MGN_CLSCFG0 63, 0x80000000#32)] with mgn := { up.mgn with srcMap := [(0x94, 63)] } }

theorem witness_AssertionsAreRecorded :
    (srcOn classed 0x94 = true ∧ forcedMode classed 0x94 = 0 ∧ srcKind 0x94 = .event ∧ classOf classed 0x94 = 63 ∧
     rdb classed (Reg.MGN_CLSCFG0 63) 31 = true ∧ clsState classed 63 = 0 ∧ rdb classed Reg.MGN_FIRST 31 = false) ∧
    (srcOn up 0x130 = true ∧ forcedMode up 0x130 = 0 ∧ srcKind 0x130 = .condition ∧ srcActive up 0x130 = false) ∧
    (srcOn up 0x80 = true ∧ forcedMode up 0x80 = 0 ∧ srcKind 0x80 = .transient) ∧
    rdb (regs up [(Reg.MGN_FIRST, 0x80000000#32)]) Reg.MGN_FIRST 31 = true := by decide

theorem witness_WiringFaultsGroupStopsAndInjection :
    (srcOn up 0x94 = true ∧ forcedMode up 0x94 = 0) ∧ (takes up 0 Reg.MGN_INJ = true ∧ rdb up Reg.MGN_INJ 31 = false) ∧
    (let s := regs up [(Reg.MGN_INJ, 0x80000000#32)]
     takes s 0 Reg.MGN_INJ = true ∧ rdb s Reg.MGN_INJ 31 = true ∧ forcedMode s 0x130 = 0 ∧ srcKind 0x130 = .condition ∧
     srcActive s 0x130 = false) ∧
    (let s := { regs up [(Reg.MGN_INJ, 0x80000000#32)] with mgn := { up.mgn with forced := [(0x130, 2)], under := [0x130] } }
     takes s 0 Reg.MGN_INJ = true ∧ rdb s Reg.MGN_INJ 31 = true ∧ forcedMode s 0x130 = 2 ∧ 0x130 ∈ s.mgn.under) ∧
    (let s := { regs up [(Reg.MGN_INJ, 0x80000000#32)] with mgn := { up.mgn with forced := [(0x130, 1)] } }
     forcedMode s 0x130 = 1 ∧ 0x130 ∉ s.mgn.under) ∧
    rdf (regs up [(Reg.PLN_CH_STAT 1, 0x40000000#32)]) (Reg.PLN_CH_STAT 1) 29 3 = 2 := by decide

def inClass (st lvl : Nat) : State :=
  regs up [(Reg.MGN_CLS 63, BitVec.ofNat 32 (st * 2 ^ 29 + lvl * 2 ^ 26)), (Reg.MGN_CLSCFG0 63, 0xA8000000#32)]

/-- LEVEL 2 and CEIL 4: grace, a level below CEIL, and CEIL itself. -/
theorem witness_ReactionsOfAClass :
    clsState (inClass 1 0) 63 = 1 ∧ (clsState (inClass 3 3) 63 = 3 ∧ clsLevel (inClass 3 3) 63 < 4 ∧
      rdf (inClass 3 3) (Reg.MGN_CLSCFG0 63) 25 3 = 4) ∧ clsLevel (inClass 3 4) 63 = 4 ∧
    (takes up 1 (Reg.MGN_ACK 1) = true ∧ takes up 1 (Reg.MGN_CLR 1) = true ∧ takes up 1 Reg.MGN_FIRST = true) ∧
    clearBarred up 63 = false ∧
    (let s := { regs (inClass 3 3) [(Reg.MGN_ACT (0x130 / 32), 0x10000#32)] with mgn := { up.mgn with srcMap := [(0x130, 63)] } }
     takes s 1 (Reg.MGN_CLR 1) = true ∧ clsState s 63 ≠ 0 ∧ clearBarred s 63 = true) := by decide

/-! ## Ductus -/

/-- Axis 255 used, its slot as `f` makes it. -/
def slotted (f : Slot → Slot) : State :=
  updSlot { up with axcfg := up.axcfg.upd 255 (fun c => { c with used := true }) } 255 f
def noWords : DctParams := ⟨0, 0, 0, 0, 0, 0, 0⟩

def admits (s : State) (op : Nat) (w : DctParams) : Bool :=
  slotOn s 255 && recordWf op w && !recordBarred s 255 op && (slotOf s 255).held.isNone

theorem witness_DuctusMotionRecords :
    (let s := slotted (fun k => { k with lim := { k.lim with v := 1 } })
     [1, 2, 3, 4, 5].all (fun op => admits s op noWords) = true ∧ slotState s 255 = 1 ∧ (slotOf s 255).lim.v ≠ 0 ∧
     needsResync s 255 = false ∧ slotIdle (slotOf s 255) = true) ∧
    (let s := slotted (fun k => { k with steps := true })
     [1, 2, 3, 5].all (fun op => admits s op noWords) = true ∧ slotState s 255 = 7 ∧ slotIdle (slotOf s 255) = false) ∧
    (let s := wrb (updAx (slotted id) 255 (fun a => { a with fbAge := 1 })) (Reg.INK_AXS 255) 16 true
     admits s 3 noWords = true ∧ needsResync s 255 = true ∧ s.ax[(255 : Fin 256)].fbAge = 1) ∧
    ((slotOf (slotted id) 255).held = none ∧
     (slotOf (slotted (fun k => { k with held := some { src := .direct, w0 := 0, w := noWords } })) 255).held.isSome = true) ∧
    slotOn up 255 = false ∧ recordWf 1 ⟨0, 0, 0, 0, 0, 0, 1⟩ = false ∧
    (let s := { slotted id with mgn := { up.mgn with effQs := 1#32 } }
     slotOn s 255 = true ∧ recordBarred s 255 1 = true) := by decide

/-- An armed table of one section that rises by one count over a cycle of one, and a slot that could use it, with `dm`. -/
def cammed (dm : Int) : State :=
  let s := regs (slotted (fun k => { k with dm })) [(Reg.DCT_CFG 255, 0x10000000#32), (Reg.DCT_CAM 0, 0x2000#32)]
  { s with mem := s.mem.writeWords 4 [1, 1, 256] }
def steep (s : State) : Bool :=
  let u := camAt s 0 0
  decide (((slotOf s 255).record[(8 : Fin 16)].toNat : Rat) < ratAbs (camSlope s 0 u.1 u.2) * ratAbs ((slotOf s 255).dm : Rat))

theorem witness_DuctusCouplingRecords :
    (let s := regs (slotted id) [(Reg.DCT_CFG 255, 0x10000000#32)]
     admits s 6 ⟨1, 1, 1, 0, 0, 0, 0⟩ = true ∧ mSrc s 255 ≠ 0 ∧ slotIdle (slotOf s 255) = true ∧ needsResync s 255 = false) ∧
    mSrc (slotted id) 255 = 0 ∧
    (let s := slotted (fun k => { k with gear := some { num := 1, den := 1, q := 0, disp := 0, ramp := none, engaged := true } })
     slotState s 255 = 5 ∧ admits s 7 ⟨1, 1, 1, 0, 0, 0, 0⟩ = true ∧ admits s 8 noWords = true ∧ admits s 12 noWords = true ∧
     mSrc (regs s [(Reg.DCT_CFG 255, 0x10000000#32)]) 255 ≠ 0 ∧
     admits (regs s [(Reg.DCT_CFG 255, 0x10000000#32)]) 9 noWords = true ∧ mSrc s 255 = 0 ∧ admits s 9 noWords = true) ∧
    (let s := slotted (fun k => { k with cam := some { table := 0, x := 0, c := 0, base := 0, pend := none } })
     slotState s 255 = 6 ∧ admits s 8 noWords = true ∧ admits s 11 noWords = true ∧ camState s 0 ≠ 2) ∧
    (slotState (slotted id) 255 < 4 ∧ (slotOf (slotted id) 255).cam = none ∧
     [6, 8, 9, 10, 11, 12, 13].all (fun op => admits (slotted id) op (if op = 6 then ⟨1, 1, 1, 0, 0, 0, 0⟩ else noWords)) = true ∧
     camState (regs (slotted id) [(Reg.DCT_CFG 255, 0x10000000#32)]) 0 ≠ 2) ∧
    (let s := regs (slotted id) [(Reg.DCT_CFG 255, 0x10080000#32)]
     admits s 13 ⟨1, 0, 0, 0, 0, 0, 0⟩ = true ∧ sdEn s 255 = true) ∧
    (let s := cammed 0
     admits s 10 noWords = true ∧ mSrc s 255 ≠ 0 ∧ slotIdle (slotOf s 255) = true ∧ camState s 0 = 2 ∧
     (0#32).toNat < camCyc s 0 ∧ camCyc s 0 ≤ (1#32).toNat ∧ steep s = false ∧ steep (cammed 1) = true) := by decide +kernel

theorem witness_DuctusPortsTablesAndTimeouts :
    (takes up 17 (Reg.DCT_PORTW 15 7) = true ∧ rdb up (Reg.DCT_PST 15) 0 = false ∧
     rdb (regs up [(Reg.DCT_PST 15, 1#32)]) (Reg.DCT_PST 15) 0 = true) ∧
    takes up 1 (Reg.DCT_CAM 63) = true ∧ camState (regs up [(Reg.DCT_CAM 63, 0x1000#32)]) 63 = 1 ∧
    (let s := regs up [(Reg.DCT_CAM 63, 0x2000#32)]
     camState s 63 = 2 ∧ camCrcOk s 63 = false ∧ srcOn s (0xC0 + 63) = true ∧ forcedMode s (0xC0 + 63) = 0) ∧
    (let s := slotted (fun k => { k with steps := true })
     slotOn s 255 = true ∧ (slotOf s 255).steps = true) := by decide +kernel

/-- An armed table whose words are 0 but the CRC. -/
theorem witness_DuctusPortsTablesAndTimeouts_sound :
    let s := { regs up [(Reg.DCT_CAM 63, 0x2000#32)] with mem := up.mem.write32 28 (crc32 (List.replicate 28 0)) }
    camState s 63 = 2 ∧ camCrcOk s 63 = true := by decide +kernel

/-! ## Codex and bring-up -/

def atStage (n : Nat) : State := regs up [(Reg.STW_BOOT_STAT, BitVec.ofNat 32 (n * 2 ^ 28))]
def draft0 : DraftAxis :=
  { axis := 0, node := 1, engine := 0, mode := 1, words := [], held := none, vel := 0, jog := 0, pos := 0, speed := 0
    intV := 0, intD := 0, intQ := 0 }
def machine0 : MachineSec :=
  { period := 2, script := 0, absence := 32, pace := 0, nodeId := 1, netid := 0, capable := true, rank := 0, pdMask := 0 }

/-- LOAD with no image, TRANSITION with nothing loaded, RESTART with and without the key, and a draft service. A whole image
that the checks accept cannot be written down here: the layouts of its sections are free (log entry 7). -/
theorem witness_CodexCommands :
    reaches (atStage 10) 0 16 = true ∧
    codexBusy (codexStart (atStage 10)) = true ∧
    (codexBusy (atStage 10) = false ∧ imgHeaderOk (hostImage (atStage 10) (codexAddr (atStage 10))) = false ∧
     draftService (atStage 10) = false) ∧
    (fld 0x5A00#32 8 8 = 0x5A ∧ bit 0x5A00#32 3 = false ∧ fld 0#32 8 8 ≠ 0x5A) ∧
    (let s := { atStage 7 with drafts := [draft0], stw := { up.stw with draft := true, ready := true, machine := some machine0 } }
     draftService s = true ∧ s.stw.ready = true ∧ jogRuns s = false ∧ s.stw.machine = some machine0) := by decide

theorem witness_BringUpEvents :
    (1 ≤ stage (atStage 1) ∧ stage (atStage 3) ≤ 3 ∧ dirOk [] = false ∧ up.stw.bootHost = false) ∧
    (let s := codexStart (atStage 6)
     stage s = 6 ∧ codexBusy s = true ∧ draftService s = false ∧
     draftService { s with stw := { s.stw with draft := true } } = true) ∧
    (let s := { atStage 7 with drafts := [draft0], stw := { up.stw with draft := true, machine := some machine0 } }
     stage s = 7 ∧ s.stw.ready = false ∧ s.stw.draft = true ∧ s.stw.holdDraft = false ∧ jogRuns s = false ∧
     s.stw.machine = some machine0 ∧ jogRuns { s with drafts := [{ draft0 with jog := 1 }] } = true) ∧
    (stage (atStage 7) = 7 ∧ (atStage 7).stw.ready = false ∧ (atStage 7).stw.draft = false) ∧
    (let s := { up with stw := { up.stw with react := some [0] } }
     s.stw.react = some [0] ∧ (∀ c : Fin 64, clsState s c ≠ 1)) ∧ clsState (inClass 1 0) 63 = 1 := by decide

/-! ## Plenil -/

/-- A frame with a correct FCS. -/
def sealed (hdr pl : List Byte) : RxFrame :=
  let b := hdr ++ pl
  { bytes := b ++ fcsOf b, viol := false }
/-- A header on channel A of a type, from a source, to a destination, with a payload length. -/
def header (typ src dst len : Byte) : List Byte := [typ, 0x10, src, dst, len, 0, 0, 0, 0, 0, 0, 0, 0, 0, 0, 0]
def zeros (n : Nat) : List Byte := List.replicate n 0

/-- A member, node 5, with slot 0 of the active script; the slot opens at the send mark. -/
def net : State :=
  let s := regs up [(Reg.PLN_NODE 5, 0x80000000#32), (Reg.PLN_PORT_STAT 0, 4#32)]
  let p := s.pln
  { s with pln := { p with
      script := p.script.put 0 (some { acycMax := 1, instant := 0, downEnd := 100, guard := 0, slots := [⟨0, 5, 1⟩] })
      nodes := [{ id := 5, vendor := 0, count := 1, axes := [9] }]
      node := p.node.upd 5 (fun k => { k with slot := k.slot.put 0 (some 0) }) } }
def node5 (f : NodeSt → NodeSt) : State := { net with pln := { net.pln with node := net.pln.node.upd 5 f } }
def upFrame : RxFrame := sealed (header 2 5 255 16) (zeros 16)
def cmd0 (o : AcycOwner) : AcycCmd :=
  { owner := o, op := 0, la := 0, data := [], tag := 0, due := false, busy := false, resends := 0, busys := 0, sent := 0 }

theorem witness_UplinksAreJudgedByTheirSlot :
    uplinkOk net false { bytes := [], viol := true } = false ∧
    (uplinkOk net false upFrame = true ∧ activeSlot net 5 = some ⟨0, 5, 1⟩ ∧
     slotFit net false ⟨0, 5, 1⟩ (strokeTime net) = .inside ∧ net.pln.node[(5 : Fin 256)].took = false ∧
     net.wave.frozen = false ∧ ({ net with wave := { net.wave with frozen := true } }).wave.frozen = true) ∧
    (let f := sealed (header 2 5 255 32) ([0, 1, 0, 0, 9, 3] ++ zeros 26)
     let p := payload f.bytes
     let r := (p.drop 4).take 16
     uplinkOk net false f = true ∧ f8 p 1 = 1 ∧ (nodeAxes net 5).contains 9 = true ∧ f8 r 0 = 9 ∧
     net.axcfg[(9 : Fin 256)].lf = none ∧ (fb p 2).getLsbD 2 = false ∧ (fb r 1).getLsbD 0 = true ∧
     (fb r 1).getLsbD 1 = true) ∧
    (node5 (fun k => { k with took := true })).pln.node[(5 : Fin 256)].took = true ∧
    slotFit net false ⟨1, 5, 1⟩ (strokeTime net) = .early ∧
    (let s := regs (node5 (fun k => { k with driftAge := 32 })) [(Reg.PLN_NODE 5, 0x88000000#32)]
     isMember s 5 = true ∧ isDrift s 5 = true ∧ isLost s 5 = false ∧ s.pln.absence ≤ s.pln.node[(5 : Fin 256)].driftAge) := by
  decide +kernel

theorem witness_AcyclicCommandsAndJoins :
    (let f := sealed (header 5 0 0 16) (zeros 16)
     copyOk net false f = true ∧ frDst f.bytes = ctrlId net ∧ strokeTime net ≤ downEnd net ∧ frType f.bytes = 5 ∧
     frSrc f.bytes = 0 ∧ net.pln.reqs = []) ∧
    (let f := sealed (header 8 5 0 8) (zeros 8)
     let s := node5 (fun k => { k with cmd := some (cmd0 (.ring 0 0)) })
     copyOk s false f = true ∧ frType f.bytes = 8 ∧ frNode f.bytes = 5 ∧ s.pln.node[(5 : Fin 256)].cmd = some (cmd0 (.ring 0 0)) ∧
     f16 (payload f.bytes) 0 = 0 ∧ fb (payload f.bytes) 2 = 0 ∧ f8 (payload f.bytes) 3 = 0 ∧ ringRd s 0 = 0 ∧
     ringActive s 0 = 1 ∧ s.pln.ended[(0 : Fin 4)] = []) ∧
    (let f := sealed (header 8 5 0 8) [0, 0, 0, 4, 0, 0, 0, 0]
     copyOk net false f = true ∧ f8 (payload f.bytes) 3 = 4) ∧
    (let f := sealed (header 8 5 0 8) [0, 0, 2, 0, 0, 0, 0, 0]
     let k := { cmd0 .join with op := 2, data := [0x13, 0, 0, 0, 0, 0x80] }
     copyOk net false f = true ∧ f8 (payload f.bytes) 3 = 0 ∧ fb (payload f.bytes) 2 = k.op ∧
     leNat (k.data.take 2) = 0x10 + 4 * 0 + 3 ∧ (fb k.data 5).getLsbD 7 = true) ∧
    (∀ o ∈ [AcycOwner.timing 7 true, .leave], (node5 (fun k => { k with cmd := some (cmd0 o) })).pln.node[(5 : Fin 256)].cmd
      = some (cmd0 o)) := by decide +kernel

theorem witness_NetworkCommands :
    (let s := { regs net [(Reg.PLN_ACQ_CFG 0, 0x10#32)] with mem := net.mem.writeWords 0 [0x05000000] }
     takes s 1 (Reg.PLN_ACQ_WR 0) = true ∧ ringRd s 0 = 0 ∧ ringActive s 0 = 0 ∧ s.pln.ended[(0 : Fin 4)] = [] ∧
     ringLen s 0 = 2 ∧ (∀ q : Fin 4, q ≠ 0 → rdf s (Reg.PLN_ACQ_WR q) 0 10 = 0 ∧ ringLen s q = 1) ∧ acycMax s = 1 ∧
     fld (mrd32 s (ringAddr s 0 0)) 24 8 = 5 ∧ fld (mrd32 s (ringAddr s 0 0)) 0 8 = 0 ∧
     mrd32 s (ringAddr s 0 0 + 4) = 0 ∧ isMember s 5 = true ∧ s.pln.node[(5 : Fin 256)].cmd = none) ∧
    takes net 1 Reg.PLN_SW_CTL = true ∧ takes net 1 Reg.PLN_NODE_CTL = true ∧ takes net 1 Reg.PLN_CH_CTL = true ∧
    swRefusal net 1 = some 4 ∧
    (let s := regs net [(Reg.PLN_NODE 5, 0x90000000#32)]
     isLost s 5 = true ∧ missRun s 5 = 0 ∧ isDrift s 5 = false ∧ isMember s 5 = true ∧ isLeaving s 5 = false) ∧
    (let s := regs net [(Reg.PLN_NODE 6, 0x40000000#32)]
     isMember s 6 = false ∧ isJoining s 6 = true) ∧ (isMember net 7 = false ∧ isJoining net 7 = false) ∧
    (chState net true = 0 ∧ (chSt net true).decided = 0 ∧
     chState (regs net [(Reg.PLN_CH_STAT 1, 0x40000000#32)]) true = 2) := by decide +kernel

def portAt (st : Nat) (k : PortSt → PortSt) : State :=
  let s := regs net [(Reg.PLN_PORT_STAT 1, BitVec.ofNat 32 st)]
  { s with pln := { s.pln with port := s.pln.port.upd 1 k } }

theorem witness_PortsAndForwarding :
    (portLive net 3 = true ∧ portState net 3 ≤ 1) ∧ (1 ≤ portState (portAt 1 id) 1) ∧
    (portState (portAt 2 (fun k => { k with n := 14 })) 1 = 2 ∧ (portAt 2 (fun k => { k with n := 14 })).pln.port[(1 : Fin 4)].n < 15) ∧
    (portAt 2 (fun k => { k with n := 15 })).pln.port[(1 : Fin 4)].n = 15 ∧ portState (portAt 3 id) 1 = 3 ∧
    (portState (portAt 4 id) 1 = 4 ∧ (chSt (portAt 4 id) (portCh 1)).wrap = false ∧ isPort1 1 = true ∧
     chOn (portAt 4 id) (portCh 1) = true) ∧
    (let s := regs net [(Reg.PLN_PORT_STAT 0, 4#32), (Reg.PLN_PORT_STAT 1, 4#32), (Reg.PLN_CTRL_ID, 7#32)]
     upWrap s false = false ∧ downWrap s false = false ∧
     (ctrlId s ≠ 0 ∧ frSrc (sealed (header 2 7 255 16) (zeros 16)).bytes = ctrlId s) ∧
     ¬ frSrc upFrame.bytes = ctrlId s ∧ frHops upFrame.bytes ≠ 128) := by decide

/-- A channel whose ports are up for a page leaves its wrap; and an own SETPOINT comes back. -/
theorem witness_PortsAndForwarding_returns :
    (let s := regs net [(Reg.PLN_PORT_STAT 0, 4#32), (Reg.PLN_PORT_STAT 1, 4#32)]
     let s := { s with pln := { s.pln with port := Vector.replicate 4 { s.pln.port[(0 : Fin 4)] with upLast := true }
                                           ch := s.pln.ch.set false { s.pln.ch.get false with wrap := true } } }
     (∀ q : Fin 4, portCh q = false → portState s q = 4 ∧ s.pln.port[q].upLast = true) ∧ (chSt s false).revLast = false ∧
     (chSt s false).wrap = true) ∧
    (let f := sealed (header 1 7 255 24) (zeros 24)
     let s := regs net [(Reg.PLN_PORT_STAT 1, 4#32), (Reg.PLN_CTRL_ID, 7#32)]
     let s := { s with pln := { s.pln with ch := s.pln.ch.set false { s.pln.ch.get false with train := [[0]] } } }
     chOn s false = true ∧ portState s 1 = 4 ∧ isPort1 1 = true ∧ chState s false < 2 ∧ (chSt s false).wrap = false ∧
     headerOk s false f.bytes = true ∧ fcsOk f.bytes = true ∧ frType f.bytes = 1 ∧ frSrc f.bytes = ctrlId s ∧
     (chSt s false).train.headD [] ≠ [] ∧ frContent f.bytes ≠ frContent ((chSt s false).train.headD []) ∧
     srcOn s 0x114 = true ∧ forcedMode s 0x114 = 0 ∧ (chSt s false).decided = 0) := by decide +kernel

theorem witness_NetworkTime :
    (let at' (n : Nat) := regs net [(Reg.PLN_CS_STAT, BitVec.ofNat 32 n)]
     csState (at' 1) = 1 ∧ csState (at' 2) = 2 ∧ csState (at' 3) = 3 ∧ 5 ≤ csState (at' 5) ∧
     integrating (at' 5) = false ∧ integrating (at' 4) = true) ∧
    (let s := { regs net [(Reg.PLN_TIME_STAT, 0x0600#32), (Reg.PLN_CTRL_ID, 6#32)] with
                pln := { net.pln with miss := ⟨3, 0⟩ } }
     isTimeMaster s (!activeB s) = true ∧ 3 ≤ s.pln.miss.get (activeB s)) ∧
    (let s := { regs net [(Reg.PLN_CS_STAT, 5#32), (Reg.PLN_CTRL_ID, 6#32)] with pln := { net.pln with capable := true, coldLast := [(9, 9)] } }
     isTimeMaster s false = false ∧ masterOf s false = 0 ∧ isTimeMaster s true = false ∧ masterOf s true = 0 ∧
     5 ≤ csState s ∧ s.pln.capable = true ∧ pairLt (ownPair s) (9, 9) = true) ∧
    (let f := sealed (header 4 5 255 20) (zeros 20)
     copyOk net false f = true ∧ frSrc f.bytes ≠ ctrlId net ∧ toMe net f.bytes = true ∧ frType f.bytes = 4 ∧
     f32 (payload f.bytes) 4 = net.pln.netid.toNat ∧ strokeTime net ≤ downEnd net) ∧
    (let f := sealed ((header 4 5 255 20).set 6 63) (zeros 20)
     let s := regs net [(Reg.PLN_CS_STAT, 5#32), (Reg.BSL_STROKE_NUM, 63#32)]
     copyOk s false f = true ∧ frStroke f.bytes % 64 = 63 ∧ 5 ≤ csState s ∧ s.pln.cold = []) ∧
    (let f := sealed (header 3 5 255 24) ([5, 0, 0, 0] ++ zeros 20)
     let s := regs net [(Reg.PLN_CS_STAT, 4#32)]
     copyOk s false f = true ∧ toMe s f.bytes = true ∧ frType f.bytes = 3 ∧ afterNode s f.bytes = false ∧
     integrating s = true ∧ frSrc f.bytes = f8 ((payload f.bytes).take 24) 0 ∧ s.base.seen.get false = false) ∧
    (let f := sealed (header 3 5 255 24) ([5, 0, 0, 0] ++ zeros 20)
     let s := regs net [(Reg.PLN_CS_STAT, 6#32), (Reg.PLN_TIME_STAT, 5#32)]
     copyOk s false f = true ∧ afterNode s f.bytes = false ∧ integrating s = false ∧ frSrc f.bytes = masterOf s false ∧
     activeB s = false ∧ s.base.seen.get false = false) := by decide +kernel

/-! ## Baseline, pulses, feedback and captures -/

theorem witness_BaselineIsSetAndSteered :
    takes up 1 (Reg.BSL_INC 1) = true ∧ takes up 1 Reg.BSL_SET = true ∧
    (bit 0#32 4 = activeB serving ∧ marks serving = true) ∧
    1000000000 ≤ rdf (regs up [(Reg.BSL_SET_NS, 1000000000#32)]) Reg.BSL_SET_NS 0 30 ∧
    (marks up = false ∧ rdf up Reg.BSL_SET_NS 0 30 < 1000000000) ∧ rdb (regs up [(Reg.BSL_CTL, 2#32)]) Reg.BSL_CTL 1 = true ∧
    (let s := { regs serving [(Reg.PLN_TIME_STAT, 5#32)] with base := { serving.base with errs := ⟨[some 1], []⟩ } }
     rdb s Reg.BSL_CTL 1 = false ∧ marks s = true ∧ masterOf s false ≠ 0 ∧ isTimeMaster s false = false ∧
     (((s.base.errs.get false).drop ((s.base.errs.get false).length - 8)).filterMap id) ≠ []) := by decide

def pulse (cfg : Word) (wid : Word) : TpProg := { cfg, ns := 0, t0 := 0, per := 0, perf := 0, wid }
def pulsed (f : TpSt → TpSt) : State :=
  let s := regs up [(Reg.TP_WID 15, 10#32), (Reg.TP_CFG 15, 4#32)]
  { s with tp := s.tp.upd 15 f }

theorem witness_TimedPulses :
    takes up 1 (Reg.TP_CTL 15) = true ∧ tpOk (tpProg up 15) = false ∧
    (pulsed (fun k => { k with rsv := 2 })).tp[(15 : Fin 16)].rsv ≠ 0 ∧
    (let s := regs (pulsed (fun k => { k with took := some 0 })) [(Reg.TP_STAT 15, 1#32)]
     s.tp[(15 : Fin 16)].took = some s.tick ∧ rdb s (Reg.TP_STAT 15) 0 = true ∧ s.tp[(15 : Fin 16)].rsv = 0 ∧
     tpOk (tpProg s 15) = true) ∧
    (tpOk (tpProg (pulsed id) 15) = true ∧ (pulsed id).tp[(15 : Fin 16)].rsv = 0 ∧ (pulsed id).tp[(15 : Fin 16)].took = none ∧
     (pulsed id).tp[(15 : Fin 16)].high = false ∧ tpMode (tpProg (pulsed id) 15) = 1 ∧
     (domTime (pulsed id) (tpDom (pulsed id) (tpProg (pulsed id) 15))).units ≤ (tpProg (pulsed id) 15).t0) ∧
    (pulsed (fun k => { k with high := true, cur := some (pulse 1 10), stopping := true })).tp[(15 : Fin 16)].high = true ∧
    (let s := pulsed (fun k => { k with high := true, cur := some (pulse 3 10), pend := some (pulse 1 10) })
     s.tp[(15 : Fin 16)].high = true ∧ s.tp[(15 : Fin 16)].cur = some (pulse 3 10) ∧
     s.tp[(15 : Fin 16)].pend = some (pulse 1 10)) ∧ tpMode (pulse 12 10) = 3 ∧
    (let s := pulsed (fun k => { k with cur := some (pulse 1 10), edge := some 0 })
     s.tp[(15 : Fin 16)].cur = some (pulse 1 10) ∧ s.tp[(15 : Fin 16)].edge = some 0 ∧ pdOn s 14 = true) := by decide

def fed (cfg : Word) (f : LfCh → LfCh) : State :=
  let s := regs up [(Reg.LF_CFG 7, cfg), (Reg.LF_CPR 7, 4#32)]
  { s with lf := s.lf.upd 7 f }

theorem witness_FeedbackChannelsCount :
    pdOn up 14 = true ∧ (lfMode (fed 1 id) 7 = 1 ∧ lfLine (fed 1 id) 7 = (false, false, false) ∧ lfCpr (fed 1 id) 7 ≠ 0) ∧
    (lfMode (fed 2 id) 7 = 2 ∧ hallSector 0 = none ∧ (∃ x, hallSector 1 = some x) ∧ lfLine (fed 2 id) 7 = (false, false, false)) ∧
    (let s := { fed 2 id with pins := { (fed 2 id).pins with lfA := 0x80 } }
     lfLine s 7 = (true, false, false) ∧ hallChanged 1 3 ≤ 1 ∧ hallSector 1 = some 0 ∧ hallSector 3 = some 1) ∧
    rdb (regs (fed 0x21 id) [(Reg.LF_STAT 7, 0x40#32)]) (Reg.LF_STAT 7) 6 = true ∧
    (let s := fed 3 (fun k => { k with ssiBusy := true })
     lfMode s 7 = 3 ∧ s.lf[(7 : Fin 8)].ssiBusy = true ∧ s.lf[(7 : Fin 8)].ssiLast = none) ∧
    lfMode (fed 4 id) 7 = 4 := by decide

theorem witness_CapturesAndLineChanges :
    takes up 1 Reg.LF_CTL = true ∧ bit 0x8000#32 (8 + 7) = true ∧
    (let s := regs up [(Reg.CAP_CFG 15, 0xA0000000#32)]
     bit (rd s (Reg.CAP_CFG 15)) 31 = true ∧ s.pins.cap.getLsbD 15 = false ∧ fld (rd s (Reg.CAP_CFG 15)) 29 2 % 2 = 1 ∧
     s.cap[(15 : Fin 16)].last = none ∧ s.cap[(15 : Fin 16)].fifo.length < 8) ∧
    (let s := regs (updCap up 15 (fun k => { k with last := some 0, fifo := List.replicate 8 [] })) [(Reg.CAP_CFG 15, 0xA000FFFF#32)]
     edgeTime s 0 < 0 + 0xFFFF * 100 * 2 ^ 24 ∧ 8 ≤ s.cap[(15 : Fin 16)].fifo.length) ∧ forcedMode up (0x100 + 7) = 0 := by decide

theorem witness_FolioCaptures :
    takes up 1 Reg.FOL_CTL = true ∧ folArmOk up = true ∧
    folArmOk (regs up [(Reg.FOL_TRIG, 6#32)]) = false ∧ folRunning up = false ∧
    (let s := regs up [(Reg.FOL_STAT, 1#32)]
     folRunning s = true ∧ folState s = 1 ∧ rdf s Reg.FOL_TRIG 0 3 = 0) ∧ folState (regs up [(Reg.FOL_STAT, 2#32)]) = 2 ∧
    (let s := { regs up [(Reg.FOL_STAT, 3#32)] with fol := { up.fol with queue := [⟨0, (0, 0, 0), 0⟩] } }
     folRunning s = true ∧ s.fol.queue = [⟨0, (0, 0, 0), 0⟩] ∧ s.fol.dropped = 0) := by decide

/-! ## Service bus -/

def cbus (cfg : List (Nat × Word)) (f : SbCt → SbCt) : State :=
  let s := regs up cfg
  { s with sb := s.sb.upd 3 f }
def onBus (f : SbCt → SbCt) : State := cbus [(Reg.SB_CTL 3, 1#32), (Reg.SB_TXS 3, 0x10000#32)] f

theorem witness_ServiceBusTakesItsCommands :
    takes up 1 (Reg.SB_CTL 3) = true ∧ sbMode up 3 = 0 ∧ sbTimingOk up 3 1#32 = true ∧
    sbTimingOk (regs up [(Reg.SB_NBT 3, 0#32)]) 3 1#32 = false ∧
    (takes (onBus id) 1 (Reg.SB_CTL 3) = true ∧ sbMode (onBus id) 3 ≠ 0 ∧ takes (onBus id) 1 (Reg.SB_TXC 3) = true ∧
     sbLevel (onBus id) 3 ≠ 0 ∧ sbBusOff (onBus id) 3 = false) ∧
    (let s := cbus [(Reg.SB_STAT 3, 0x04000000#32)] id
     takes s 1 (Reg.SB_CTL 3) = true ∧ sbBusOff s 3 = true ∧ s.sb[(3 : Fin 4)].recovering = false) ∧
    (let s := cbus [(Reg.SB_TXS 3, 0x00800000#32)] id
     takes s 1 (Reg.SB_TXC 3) = true ∧ sbUrg s 3 = true) ∧
    fld 0x1E1#32 1 4 = 0 ∧ 0x3E2#32 &&& 0x1D#32 = 0#32 ∧ 4#32 &&& 0x1B#32 = 0#32 ∧ 8#32 &&& 0x17#32 = 0#32 ∧
    16#32 &&& 0xF#32 = 0#32 := by decide

theorem witness_ServiceBusSendsAndCountsErrors :
    (pdOn (onBus id) 14 = true ∧ sbMode (onBus id) 3 ≠ 0 ∧ (onBus id).sb[(3 : Fin 4)].offer = none ∧
     sbMaySend (onBus id) 3 = true ∧ sbBusOff (onBus id) 3 = false ∧ sbMode (onBus id) 3 ≠ 2) ∧
    (let s := onBus (fun c => { c with offer := some false })
     s.sb[(3 : Fin 4)].offer = some false ∧ s.sb[(3 : Fin 4)].won = false) ∧
    (let s := onBus (fun c => { c with offer := some false, won := true })
     s.sb[(3 : Fin 4)].offer = some false ∧ s.sb[(3 : Fin 4)].won = true) ∧
    sbMode (cbus [(Reg.SB_CTL 3, 2#32)] id) 3 = 2 ∧
    (let s := cbus [(Reg.SB_STAT 3, 0x04000000#32)] (fun c => { c with recovering := true })
     sbBusOff s 3 = true ∧ s.sb[(3 : Fin 4)].recovering = true) := by decide

theorem witness_ServiceBusReceives :
    (pdOn (onBus id) 14 = true ∧ sbMode (onBus id) 3 ≠ 0 ∧ sbMode (onBus id) 3 ≠ 4 ∧ sbBusOff (onBus id) 3 = false ∧
     (fins 16).find? (sbMatches (onBus id) 3 true 0) = none) ∧
    (let f : CanFrame := frame true false false 0 0
     f.fdf = true ∧ rdb (onBus id) (Reg.SB_CTL 3) 5 = false ∧ rdb (onBus id) (Reg.SB_CTL 3) 7 = false ∧
     rdb (cbus [(Reg.SB_CTL 3, 0x81#32)] id) (Reg.SB_CTL 3) 7 = true ∧ (onBus id).sb[(3 : Fin 4)].initPend = false) ∧
    (frame false false false 0 0).fdf = false ∧
    (fins 16).find? (sbMatches (cbus [(Reg.SB_CTL 3, 1#32), (Reg.SB_MBF0 15 + 0x300, 0xC0000000#32)] id) 3 true 0) = some 15 ∧
    (takes up 1 (Reg.SB_RXACQ 3) = true ∧ up.sb[(3 : Fin 4)].acq = none ∧ up.sb[(3 : Fin 4)].full[(15 : Fin 16)] = []) ∧
    (let s := cbus [] (fun c => { c with full := c.full.put 15 [true] })
     s.sb[(3 : Fin 4)].full[(15 : Fin 16)] = [true] ∧ s.sb[(3 : Fin 4)].acq = none) ∧
    (let s := cbus [] (fun c => { c with acq := some (15, true) })
     takes s 1 (Reg.SB_RXREL 3) = true ∧ s.sb[(3 : Fin 4)].acq = some (15, true)) := by decide

/-! ## Safety island -/

/-- A configuration with pair 7, and output 7 on pair 7. -/
def safe91 (out : Word) : List Word :=
  (List.replicate 9 0 ++ [0x80010032#32] ++ List.replicate 14 0 ++ [out, 0x00C80032#32] ++ List.replicate 65 0)
def island (out : Word) (f : Isl → Isl) : State :=
  { up with isl := f { up.isl with cfg := safe91 out, mode := .running, checked := true } }
def allRun (k : SafeCh) : SafeCh := { k with pair := Vector.replicate 8 .run }

theorem witness_SafetyInputsDriveTheOutputs :
    (let s := island 0x80800000#32 id
     s.isl.mode = .running ∧ outEn s.isl.cfg 7 = true ∧ outCat1 s.isl.cfg 7 = false ∧
     s.isl.sealCh.delaying.getLsbD 7 = false ∧ s.isl.wdnCh.delaying.getLsbD 7 = false ∧
     (outPairs s.isl.cfg 7).getLsbD 7 = true ∧ s.isl.wdnCh.pair[7] ≠ .run ∧ s.isl.checked = true ∧ s.isl.pulse = none ∧
     (outBoth s.isl).getLsbD 7 = false) ∧
    (let s := island 0xA0800000#32 (fun i => { i with sealCh := { i.sealCh with cmd := 128 } })
     outEn s.isl.cfg 7 = true ∧ outCat1 s.isl.cfg 7 = true ∧ s.isl.sealCh.cmd.getLsbD 7 = true ∧
     s.isl.sealCh.expired.getLsbD 7 = false ∧ s.isl.pulse = none) ∧
    (let s := island 0xA0800000#32 (fun i => { i with pulse := some (7, true) })
     outEn s.isl.cfg 7 = true ∧ s.isl.pulse = some (7, true) ∧ s.isl.sealCh.inDem.getLsbD 7 = false) ∧
    (island 0xA0800000#32 (fun i => { i with wdnCh := { i.wdnCh with expired := 128 } })).isl.wdnCh.expired.getLsbD 7 = true ∧
    (let s := island 0x80800000#32 (fun i => { i with sealCh := allRun i.sealCh, wdnCh := allRun i.wdnCh })
     s.isl.mstop = false ∧ s.isl.wdnCh.wait.getLsbD 7 = false ∧
     (∀ x : Fin 8, (outPairs s.isl.cfg 7).getLsbD x = true → pairEn s.isl.cfg x = true ∧ s.isl.wdnCh.pair[x] = .run ∧
       s.isl.wdnCh.dem.getLsbD x = false ∧ s.isl.sealCh.pair[x] = .run ∧ s.isl.sealCh.dem.getLsbD x = false) ∧
     s.isl.wdnCh.expired.getLsbD 7 = false ∧ s.isl.sealCh.expired.getLsbD 7 = false ∧ s.isl.sealCh.delaying.getLsbD 7 = false) ∧
    (let s := island 0 (fun i => { i with mode := .startup })
     s.isl.mode = .startup ∧ s.isl.hbSeen = false ∧
     (island 0 (fun i => { i with mode := .startup, hbSeen := true })).isl.hbSeen = true) ∧
    (let s := island 0xA0800000#32 (fun i => { i with sealCh := { i.sealCh with delaying := 128 } })
     s.isl.sealCh.delaying.getLsbD 7 = true) ∧
    (let s := island 0 (fun i => { i with mode := .lockout, auth := some 0, condCause := 10 })
     s.isl.mode = .lockout ∧ s.isl.auth.isSome = true ∧ releaseOk s s.isl.condCause s.isl.condDetail = true ∧
     s.isl.checked = true) ∧
    (let s := island 0 (fun i => { i with mode := .lockout, condCause := 11 })
     ¬ (s.isl.auth.isSome = true ∧ releaseOk s s.isl.condCause s.isl.condDetail = true)) ∧
    (let s := island 0x80800000#32 (fun i => { i with sealCh := { i.sealCh with cmd := 128 }
                                                      wdnCh := { i.wdnCh with cmd := 128 } })
     outEn s.isl.cfg 7 = true ∧ s.isl.pulse = none ∧ (outBoth s.isl).getLsbD 7 = true) ∧
    (let s := island 0x80800000#32 (fun i => { i with pulse := some (7, true) })
     s.isl.pulse = some (7, true) ∧ s.isl.pulseWait = [] ∧ (7 : Fin 8) ≠ 6) := by decide

def beat (crc : Word) (pairs : BitVec 8) : Heartbeat := { seq := 1, crc, pairs, cmds := 0 }

theorem witness_SafetyFaultsLockOut :
    (let s := island 0x80800000#32 (fun i => { i with sealCh := { i.sealCh with timer := Vector.replicate 8 50, diff := true }
                                                      hbSeen := true })
     s.isl.mode ≠ .lockout ∧ s.isl.checked = true ∧ pairEn s.isl.cfg 7 = true ∧ pairDisc s.isl.cfg 7 ≤ s.isl.sealCh.timer[7] ∧
     outEn s.isl.cfg 7 = true ∧ s.isl.hbSeen = true ∧
     (∀ q, s.isl.sealCh.seq = some q → (1 : Half) = q + 1) ∧ (beat 1 0).crc ≠ cfgCrc s.isl.cfg ∧ (beat 0 0).crc = cfgCrc s.isl.cfg ∧
     ((beat 0 0).pairs = pairRuns s.isl.cfg s.isl.sealCh ∧ (beat 0 0).cmds = outCmd s.isl true) ∧
     ¬ (beat 0 1).pairs = pairRuns s.isl.cfg s.isl.sealCh ∧ s.isl.sealCh.diff = true) ∧
    (let s := { regs (island 0x80800000#32 (fun i => { i with cfg := i.cfg.set 89 0x80000000#32 })) [(Reg.PLN_NODE 254, 0x80000000#32)]
                with pln := { up.pln with node := up.pln.node.upd 254 (fun k => { k with safe := true, stopSent := true }) } }
     rdb s (Reg.PLN_NODE 254) 31 = true ∧ s.pln.node[(254 : Fin 256)].safe = true ∧
     s.pln.node[(254 : Fin 256)].stopSent = true ∧ s.pln.node[(254 : Fin 256)].stoSeen = false ∧
     up.pln.node[(254 : Fin 256)].stopSent = false) ∧
    (pairEn (island 0 id).isl.cfg 0 = false ∧ outEn (island 0 id).isl.cfg 0 = false) ∧
    (let s := regs (island 0 (fun i => { i with mode := .lockout, hbSeen := true })) [(Reg.WDN_LOCK, 0x05000000#32)]
     s.isl.mode = .lockout ∧ s.isl.checked = true ∧ rdf s Reg.WDN_LOCK 24 4 = 5 ∧ s.isl.hbSeen = true) ∧
    (island 0 (fun i => { i with checked := false })).isl.checked = false := by decide

/-- The heartbeat that the Warden forms: the next sequence number, no pair in RUN, every output off, the CRC (R480). -/
theorem test_heartbeatFormed :
    let s := island 0x80800000#32 (fun i => { i with wdnCh := { i.wdnCh with sent := 41 } })
    hbForm s .warden = { seq := 42, pairs := 0, cmds := 0, crc := cfgCrc s.isl.cfg } := by decide

/-- A node whose mask names an output that is off has its STOP bit set. -/
theorem witness_stopBit :
    stopBit (island 0x80800000#32 (fun i => { i with cfg := i.cfg.set 89 0x00800000#32 })) 254 = true := by decide

def doomed (f : Isl → Isl) : State := { up with isl := f { up.isl with mode := .lockout } }
def entry0 : SafeEntry := { words := List.replicate 6 0, acts := false }

theorem witness_SafetyCommandsAndLedger :
    (reaches up 1 17 = true ∧ reaches up 2 17 = true ∧ rdb up Reg.HST_ACCERR 31 = false ∧ rdb up Reg.WDN_CMD_STAT 31 = false ∧
     up.isl.lastTag ≠ some 5 ∧ up.isl.refusing = false ∧ up.isl.digest = [] ∧ up.isl.auth = none ∧ pwdOk up = false) ∧
    (doomed (fun i => { i with lastTag := some 5 })).isl.lastTag = some 5 ∧
    rdb (regs up [(Reg.WDN_CMD_STAT, 0x80000000#32)]) Reg.WDN_CMD_STAT 31 = true ∧
    (doomed (fun i => { i with digest := [0], refusing := true })).isl.refusing = true ∧
    (let s := doomed (fun i => { i with auth := some 0, checked := true })
     ledgerUp s = true ∧ warning s = false ∧ s.isl.queue = [] ∧ s.isl.auth ≠ none ∧ s.isl.mode = .lockout) ∧
    (let s := regs (doomed id) [(Reg.WDN_PWD_LEN, 8#32), (Reg.WDN_PWD 0, 0x21212121#32), (Reg.WDN_PWD 1, 0x7E7E7E7E#32)]
     pwdOk s = true) ∧
    (let s := doomed (fun i => { i with queue := List.replicate 8 entry0 })
     8 ≤ s.isl.queue.length) ∧
    (let s := { up with isl := { up.isl with checked := false, mode := .startup } }
     s.isl.checked = false ∧ s.pwr.por = false ∧ ledgerUp s = false ∧ s.isl.nextCmd = none ∧ s.isl.cfg = [] ∧
     s.isl.early = [] ∧ s.isl.mode ≠ .lockout) ∧
    (let s := island 0x80800000#32 (fun i => { i with checked := false, early := [(8, 0)], mode := .startup })
     s.isl.early = [(8, 0)] ∧ s.isl.cfg ≠ [] ∧ s.isl.checked = false ∧ s.isl.mode ≠ .lockout) ∧
    (let s := doomed (fun i => { i with checked := true, queue := [entry0] })
     s.isl.nextCmd = none ∧ ledgerUp s = true ∧ warning s = false ∧ s.isl.queue = [entry0] ∧ entry0.words.length = 6) ∧
    entryKind [0x03000000#32] = 3 := by decide

/-- An empty ledger has no entry that is sound. -/
theorem witness_SafetyCommandsAndLedger_empty : ledgerEntries up = [] := by decide +kernel

/-- Ranges hold of disabled outputs too: each names pair 7, which is enabled (R490). -/
def ranged (out : Word) : List Word :=
  [0, 0] ++ List.replicate 7 0x00010032#32 ++ [0x80011388#32] ++ (List.replicate 7 [0x00800000#32, 0x00C80032#32]).flatten ++
    [out, 0x03201388#32] ++ List.replicate 65 0

theorem witness_range : cfgRangeOk (ranged 0x00800000#32) = true ∧ cfgRangeOk (ranged 0) = false ∧
    cfgRangeOk (List.replicate 91 0) = false := by decide

/-! ## Host interface and power -/

def latched (b : Mailbox) : State := regs (putMailbox up 1 b) [(mbStat 1, 0x80000003#32)]

theorem witness_MailboxesWindowsAndDoorbells :
    takes up 1 Reg.HST_MB_SEL = true ∧ mbValue up 0x5110 = none ∧ mbValue up 0x510F = some ([], .none) ∧
    mbOn up 0x510F = true ∧
    (let s := latched { words := [1, 2, 3], tie := .capture 15, waiting := true }
     s.hst.mb[(1 : Fin 21)].waiting = true ∧ s.hst.mb[(1 : Fin 21)].words ≠ [] ∧ rdf s (mbStat 1) 0 3 = 3 ∧
     mbValid s 1 = true ∧ s.hst.mb[(1 : Fin 21)].words.length = 3 ∧ gives s 1 (Reg.HST_MB_D 2) = true) ∧
    (let at' (a : Nat) := regs up [(Reg.banked 1 Reg.HST_IND_ADDR, BitVec.ofNat 32 a)]
     winSite (indAddr (at' 0x100100) 1) = some (17, .staging) ∧ denied (at' 0x100100) 1 true 17 = false ∧
     (takes (at' 0x100100) 1 Reg.HST_IND_DATA = true ∧ gives (at' 0x100100) 1 Reg.HST_IND_DATA = true) ∧
     indAddr (at' 0xC0034) 1 = 0xC0034 ∧ denied up 1 true 16 = false ∧ denied up 1 false 16 = false ∧
     winSite 0x200000 = some (18, .frame 0 false) ∧ winSite 0x206C00 = some (18, .frame 3 true) ∧
     sbUrg (regs up [(Reg.SB_TXS 0, 0x00800000#32)]) 0 = true ∧ denied up 1 true 18 = false ∧ pdOn up 14 = true ∧
     pdOn (regs up [(Reg.PWR_PD_STAT, 3#32)]) 14 = false ∧ siteOn (regs up [(Reg.PWR_PD_STAT, 3#32)]) (Reg.INK_CTL) = false ∧
     winSite (indAddr (at' 0x400000) 1) = some (20, .fuse 0) ∧ (at' 0x400000).hst.fuseJob[(1 : Fin 21)] = none ∧
     winSite (indAddr (at' 0x7FFFFC) 1) = none) ∧
    (∀ b ∈ [true, false], ({ up with hst := { up.hst with fuseJob := up.hst.fuseJob.put 1 (some ⟨0, 1, b⟩) } }).hst.fuseJob[(1 : Fin 21)]
      = some ⟨0, 1, b⟩) ∧
    takes up 1 Reg.HST_DOORBELL = true ∧ pdOn up (pdOfCore 15) = true ∧ takes up 17 Reg.HST_HDB = true ∧
    (let s := regs up [(Reg.INK_EVR 127, 0x80078000#32)]
     rdb s (Reg.INK_EVR 127) 31 = true ∧ rdf s (Reg.INK_EVR 127) 16 8 = 7 ∧ rdf s (Reg.INK_EVR 127) 7 9 = 256) := by decide

def item (op : Byte) (p : Word) : TakenEntry := { idx := 0, tag := 1, op, w := [p, 0, 0, 0, 0, 0, 0, 0], spoilt := false }
def qentry (p : Word) : QEntry := { idx := 0, tag := 1, p1 := p, p2 := 0, p3 := 0, p4 := 0, p5 := 0, p6 := 0, p7 := 0, p8 := 0 }
def queued (l : List TagRec) : State :=
  { regs up [(Reg.HST_Q_CTL 7, 1#32), (Reg.HST_Q_WR 7, 1#32), (Reg.HST_Q_CFG 7, 1#32)] with
    hst := { up.hst with queue := up.hst.queue.upd 7 (fun k => { k with tags := l }) } }
def tag1 (r : Option Byte) : TagRec := { tag := 1, op := 0, result := r, idx := 0, repeats := [] }

theorem witness_QueueEntriesAreTaken :
    rowEntry 0 (qentry 0) = item 0 0 ∧ qWaits (queued []) 7 = true ∧ qTakeIdx (queued []) 7 = 0 ∧ qWaits up 7 = false ∧ pdOn (queued []) 10 = true ∧
    (∀ r ∈ [none, some 1], (queued [tag1 r]).hst.queue[(7 : Fin 8)].tags.find? (fun u => u.tag == (1 : Half)) = some (tag1 r)) ∧
    (queued []).hst.queue[(7 : Fin 8)].tags.find? (fun u => u.tag == (1 : Half)) = none ∧
    paramsOk 5 [] = false ∧ fullService up = false ∧
    (let s := regs (queued []) [(Reg.STW_BOOT_STAT, 0x90000000#32)]
     fullService s = true ∧ ∀ op : Fin 5, paramsOk (BitVec.ofNat 8 op.val) (item (BitVec.ofNat 8 op.val) 0).w = true ∧
       heldBack s 7 (item (BitVec.ofNat 8 op.val) 0) = false) ∧
    takes up 0 (Reg.HST_Q_WR 7) = true ∧ takes up 1 (Reg.HST_Q_CTL 7) = true ∧
    rdb up (Reg.HST_Q_CTL 7) 0 = false ∧ rdb (queued []) (Reg.HST_Q_CTL 7) 0 = true := by decide +kernel

theorem witness_ResetsAndTheirReach :
    (∀ m : Master, State.reset.hst.fuseJob[m] = none) ∧ up.isl.writing = none ∧ up.mgn.writing = none ∧ State.reset.pwr.por = true ∧ up.pwr.por = false ∧
    up.pwr.nReset = false ∧ ({ up with pwr := { up.pwr with nArmed := true } }).pwr.nArmed = true ∧
    ({ up with pwr := { up.pwr with nReset := true } }).pwr.nReset = true ∧ State.reset.isl.hbSeen = false ∧
    (island 0 (fun i => { i with hbSeen := true })).isl.hbSeen = true ∧ (island 0 id).isl.checked = true ∧
    (island 0 (fun i => { i with checked := false })).isl.checked = false ∧ (island 0 id).isl.mode ≠ .lockout := by decide

/-- Full service with a mask that names PD15. -/
def keyed : State := { serving with stw := { up.stw with machine := some { machine0 with pdMask := 0x8000 } } }

theorem witness_PowerIsSupervised :
    warning up = false ∧ warning (regs up [(Reg.PWR_STAT, 0x10#32)]) = true ∧ takes up 1 Reg.PWR_CTL = true ∧
    takes up 1 Reg.PWR_PD_REQ = true ∧ up.pwr.op = none ∧ fld 0x000F0000#32 16 4 = 15 ∧ pdKeyed up 15 1 = false ∧
    (srcOn up 0x130 = true ∧ forcedMode up 0x130 = 0 ∧ pdKeyed keyed 15 1 = true ∧ keyed.pwr.op = none) ∧
    ({ up with pwr := { up.pwr with op := some (15, 2) } }).pwr.op = some (15, 2) ∧ up.pwr.next = none ∧
    up.stw.route = [] := by decide

/-- Well-formed instructions, and words that decode. -/
theorem witness_QuillDecodesWhatItEncodes :
    qWf .fin = true ∧ qWf (.ldi 7 0xFFFF) = true ∧ decodeQ (encodeQ .fin) = some .fin := by decide

/-- The invariant that every step keeps, at reset and with a command waiting. -/
theorem witness_KeptByEveryStep : Kept [] State.reset ∧ Kept [.nrstPress] { State.reset with pending := [.nrstPress] } := by
  have h : smWf resetOf State.reset.regs = true ∧ Memory.wf State.reset.mem = true ∧ Memory.wf State.reset.wmem = true := by
    decide
  exact ⟨⟨rfl, h.1, h.2.1, h.2.2, reset_reps, reset_calls, reset_fifo, reset_trace, reset_tags⟩,
    ⟨rfl, h.1, h.2.1, h.2.2, reset_reps, reset_calls, reset_fifo, reset_trace, reset_tags⟩⟩

end Sys2Proof.Tests
end

section
/-! PROOF. The arithmetic of the Quill engines: saturated results and their flags (R89, R90, R98, R100) and ROT (R102,
R103). -/

namespace Sys2Proof.Machine

/-- The accumulators and SR of an engine: what arithmetic changes. -/
def accSr (g : QEng) : Tab 4 Acc × BitVec 5 := (g.a, g.sr)

theorem accSr_eq_iff (g g' : QEng) : accSr g = accSr g' ↔ g.a = g'.a ∧ g.sr = g'.sr :=
  ⟨fun h => ⟨congrArg Prod.fst h, congrArg Prod.snd h⟩, fun ⟨ha, hsr⟩ => Prod.ext ha hsr⟩

@[simp] theorem accSr_setPtr (s : State) (e : Fin 16) (y : Bool) (p : Fin 4) (v : BitVec 14) :
    accSr (eng (setPtr s e y p v) e) = accSr (eng s e) := by
  rw [eng_setPtr]
  cases y <;> rfl

@[simp] theorem accSr_advance_adv (s : State) (e : Fin 16) : accSr (eng (advance s e .adv) e) = accSr (eng s e) := by
  rw [eng_advance_adv]
  rfl

/-- A move field changes neither accumulators nor SR (R94). -/
@[simp] theorem accSr_qMove (s : State) (e : Fin 16) (g : QEng) (y : Bool) (mv : Option QMove) (quiet : Bool) :
    accSr (eng (qMove s e g y mv quiet) e) = accSr (eng s e) := by
  rw [eng_qMove]
  rfl

/-- Whatever its move fields, a P-format instruction leaves in accumulators and SR what its arithmetic computes from the
engine before it (R92, R94). -/
theorem accSr_parEffect (arith : PFmt → QEng → QEng) (f : PFmt) (e : Fin 16) (s : State) :
    accSr (eng (parEffect arith f e s) e) = accSr (arith f (eng s e)) := by
  simp [parEffect, eng_when]

/-- A straight instruction satisfies what holds of the accumulators and SR of its own effect. -/
theorem after_straight_accSr (e : Fin 16) (i : QInstr) (s : State) (h : (eng s e).run = .running)
    (hi : straight i = true) :
    after (rowOf e .clean i) s (fun t => accSr (eng t e) = accSr (eng (instrEffect i e s).1 e)) :=
  after_row e i s _ h (by rw [straight_eff i e s hi, accSr_advance_adv])

theorem after_par_accSr (e : Fin 16) (op : POp) (f : PFmt) (s : State) (h : (eng s e).run = .running) :
    after (pRow op e .clean f) s (fun t => accSr (eng t e) = accSr (parArith op f (eng s e))) := by
  rw [← accSr_parEffect]
  exact after_straight_accSr e (.par op f) s h rfl

/-- The outcome of a command may be weakened. -/
theorem after_mono {c : Instr} {s : State} {p q : State → Prop} (h : after c s p) (hpq : ∀ t, p t → q t) :
    after c s q := by
  obtain ⟨t, ht, hp⟩ := h
  exact ⟨t, ht, hpq t hp⟩

theorem accTakes_iff (s t : State) (e : Fin 16) (n : Fin 4) (x : Int) :
    AccTakes s e n x t ↔ accSr (eng t e) = accSr (putSat (eng s e) n x) :=
  (accSr_eq_iff (eng t e) (putSat (eng s e) n x)).symm

/-- An operation whose arithmetic is a saturated result writes it to its accumulator (R90, R98). -/
theorem after_par_accTakes {e : Fin 16} {f : PFmt} {s : State} {x : Int} (op : POp) (h : (eng s e).run = .running)
    (hop : parArith op f (eng s e) = putSat (eng s e) f.an x) :
    after (pRow op e .clean f) s (AccTakes s e f.an x) :=
  after_mono (after_par_accSr e op f s h) (fun _ ht => (accTakes_iff ..).mpr (ht.trans (congrArg accSr hop)))

theorem after_straight_accTakes {e : Fin 16} {s : State} {n : Fin 4} {x : Int} (i : QInstr)
    (h : (eng s e).run = .running) (hi : straight i = true)
    (hx : accSr (eng (instrEffect i e s).1 e) = accSr (putSat (eng s e) n x)) :
    after (rowOf e .clean i) s (AccTakes s e n x) :=
  after_mono (after_straight_accSr e i s h hi) (fun _ ht => (accTakes_iff ..).mpr (ht.trans hx))

theorem qProd_eq (x y : Half) : qProd x y = 2 * x.toInt * y.toInt := by
  unfold qProd
  rw [Int.mul_comm, ← Int.mul_assoc]

/-- PERR leaves the saturated difference of its positions, whether or not it moves its pointers (R100). -/
theorem accSr_perrEffect (n p q : Fin 4) (inc : Bool) (e : Fin 16) (s : State) :
    accSr (eng (perrEffect n p q inc e s) e) =
      accSr (putSat (eng s e) n (posAt s e false p - posAt s e true q).toInt) := by
  cases inc <;> simp [perrEffect]

theorem sat40_fst (v : Int) : (sat40 v).1 =
    if 2 ^ 39 ≤ v then 0x7FFFFFFFFF#40 else if v < -(2 ^ 39) then 0x8000000000#40 else BitVec.ofInt 40 v := by
  have above : v > 2 ^ 39 - 1 ↔ 2 ^ 39 ≤ v := by omega
  unfold sat40
  simp only [above]
  by_cases hi : (2 : Int) ^ 39 ≤ v
  · simp only [if_pos hi]
  · by_cases lo : v < -(2 ^ 39)
    · simp only [if_neg hi, if_pos lo]
    · simp only [if_neg hi, if_neg lo]

/-- Settles O1: the arithmetic of each operation is a saturated result, and neither its move fields nor the advance of
the PC touch accumulators or SR. -/
theorem quillArithmeticWritesSaturatedResult : Obligations.QuillArithmeticWritesSaturatedResult := by
  refine ⟨sat40_fst, fun s e f imm p q inc h => ?_⟩
  intro g a x y
  have product : qProd g.d[f.s1] g.d[f.s2] = 2 * x * y := qProd_eq _ _
  refine ⟨after_par_accTakes .mpy h ?mpy, after_par_accTakes .mac h ?mac, after_par_accTakes .msu h ?msu,
    after_par_accTakes .add h rfl, after_par_accTakes .sub h rfl, after_par_accTakes .adda h rfl,
    after_par_accTakes .suba h rfl, after_par_accTakes .lda h rfl, after_par_accTakes .clr h rfl,
    after_par_accTakes .neg h rfl, after_par_accTakes .abs h rfl, after_par_accTakes .ash h rfl,
    after_straight_accTakes (.addi f.an imm) h rfl ?addi,
    after_straight_accTakes (.perr f.an p q inc) h rfl (accSr_perrEffect ..),
    after_mono (after_par_accSr e .cmp f s h) fun t ht => (accSr_eq_iff ..).mp ht⟩
  case mpy => exact congrArg (putSat g f.an) product
  case mac => exact congrArg (fun z => putSat g f.an (a + z)) product
  case msu => exact congrArg (fun z => putSat g f.an (a - z)) product
  case addi => exact congrArg accSr (eng_updEng_self s e _)

/-- ROT changes accumulators and SR alone: a rotation by the signed angle whose sine is `n` (R103). -/
theorem eng_rotEffect (inv hi : Bool) (da db dth : Fin 8) (e : Fin 16) (s : State) :
    let g := eng s e
    let x := g.d[da].toInt
    let y := g.d[db].toInt
    let th := g.d[dth].toNat / 16
    let c := sine (th + 1024)
    let n := if inv then sine th else -sine th
    eng (rotEffect inv hi da db dth e s) e =
      { g with
        a := (g.a.put (if hi then 2 else 0) (BitVec.ofInt 40 (2 * (x * c - y * n)))).put (if hi then 3 else 1)
          (BitVec.ofInt 40 (2 * (x * n + y * c)))
        sr := flagsZN g.sr (BitVec.ofInt 40 (2 * (x * n + y * c))) } := by
  intro g x y th c n
  have first : (if inv then (x * c - y * sine th) * 2 else (x * c + y * sine th) * 2) = 2 * (x * c - y * n) := by
    cases inv <;> simp only [n, Bool.false_eq_true, if_true, if_false, Int.mul_neg] <;> omega
  have second : (if inv then (x * sine th + y * c) * 2 else (y * c - x * sine th) * 2) = 2 * (x * n + y * c) := by
    cases inv <;> simp only [n, Bool.false_eq_true, if_true, if_false, Int.mul_neg] <;> omega
  rw [← first, ← second]
  exact eng_updEng_self s e _

/-- Settles O8: the forward form is the inverse form of the negated sine. -/
theorem quillRotation : Obligations.QuillRotation := by
  intro s e inv hi da db dth h g x y th c n first second
  refine after_row e (.rot inv hi da db dth) s _ h ?_
  have rot : eng (instrEffect (.rot inv hi da db dth) e s).1 e = _ := eng_rotEffect inv hi da db dth e s
  rw [straight_eff _ e s rfl, eng_advance_adv, rot]
  exact ⟨rfl, rfl, rfl⟩

end Sys2Proof.Machine
end

section
/-! PROOF. The flow instructions of the Quill engines off the end of a body (R97, R107, R108). -/

namespace Sys2Proof.Machine

/-- Off the end of every body the levels stand, and the PC goes on to the next address (R106). -/
theorem loopBack_of_not_atLoopEnd (g : QEng) (h : atLoopEnd g = false) : loopBack g.pc g.reps = (g.pc + 1, g.reps) := by
  unfold atLoopEnd at h
  cases hr : g.reps with
  | nil => rfl
  | cons l r =>
    rw [hr, List.any_cons, Bool.or_eq_false_iff, beq_eq_false_iff_ne] at h
    exact if_neg h.1

@[simp] theorem eng_advance_goto (s : State) (e : Fin 16) (pc : BitVec 12) :
    eng (advance s e (.goto pc)) e = { eng s e with pc := pc } := eng_updEng_self s e _

theorem eng_advance_adv_of_not_atLoopEnd (s : State) (e : Fin 16) (h : atLoopEnd (eng s e) = false) :
    eng (advance s e .adv) e = { eng s e with pc := (eng s e).pc + 1 } := by
  rw [eng_advance_adv, loopBack_of_not_atLoopEnd _ h]

section
variable {s : State} {e : Fin 16} {c : Fin 13}

theorem jmpFlow_taken (a : BitVec 12) (he : atLoopEnd (eng s e) = false) (hc : condHolds (eng s e).sr c = true) :
    jmpFlow c a e s = (updEng s e (fun g => { g with reps := g.reps.filter (·.contains a) }), .goto a) := by
  simp [jmpFlow, he, hc]

theorem callFlow_taken (a : BitVec 12) (he : atLoopEnd (eng s e) = false) (hc : condHolds (eng s e).sr c = true)
    (hl : (eng s e).calls.length < 3) :
    callFlow c a e s = (updEng s e (fun g => { g with calls := (g.pc + 1) :: g.calls }), .goto a) := by
  simp [callFlow, he, hc, hl]

theorem retFlow_taken {b : BitVec 12} {r : List (BitVec 12)} (he : atLoopEnd (eng s e) = false)
    (hc : condHolds (eng s e).sr c = true) (hb : (eng s e).calls = b :: r) :
    retFlow c e s = (updEng s e (fun g => { g with calls := r }), .goto b) := by
  simp [retFlow, he, hc, hb]

theorem jmpFlow_not_taken (a : BitVec 12) (he : atLoopEnd (eng s e) = false) (hc : condHolds (eng s e).sr c = false) :
    jmpFlow c a e s = (s, .adv) := by
  simp [jmpFlow, he, hc]

theorem callFlow_not_taken (a : BitVec 12) (he : atLoopEnd (eng s e) = false)
    (hc : condHolds (eng s e).sr c = false) : callFlow c a e s = (s, .adv) := by
  simp [callFlow, he, hc]

theorem retFlow_not_taken (he : atLoopEnd (eng s e) = false) (hc : condHolds (eng s e).sr c = false) :
    retFlow c e s = (s, .adv) := by
  simp [retFlow, he, hc]

end

/-- An instruction whose effect is a change `k` of the engine and a jump to `pc`. -/
theorem after_goto {s : State} {e : Fin 16} (i : QInstr) {k : QEng → QEng} {pc : BitVec 12}
    (h : (eng s e).run = .running) (hi : instrEffect i e s = (updEng s e k, .goto pc)) :
    after (rowOf e .clean i) s (fun t => eng t e = { k (eng s e) with pc := pc }) :=
  after_row e i s _ h (by rw [hi, eng_advance_goto, eng_updEng_self])

/-- An instruction that is not taken goes on to the next address and changes nothing else of the engine. -/
theorem after_not_taken {s : State} {e : Fin 16} (i : QInstr) (h : (eng s e).run = .running)
    (he : atLoopEnd (eng s e) = false) (hi : instrEffect i e s = (s, .adv)) :
    after (rowOf e .clean i) s (fun t => eng t e = { eng s e with pc := (eng s e).pc + 1 }) :=
  after_row e i s _ h (by rw [hi, eng_advance_adv_of_not_atLoopEnd s e he])

/-- The levels a taken JMP keeps are those whose body, from first to last address, holds the target (R107). -/
theorem contains_eq (l : RepLevel) (a : BitVec 12) :
    l.contains a = decide (l.first.toNat ≤ a.toNat ∧ a.toNat ≤ l.last.toNat) :=
  (Bool.decide_and ..).symm

/-- Settles O10: off the end of a body each flow instruction is a jump or, where its condition is false, an advance past
no loop end. -/
theorem quillFlow : Obligations.QuillFlow := by
  intro s e c a h he g goes
  refine ⟨fun hc => ⟨?jmp, fun hl => ?call, fun b r hb => ?ret⟩, fun hc => ⟨?jmpOn, ?callOn, ?retOn⟩⟩
  case jmp =>
    simp only [← contains_eq]
    exact after_goto (.jmp c a) h (jmpFlow_taken a he hc)
  case call => exact after_goto (.call c a) h (callFlow_taken a he hc hl)
  case ret => exact after_goto (.ret c) h (retFlow_taken he hc hb)
  case jmpOn => exact after_not_taken (.jmp c a) h he (jmpFlow_not_taken a he hc)
  case callOn => exact after_not_taken (.call c a) h he (callFlow_not_taken a he hc)
  case retOn => exact after_not_taken (.ret c) h he (retFlow_not_taken he hc)

end Sys2Proof.Machine
end
